-- ==== Sys2Proof/Word.lean ====
section
/-! DEFINITION. The words of the module: bytes and the fixed widths of its registers and fields (00_scope.md, R11). -/

namespace Sys2Proof

abbrev Byte := BitVec 8
abbrev W16 := BitVec 16
abbrev W32 := BitVec 32
abbrev W64 := BitVec 64
/-- A 64 B line, stream unit or queue entry; byte k is bits [8k+7:8k] (R11: little-endian). -/
abbrev Line := BitVec 512

end Sys2Proof
end

