-- ==== Sys2Proof/Syntax.lean ====
section
/-! DEFINITION. The commands of the block: one constructor of `Instr` per row of spec/opcode_table.json.
A host request carries its session header (R437); an event of a core, link, join or memory names the unit it happens on. -/

namespace Sys2Proof

/-- Where a request came from: the binding of R445 and the SOURCE of R442. -/
inductive Source where
  | udp (addr : BitVec 128) (uport : W16) (port : Nat) (iface : Nat)
  | t1s (mac : BitVec 48)
  deriving DecidableEq, Repr

/-- The header fields of an object-protocol request (R437), the HSEQ of a COMMAND (R448), and the window connection
it came through, if any (R429). -/
structure Req where
  src : Source
  session : W32
  seq : W32
  hseq : W32
  via : Option Nat
  deriving DecidableEq, Repr

/-- The ACC field of an array slot (R67). -/
inductive Acc where
  | start | continue_ | finish | whole
  deriving DecidableEq, Repr

/-- The operand fields of an arithmetic vector slot (R67). -/
structure VArgs where
  vd : Fin 32
  va : Fin 32
  vb : Fin 32
  vc : Fin 32
  width : BitVec 2
  rnd : BitVec 2
  half : Bool
  deriving DecidableEq, Repr

/-- The operand fields of an array slot (R67): array 0 is A, 1 is B; NSLICE is the count of slices. -/
structure AArgs where
  arr : Fin 2
  bank : Fin 2
  desc : Fin 16
  nslice : Nat
  acc : Acc
  deriving DecidableEq, Repr

/-- A module message of class 0 or 1 (R316, R317, R367, R384). `port` is the torus port it arrived on (6: from the
module itself), `coord` its SRC, `data` what follows the 32-byte payload, `poisoned` bit 0 of POISON_MASK. -/
structure Msg where
  port : Nat
  coord : BitVec 15
  jobId : W32
  msgId : W32
  step : W64
  word : W32
  value : W64
  data : List Byte
  poisoned : Bool
  deriving DecidableEq, Repr

/-- A torus flit as received (R300): header, payload bytes 16-247, stored CRC, whether the FEC delivered it, and how many codewords the FEC has
corrected since the flit before it (R299, R325). -/
structure Flit where
  header : BitVec 128
  payload : List Byte
  crc : W64
  fecOk : Bool
  fecFixed : Nat
  deriving DecidableEq, Repr

/-- A queue pair: that of a window, or the storage QP of record 0-7 (R428, R436). -/
inductive Qp where
  | window (w : Nat)
  | storage (n : Nat)
  deriving DecidableEq, Repr

/-- The memories that patrol scrubbing reads (R200). -/
inductive ScrubMem where
  | hbm (stack : Nat)
  | baseStore (die : Nat)
  | coreStore (p : Nat)
  deriving DecidableEq, Repr

/-- The die-to-die joins (R272). -/
inductive Join where
  | bridge (j : Nat)
  | hub (d : Nat)
  | expansion
  deriving DecidableEq, Repr

/-- The judgement of a suspect replay (R401). -/
inductive Judgement where
  | returned | waitingOnInput | reproduced | spareFault (p : Nat) | notJudged
  deriving DecidableEq, Repr

/-- One sensor sample of every sensor (R524); temperatures in m°C, by die and by stack. -/
structure Sample where
  inputMv : Nat
  inputMa : Nat
  inputW : Nat
  inletMc : Int
  outletMc : Int
  dieMc : List Int
  hubMc : Int
  hbmMc : List Int
  deriving DecidableEq, Repr

/-- The junction or stack whose comparator trips (R525). -/
inductive TripSensor where
  | die (d : Nat) | hub | stack (s : Nat)
  deriving DecidableEq, Repr

/-- The commands, in the table's order. -/
inductive Instr where
  -- host commands
  | loadImage (r : Req) (window : W16) (reserved : W16)
  | unload (r : Req)
  | runSteps (r : Req) (count : W64)
  | stop (r : Req)
  | checkpoint (r : Req)
  | restore (r : Req) (step : W64) (slot : Byte) (reserved : BitVec 24)
  | enterMaintenance (r : Req)
  | leaveMaintenance (r : Req)
  | markSuspect (r : Req) (step : W64) (vat : W16)
  | resetDomain (r : Req) (domain : Byte) (index : W16)
  | fenceCore (r : Req) (p : W16)
  | proveCore (r : Req) (p : W16)
  | linkReset (r : Req) (port : Byte)
  | openWindow (r : Req) (kind access portByte reserved : Byte) (region hostQpn : W32) (gid : BitVec 128)
  | closeWindow (r : Req) (window reserved : W16)
  | updateFirmware (r : Req) (window reserved : W16)
  | activateFirmware (r : Req) (image flags : Byte) (reserved : W16)
  | attest (r : Req) (nonce : BitVec 256)
  | enrollKey (r : Req) (level key : Byte) (reserved : W16) (pub : BitVec 1064)
  | revokeKey (r : Req) (level key : Byte) (reserved : W16)
  | testPort (r : Req) (st : Byte) (reserved : BitVec 24) (sig : BitVec 1056)
  | repairHbm (r : Req) (stack : Byte) (reserved : BitVec 24)
  -- sessions and the object protocol
  | openRequest (src : Source) (level key : Byte) (reserved : W16) (nonce : BitVec 256)
  | openProof (src : Source) (session : W32) (sig : BitVec 1056)
  | close (r : Req)
  | read (r : Req) (index : W16) (sub reserved : Byte) (offset : W32)
  | write (r : Req) (index : W16) (sub reserved : Byte) (offset : W32) (value : List Byte)
  | windowSend (w : Nat) (bytes : List Byte)
  | statusWrite (r : Req) (p : Nat) (v : W32)
  | vecFlagsWrite (r : Req) (p : Nat) (v : Byte)
  | alertFlagsWrite (r : Req) (v : W32)
  | bgDeferWrite (r : Req) (v : W16)
  | mirrorReserveWrite (r : Req) (v : W32)
  | ledgerReserveWrite (r : Req) (v : W16)
  | jobIdWrite (r : Req) (v : W32)
  | storageTargetWrite (r : Req) (n : Nat) (rec : BitVec 512)
  | completionRouteWrite (r : Req) (slot : Nat) (rec : BitVec 256)
  | portEnableWrite (r : Req) (port : Nat) (v : Byte)
  | verifierEnableWrite (r : Req) (v : Byte)
  | telemetryPeriodWrite (r : Req) (v : W32)
  -- RDMA and Ethernet
  | regionWindowWrite (w : Nat) (addr : Nat) (data : List Byte)
  | regionWindowRead (w : Nat) (addr len : Nat)
  | stepInputWrite (w : Nat) (va : W64) (data : List Byte)
  | imageWindowAccess (w : Nat) (isWrite : Bool) (addr len : Nat) (data : List Byte)
  | qpError (q : Qp)
  | cnpReceived (q : Qp)
  | rateRecoveryTick (q : Qp)
  | pfcFrameReceived (port iface : Nat) (prio : Nat) (quanta : W16)
  | arpRequest (port iface : Nat) (target : W32)
  | neighborSolicitation (port iface : Nat) (target : BitVec 128)
  | icmpEcho (port iface : Nat) (v6 : Bool) (dst : BitVec 128) (payload : List Byte)
  | ringConsumerReadDone (slot : Nat) (count : W64)
  | sessionIdleExpiry (slot : Nat)
  | challengeExpiry (slot : Nat)
  -- control core
  | aluAdd (p : Nat) (x : Fin 4) (gd ga gb : Fin 32)
  | aluSub (p : Nat) (x : Fin 4) (gd ga gb : Fin 32)
  | aluAnd (p : Nat) (x : Fin 4) (gd ga gb : Fin 32)
  | aluOr (p : Nat) (x : Fin 4) (gd ga gb : Fin 32)
  | aluXor (p : Nat) (x : Fin 4) (gd ga gb : Fin 32)
  | aluSll (p : Nat) (x : Fin 4) (gd ga gb : Fin 32)
  | aluSrl (p : Nat) (x : Fin 4) (gd ga gb : Fin 32)
  | aluSra (p : Nat) (x : Fin 4) (gd ga gb : Fin 32)
  | aluMul (p : Nat) (x : Fin 4) (gd ga gb : Fin 32)
  | aluMulhu (p : Nat) (x : Fin 4) (gd ga gb : Fin 32)
  | aluSlt (p : Nat) (x : Fin 4) (gd ga gb : Fin 32)
  | aluSltu (p : Nat) (x : Fin 4) (gd ga gb : Fin 32)
  | addi (p : Nat) (x : Fin 4) (gd ga : Fin 32) (imm : W16)
  | andi (p : Nat) (x : Fin 4) (gd ga : Fin 32) (imm : W16)
  | ori (p : Nat) (x : Fin 4) (gd ga : Fin 32) (imm : W16)
  | lui (p : Nat) (x : Fin 4) (gd : Fin 32) (imm : W16)
  | lw (p : Nat) (x : Fin 4) (gd ga : Fin 32) (imm : W16)
  | sw (p : Nat) (x : Fin 4) (gd ga : Fin 32) (imm : W16)
  | lcs (p : Nat) (x : Fin 4) (gd ga : Fin 32) (imm : W16)
  | beq (p : Nat) (x : Fin 4) (ga gb : Fin 32) (off : W16)
  | bne (p : Nat) (x : Fin 4) (ga gb : Fin 32) (off : W16)
  | blt (p : Nat) (x : Fin 4) (ga gb : Fin 32) (off : W16)
  | bge (p : Nat) (x : Fin 4) (ga gb : Fin 32) (off : W16)
  | bltu (p : Nat) (x : Fin 4) (ga gb : Fin 32) (off : W16)
  | bgeu (p : Nat) (x : Fin 4) (ga gb : Fin 32) (off : W16)
  | jal (p : Nat) (x : Fin 4) (gd : Fin 32) (off : BitVec 21)
  | jalr (p : Nat) (x : Fin 4) (gd ga : Fin 32) (imm : W16)
  | push (p : Nat) (x : Fin 4) (queue : Fin 5) (ga gb : Fin 32) (patch : Bool)
  | pushResume (p : Nat) (x : Fin 4)
  | waitsc (p : Nat) (x : Fin 4) (ctr : Fin 16) (value : W16)
  | waitscRelease (p : Nat) (x : Fin 4)
  | sigsc (p : Nat) (x : Fin 4) (ctr : Fin 16)
  | stepend (p : Nat) (x : Fin 4)
  | stepTokenReturn (p : Nat) (x : Fin 4)
  | stepno (p : Nat) (x : Fin 4) (gd : Fin 32) (hi : Bool)
  -- bundle engine
  | groupStart (p : Nat)
  | groupBufferFill (p : Nat)
  | bundleIssue (p : Nat)
  | groupComplete (p : Nat)
  -- arrays
  | mma (p : Nat) (a : AArgs)
  | arrayMax (p : Nat) (a : AArgs)
  | arrayMin (p : Nat) (a : AArgs)
  | drain (p : Nat) (arr bank : Fin 2) (desc : Fin 16)
  | arrayResultLanding (p : Nat) (arr bank : Fin 2)
  -- vector unit
  | vecFma (p : Nat) (v : VArgs)
  | vecMul (p : Nat) (v : VArgs)
  | vecAdd (p : Nat) (v : VArgs)
  | vecSub (p : Nat) (v : VArgs)
  | vecMax (p : Nat) (v : VArgs)
  | vecMin (p : Nat) (v : VArgs)
  | cast (p : Nat) (vd va : Fin 32) (sfmt tfmt : BitVec 4) (sr : Bool)
  | div (p : Nat) (v : VArgs)
  | sqrt (p : Nat) (v : VArgs)
  | vload (p : Nat) (vd : Fin 32) (offset : BitVec 14) (mfmt : BitVec 4)
  | vstore (p : Nat) (vs : Fin 32) (offset : BitVec 14) (mfmt : BitVec 4)
  | vbank (p : Nat) (vd : Fin 32) (arr bank : Fin 2) (row : Fin 64)
  | update (p : Nat) (v : VArgs)
  -- row engine
  | softmaxF (p : Nat) (desc : Fin 16) (rows : Nat)
  | softmaxB (p : Nat) (desc : Fin 16) (rows : Nat)
  | layernormF (p : Nat) (desc : Fin 16) (rows : Nat)
  | layernormB (p : Nat) (desc : Fin 16) (rows : Nat)
  | rmsnormF (p : Nat) (desc : Fin 16) (rows : Nat)
  | rmsnormB (p : Nat) (desc : Fin 16) (rows : Nat)
  | swatchEvaluate (p : Nat)
  -- engines: each takes the command at the head of its context's queue
  | loadCopy (p : Nat) (x : Fin 4)
  | amax (p : Nat) (x : Fin 4)
  | gather (p : Nat) (x : Fin 4)
  | loadStash (p : Nat) (x : Fin 4)
  | storeCopy (p : Nat) (x : Fin 4)
  | scatter (p : Nat) (x : Fin 4)
  | scatterAdd (p : Nat) (x : Fin 4)
  | storeStash (p : Nat) (x : Fin 4)
  | streamSend (p : Nat) (port : Fin 2) (x : Fin 4)
  | streamRecv (p : Nat) (port : Fin 2) (x : Fin 4)
  | chain (p : Nat) (port : Fin 2) (x : Fin 4)
  | commandComplete (p : Nat) (queue : Fin 5) (x : Fin 4)
  | commandTimeout (p : Nat) (queue : Fin 5) (x : Fin 4)
  | streamUnitArrival (stream : Nat) (unit : Line) (poison : Bool)
  | streamCreditReturn (stream : Nat)
  -- memories
  | wcbIdleFlush (die pc : Nat) (line : Nat)
  | narrowEntryTimeout (die pc : Nat)
  | narrowLineReturn (die pc : Nat)
  | patrolScrubRead (m : ScrubMem) (hit : Bool)
  | hbmRecalibration (stack : Nat)
  | hbmRetrainComplete (stack : Nat)
  -- steps, replay and recovery
  | stepStart
  | vatToken (vat : Nat) (n : W64)
  | replayStart
  | replayComplete (vat : Nat) (n : W64)
  | quiesceComplete
  | suspectReplayJudged (j : Judgement)
  | provingDue (p : Nat)
  | provingComplete (p : Nat) (failed : Option (Fin 4))
  | fenceRemapComplete (p : Nat)
  | mirrorDeltaStart
  -- class-0 messages
  | halt (m : Msg)
  | ready (m : Msg)
  | grant (m : Msg)
  | stopReport (m : Msg)
  | target (m : Msg)
  | resume (m : Msg)
  | restoreEnd (m : Msg)
  -- class-1 messages
  | mirrorOpen (m : Msg)
  | mirrorBegin (m : Msg)
  | mirrorGranule (m : Msg)
  | mirrorEnd (m : Msg)
  | mirrorAbort (m : Msg)
  | mirrorAck (m : Msg)
  | mirrorInvalid (m : Msg)
  | mirrorRead (m : Msg)
  | mirrorData (m : Msg)
  | shardReport (m : Msg)
  | restoreReport (m : Msg)
  -- storage
  | manifestInvalidated
  | storageWriteAck (n : Nat)
  | storageWriteFailure (n : Nat)
  | storageReadResponse (data : List Byte) (ok : Bool)
  | gatherTimeout
  -- torus link layer
  | flitData (port : Nat) (f : Flit)
  | flitStreamCredit (port : Nat) (f : Flit)
  | flitNull (port : Nat) (f : Flit)
  | marker (port : Nat) (f : Flit)
  | peerRecord (port : Nat) (rec : List Byte)
  | torusAccept (port : Nat)
  | torusRefuse (port : Nat) (reason : Byte)
  | laneMap (port : Nat) (map : List Byte)
  | signalDetect (port : Nat) (lanes : Nat)
  | equalizationComplete (port : Nat) (trained : List Nat)
  | alignComplete (port : Nat)
  | torusLaneFault (port : Nat) (lane : Nat) (recovered : Bool)
  | flapDecay (port : Nat) (lane : Nat)
  | retrainTimeout (port : Nat)
  | linkUpTimeout (port : Nat)
  | lossOfSignal (port : Nat) (lanesLost : Nat) (peerDown : Bool)
  -- die-to-die joins
  | d2dUnitFrame (j : Join) (header : W64) (unit : Line)
  | d2dCreditFrame (j : Join) (header : W64)
  | d2dLaneFault (j : Join) (chan : Nat) (laneRepairable : Bool)
  | d2dRetrainComplete (j : Join) (ok : Bool)
  | d2dLinkUp (j : Join) (rateGts : Nat)
  | capabilityRecord (j : Join) (rec : BitVec 256)
  | endpointRecord (rec : BitVec 128)
  | negotiationTimeout (j : Join)
  | expansionDownTimeout
  | expansionRailOvercurrent
  -- dies, hub, power, clocks
  | dieWatchdogExpiry (d : Nat)
  | diePllLoss (d : Nat)
  | dieResetComplete (d : Nat)
  | hubWatchdogExpiry
  | hubReturn
  | hubBootComplete
  | bootWatchdog
  | inputPowerGood (straps : Byte)
  | inputPowerLoss
  | rstInNAsserted
  | rstInNReleased (refclkGood : Bool)
  | refclkLoss
  | refclkReturn
  | thermalTripComparator (sensor : TripSensor) (mc : Int)
  | sensorSample (v : Sample)
  | railOutOfRegulation (rail : Nat)
  | telemetryPeriod
  | eventLogFlush
  | bgDeferExpiry (bit : Fin 8)
  | flashHousekeeping (erases : Nat) (blockReplaced : Bool)
  -- test port
  | tapExtest (bits : BitVec 14)
  | tapIdcode
  | tapSamplePreload (bits : BitVec 14)
  | tapBypass
  | tapInternalScan (op : Byte)
  -- later rows of the table
  | mirrorGranuleSent
  | shardBlockCoded
  | hbmStackFailure (stack : Nat)
  | ethernetLinkUp (port iface : Nat)
  | ethernetLinkDown (port iface : Nat)
  | d2dLinkLoss (j : Join)
  | imageLoadComplete
  | firmwareWriteComplete (ok : Bool)
  | hbmRepairComplete (stack : Nat)
  | commandLimitExpiry (handle : W32)
  | activationHubReset
  | ackTimeoutExpiry (q : Qp)
  | pfcPauseExpiry (port iface : Nat)
  | suspectMarkExpiry (p : Nat)
  | tripLatchClear
  | dimensionWrite (r : Req) (axis : Fin 3) (v : Byte)
  | alertEnableWrite (r : Req) (v : W32)
  | pllCalibration
  | voltageCalibration
  deriving DecidableEq, Repr

end Sys2Proof
end

