-- ==== Sys2Proof/Config.lean ====
section
/-! DEFINITION. What one module fixes at manufacture and what the spec leaves open: free values, opaque constants with no
body, so that every statement holds whatever they are. -/

namespace Sys2Proof.Config

/-- A value the spec leaves open: the k-th fresh draw (k is `State.fresh`). -/
opaque freeValue : Nat → W64

/-- Whether a fused multiply-add of zero, infinity and a quiet NaN raises INVALID, which IEEE 754-2019 leaves open (R135). -/
opaque fmaQuietInvalid : Bool

/-- Whether a write of the hub's flash fails, by entry key and count of free values drawn (R464, R497, R500). -/
opaque flashFails : Nat → Nat → Bool

/-- Which register's write stands where two registers of one UPDATE are the same, which R166 leaves open: a rotation of its writes, by the
operation's issue order. -/
opaque updateOrder : Nat → Nat

/-- SHA-512 (named by R260, R262, R382, defined outside the spec). -/
opaque sha512 : List Byte → BitVec 512

/-- ECDSA P-521 verification of (r, s) under a SEC 1 public key over a SHA-512 digest (R388, R442, R495, R502). -/
opaque ecdsaVerify : BitVec 1064 → BitVec 512 → BitVec 1056 → Bool

/-- ECDSA P-521 signature with the module's identity key (R442, R501). -/
opaque ecdsaSign : BitVec 512 → BitVec 1056

/-- Whether a SEC 1 point lies on P-521 (R500). -/
opaque onCurve : BitVec 1064 → Bool

/-- Celbocor's root public key and service public key, held in the hub's ROM (R495, R502). -/
opaque rootKey : BitVec 1064
opaque serviceKey : BitVec 1064

/-- The identity record 0x1018:00, set at manufacture (R469): its 256 bytes as one little-endian number. -/
opaque identityRecord : BitVec 2048

/-- The public key that MAINTAINER slot 0 holds from manufacture (R499). -/
opaque maintainerKey : BitVec 1064

/-- FW_DIGEST of the image that area A holds from manufacture (R501). -/
opaque factoryDigest : BitVec 512

/-- MAC addresses fixed at manufacture (R425, R440): by port and interface; port 4 is the T1S port. -/
opaque mac : Nat → Nat → BitVec 48

/-- MAKER, PRODUCT and REVISION of the capability record of die 0-3 and of the hub, 4 (R285). -/
opaque makerFields : Nat → BitVec 48

/-- Repair rows of a stack at manufacture (0xC020), and spare blocks of the flash at manufacture (0xC030:02). -/
opaque spareRows : Nat → W16
opaque spareBlocks : W16

/-- The ten bytes of fields of a scan set's record (R406, 0xC011), set in flash at manufacture; its reserved bytes are zero (R13). -/
opaque scanSet : Nat → BitVec 80

/-- What the verifier finds about every run of an image's control code where the model's trace of it cannot tell: every reuse of a staging
range waits for its readers (R57), and overlapping micro-batches use disjoint stash slots (R171). -/
opaque orderSound : List Byte → Bool

/-- Whether every queue-entry template that the control code of an image pushes has a record (R259, R264), where the model's trace of it
cannot tell. -/
opaque templatesListed : List Byte → Bool

end Sys2Proof.Config
end

