-- ==== Sys2Proof/Machine/State.lean ====
section
/-! DEFINITION. The state of one module as plain data, its faults and refusals, and the state after reset.
Scalar entries of the object dictionary (R476-R485) live in one sparse map `obj`, keyed index × 256 + subindex, an entry
being listed only while it differs from its default; everything the dictionary does not hold has a field of its own. -/

namespace Sys2Proof.Machine

/-- A map from Nat in canonical form: keys strictly rising, and (by the operations of Ops) no entry equal to the default. -/
abbrev SMap (α : Type) := List (Nat × α)

/-- The three grades (R1). -/
inductive Grade where
  | tvx4F | tvx4S | tvx2F
  deriving DecidableEq, Repr, Inhabited

/-- The module states (R31). -/
inductive MState where
  | off | boot | standby | ready | running | stopping | stopped | recovering | faulted | maintenance
  deriving DecidableEq, Repr, Inhabited

/-- The step states (R20). -/
inductive StepSt where
  | pending | running | provisional | checking | fixed | mirrored | discarded
  deriving DecidableEq, Repr, Inhabited

/-- The handle of a command: the SESSION word that issued it, the handle (R448) and the window connection it came by. -/
structure Hnd where
  session : W32
  handle : W32
  via : Option Nat
  deriving DecidableEq, Repr, Inhabited

/-- A completion record (R453). -/
structure Rec where
  handle : W32
  status : Nat
  kind : Nat
  stepState : Nat
  step : Nat
  r0 : Nat
  r1 : Nat
  r2 : Nat
  r3 : Nat
  deriving DecidableEq, Repr, Inhabited

/-- A REPLY (R437, R438). -/
structure Reply where
  session : W32
  seq : W32
  status : Nat
  otype : Nat
  handle : W32
  total : Nat
  data : List Byte
  deriving DecidableEq, Repr, Inhabited

/-- An event record (R470). -/
structure EventRec where
  code : Nat
  severity : Nat
  seq : Nat
  uptimeMs : Nat
  step : Nat
  arg0 : Nat
  arg1 : Nat
  deriving DecidableEq, Repr, Inhabited

/-- What the module has sent, in order: the model's own record of its outputs. -/
inductive OutMsg where
  | reply (via : Option Nat) (m : Reply)
  | challenge (dest : Source) (status : Nat) (session : W32) (nonceM : BitVec 256) (sig : BitVec 1056)
  | openResult (dest : Source) (status : Nat)
  | completion (session : W32) (seq : Nat) (via : Option Nat) (r : Rec)
  | event (session : W32) (seq : Nat) (e : EventRec)
  | telemetry (session : W32) (seq : Nat) (body : List Byte)
  | ringWrite (window : Nat) (addr : Nat) (data : List Byte)
  | ringConsumerRead (slot : Nat) (addr : Nat)
  | rdmaAck (window : Nat)
  | rdmaNak (window : Nat) (code : Nat)
  | rdmaData (window : Nat) (data : List Byte)
  | flit (port : Nat) (f : Flit)
  | frame (j : Join) (channel : Nat) (header : W64) (unit : Line)
  | creditFrame (j : Join) (channel : Nat) (header : W64)
  | sideband (j : Join) (msg : Nat) (arg : Nat)
  | storageWrite (record : Nat) (addr : Nat) (data : List Byte)
  | storageRead (record : Nat) (addr len : Nat)
  | arpReply (port iface : Nat) (addr : W32) (mac : BitVec 48)
  | ndAdvert (port iface : Nat) (addr : BitVec 128) (mac : BitVec 48)
  | icmpReply (port iface : Nat) (v6 : Bool) (payload : List Byte)
  | pfc (port iface : Nat) (xoff : Bool)
  | retransmit (q : Qp)
  | frozenFill (region : Nat)
  deriving DecidableEq, Repr

/-- A session slot in use (R441-R446, R455-R457): reserved by a CHALLENGE until `opened`. -/
structure Session where
  slot : Nat
  tag : Nat
  level : Nat
  key : Nat
  src : Source
  opened : Bool
  nonceC : BitVec 256
  nonceM : BitVec 256
  highSeq : Nat
  replies : List (Nat × Reply)
  modSeq : Nat
  usedHseq : List Nat
  outstanding : List W32
  ringK : Nat
  ringC : Nat
  reading : Bool
  held : List Rec
  log : List Rec
  snaps : List (Nat × Nat × List Byte)
  eventsSec : Nat
  eventsAt : Nat
  deriving DecidableEq, Repr

/-- An open window and its QP (R428-R435). rateNum / rateDen is the rate of the QP as a share of the line rate (R427). -/
structure Window where
  num : Nat
  kind : Nat
  canRead : Bool
  canWrite : Bool
  port : Nat
  iface : Nat
  region : Nat
  hostQpn : Nat
  gid : BitVec 128
  qpn : Nat
  rkey : W32
  session : W32
  rateNum : Nat
  rateDen : Nat
  retries : Nat
  closing : Option Hnd
  deriving DecidableEq, Repr

/-- A storage QP (R436): state 0 unused, 1 ready, 2 error. -/
structure StorageQp where
  state : Nat
  qpn : Nat
  rateNum : Nat
  rateDen : Nat
  retries : Nat
  deriving DecidableEq, Repr, Inhabited

/-- The causes of a suspect mark, as the counters of 0x5021 divide them (R337, R369). -/
inductive MarkCause where
  | parity | swatch | timeout | host | audit | scrub
  deriving DecidableEq, Repr, Inhabited

/-- The kinds of context incident (R397). -/
inductive IncidentKind where
  | timeout | trap | control
  deriving DecidableEq, Repr, Inhabited

/-- Where an incident happened (R401): core, context, queue (5: the control core) and the count of commands or instructions. -/
structure Incident where
  kind : IncidentKind
  p : Nat
  lcore : Nat
  ctx : Nat
  queue : Nat
  count : Nat
  deriving DecidableEq, Repr, Inhabited

/-- One issued step (R15, R20); `waited`: it has been held for journal space (R331); `unverified` names the
undecided segment under 0x5012:00 = 1 (R354); `met` is the incident that its last run met (R402); `chosen` keeps the exponents that AMAX chose in it (R122, R142). -/
structure StepRec where
  n : Nat
  st : StepSt
  started : Bool
  waited : Bool
  hnd : Option Hnd
  run : Nat
  unverified : Option Nat
  marks : List (Nat × MarkCause)
  swatchOwing : List Nat
  tokens : List Nat
  passedTorus : Bool
  digests : SMap (W64 × W64)
  loss : Nat
  reruns : Nat
  granules : List Nat
  maxima : SMap W32
  chosen : SMap Int
  met : Option Incident
  deriving DecidableEq, Repr, Inhabited

/-- A rollback in progress (R36, R414-R416). `stopped` and `noResume` are bits 1 and 2 of the module's own STOP_REPORT. -/
structure Rollback where
  quiesced : Bool
  target : Option Nat
  cannotReach : Bool
  noResume : Bool
  held : Bool
  sent : Option (Nat × Nat)
  cause : Nat
  deriving DecidableEq, Repr, Inhabited

/-- An entry of a vat's queue (R244). -/
inductive VatEntry where
  | run (n : Nat)
  | abandon (n : Nat)
  deriving DecidableEq, Repr, Inhabited

/-- The ledger's step keeping (R15-R36, R452); `vatQueue` holds the queue of each vat, oldest entry first. -/
structure Steps where
  list : List StepRec
  runs : SMap Nat
  stopPending : Bool
  stopHnd : List Hnd
  runHnd : Option Hnd
  runEnd : Option Nat
  childReady : SMap Nat
  sentReady : Nat
  ownReady : Nat
  lost : Bool
  childStop : SMap (Nat × Nat)
  rollback : Option Rollback
  resumeSent : Bool
  seen : List (Nat × Nat × Nat)
  msgId : Nat
  vatQueue : SMap (List VatEntry)
  heldHalts : List Nat
  deriving DecidableEq, Repr, Inhabited

/-- A binding record (R239). `own`: A0, A1, B0, B1, row engine. -/
structure Bind where
  lcore : Nat
  ctx : Nat
  own : List Bool
  vat : Nat
  codeBase : Nat
  codeLen : Nat
  entry : Nat
  dmemBase : Nat
  dmemLen : Nat
  rangeFirst : Nat
  rangeCount : Nat
  codeOffset : Nat
  dmemOffset : Nat
  deriving DecidableEq, Repr, Inhabited

/-- A range record (R240): kind 0 STAGING, 1 WORK, 2 STATIC, 3 CELLS. -/
structure Range where
  start : Nat
  length : Nat
  kind : Nat
  initOffset : Nat
  deriving DecidableEq, Repr, Inhabited

/-- A vat descriptor (R242). -/
structure Vat where
  num : Nat
  parent : Nat
  segment : Bool
  tolerance : Bool
  ilvFirst : Nat
  ilvCount : Nat
  deriving DecidableEq, Repr, Inhabited

/-- A region declaration (R252), with the base address its placement gives it (R254). -/
structure Region where
  num : Nat
  kind : Nat
  baseCached : Bool
  perm : Nat
  die : Nat
  sizeMib : Nat
  owner : Nat
  addr : Nat
  deriving DecidableEq, Repr, Inhabited

/-- A scale declaration (R127). -/
structure Scale where
  tensor : Nat
  fmt : Nat
  mode : Nat
  mx : Bool
  sr : Bool
  histLen : Nat
  margin : W32
  fixedExp : Int
  deriving DecidableEq, Repr, Inhabited

/-- A scale cell (R257). -/
structure CellRec where
  tensor : Nat
  lcore : Nat
  cell : Nat
  deriving DecidableEq, Repr, Inhabited

/-- A stash declaration (R151). -/
structure Stash where
  num : Nat
  srcFmt : Nat
  mode : Nat
  region : Nat
  deriving DecidableEq, Repr, Inhabited

/-- A stream declaration (R224). -/
structure StreamD where
  num : Nat
  src : W32
  dst : W32
  cls : Nat
  journal : Bool
  credits : Nat
  deriving DecidableEq, Repr, Inhabited

/-- A chain record (R258). -/
structure ChainD where
  num : Nat
  op : Nat
  mode : Nat
  ret : Bool
  n : Nat
  memberFirst : Nat
  fwdBase : Nat
  retBase : Nat
  decl : Nat
  deriving DecidableEq, Repr, Inhabited

/-- A budget record (R259). -/
structure Budget where
  lcore : Nat
  ctx : Nat
  queue : Nat
  dmemAddr : Nat
  cycles : Nat
  deriving DecidableEq, Repr, Inhabited

/-- A LINKS record (R320). -/
structure LinkD where
  chain : Nat
  inStream : Nat
  outStream : Nat
  retIn : Nat
  retOut : Nat
  position : Nat
  deriving DecidableEq, Repr, Inhabited

/-- A JOURNAL record (R336): a host input, or a die's pages per step. -/
structure JournalD where
  isInput : Bool
  id : Nat
  target : Nat
  bytes : Nat
  deriving DecidableEq, Repr, Inhabited

/-- A bound image (R237, R238): its records. `sections` are (type, offset, length, count); `failed` are the stacks that were FAILED as it was
loaded (R420). -/
structure Image where
  lcores : Nat
  length : Nat
  sections : List (Nat × Nat × Nat × Nat)
  binds : List Bind
  ranges : List Range
  vats : List Vat
  regions : List Region
  scales : List Scale
  cells : List CellRec
  stashes : List Stash
  streams : List StreamD
  chains : List ChainD
  members : List Nat
  ilv : List (Nat × Nat)
  budgets : List Budget
  links : List LinkD
  journal : List JournalD
  loss : Option (Nat × Nat)
  failed : List Nat
  deriving DecidableEq, Repr, Inhabited

/-- Why a context does not run (R53, R55, R51). -/
inductive Stall where
  | none
  | push (queue : Nat) (entry : Line)
  | wait (ctr : Nat) (value : W16)
  | stepend
  deriving DecidableEq, Repr, Inhabited

/-- A unit of a stream with its poison bit (R197). -/
abbrev SUnit := Line × Bool

/-- A chain command in progress (R231), or an AMAX in its maximum chain (R214): its phase, the scale unit or maximum received, the units of
the group combined so far, whether the scale unit's credit is owed (R225), and the units still to be sent. -/
structure ChainBuf where
  phase : Nat
  got : List SUnit
  acc : List SUnit
  owed : Bool
  toSend : List SUnit
  deriving DecidableEq, Repr, Inhabited

/-- A hardware context (R58): registers, program counter, sync counters, queues, vector registers, partition, binding, the
step it runs, and the ledger's per-context lanes (R345) and slice count (R339). `dmemHits` are the bytes of its partition that the image
brought with a parity hit (R197). -/
structure Ctx where
  bound : Bool
  bind : Bind
  ranges : List Range
  dmemInit : SMap Byte
  dmemHits : List Nat
  g : SMap W32
  pc : W32
  sc : SMap W16
  v : SMap Byte
  vPoison : List Nat
  queues : SMap (List Line)
  taken : SMap (Line × Nat)
  chains : SMap ChainBuf
  stall : Stall
  stopped : Bool
  running : Bool
  step : Nat
  live : Nat
  pushed : SMap Nat
  executed : Nat
  lanes : List (W64 × W64)
  slices : Nat
  deriving DecidableEq, Repr, Inhabited

/-- A tile of 64 × 64 words, keyed row × 64 + column, unlisted +0. -/
abbrev Tile := SMap W32

/-- The kind and arithmetic of an open reduction (R90): MMA, MAX or MIN; integer or floating point. -/
inductive RedKind where
  | mma | max | min
  deriving DecidableEq, Repr, Inhabited

/-- A running candidate of MAX or MIN (R95): rank value as a binary32 code or an integer, and its index. -/
structure Cand where
  value : Int
  bits : W32
  index : W32
  nan : Bool
  deriving DecidableEq, Repr, Inhabited

/-- An open reduction of a bank (R89, R90, R95). -/
structure Red where
  kind : RedKind
  integer : Bool
  levels : SMap Tile
  group : Option Tile
  cands : SMap Cand
  kBase : Nat
  poison : Bool
  deriving DecidableEq, Repr, Inhabited

/-- An accumulator bank with its carry stack (R41, R89). -/
structure Bank where
  vals : Tile
  poison : Bool
  red : Option Red
  deriving DecidableEq, Repr, Inhabited

/-- A mordant slot (R162). -/
structure Mordant where
  layer : Nat
  mb : Nat
  kind : Nat
  w0 : W32
  w1 : W32
  poison : Bool
  deriving DecidableEq, Repr, Inhabited

/-- An issued operation of a bundle slot (R67). -/
inductive SlotOp where
  | array (kind : RedKind) (a : AArgs)
  | drain (arr bank : Fin 2) (desc : Fin 16)
  | vec (op : Nat) (v : VArgs)
  | cast (vd va : Fin 32) (sfmt tfmt : BitVec 4) (sr : Bool)
  | vload (vd : Fin 32) (offset : BitVec 14) (mfmt : BitVec 4)
  | vstore (vs : Fin 32) (offset : BitVec 14) (mfmt : BitVec 4)
  | vbank (vd : Fin 32) (arr bank : Fin 2) (row : Fin 64)
  | row (op : Nat) (desc : Fin 16) (rows : Nat)
  deriving DecidableEq, Repr

/-- What a landing writes. -/
inductive Landing where
  | vreg (ctx : Nat) (reg : Nat) (first : Nat) (bytes : List Byte) (poison : Bool)
  | cs (addr : Nat) (bytes : List Byte) (poison : Bool)
  | bank (arr bank : Nat) (vals : Tile) (poison : Bool)
  | mordant (slot : Nat) (m : Mordant)
  | flags (bits : Nat)
  deriving DecidableEq, Repr

/-- A write that will land (R69, R71): its landing cycle and issue order. -/
structure PendWrite where
  at_ : Nat
  order : Nat
  what : Landing
  deriving DecidableEq, Repr

/-- Bytes that an operation in flight has read so far: of the left and right slice units, tables and preload. -/
structure ReadAcc where
  left : List (List Byte)
  right : List (List Byte)
  leftBs : List Byte
  rightBs : List Byte
  pre : List (List Byte)
  poison : Bool
  passes : List Tile
  stats : List W32
  missed : Bool
  xs : List (List W32)
  gs : List (List W32)
  deriving DecidableEq, Repr, Inhabited

/-- An operation in flight: issued at `t` by context `ctx`, with the descriptor frozen with its group (R66) and the number of its first
slice in the context's step (R339); `poison`: its bundle or descriptor was read with a parity hit (R102, R198). -/
structure Flight where
  op : SlotOp
  t : Nat
  order : Nat
  ctx : Nat
  step : Nat
  desc : BitVec 256
  vbase : Nat
  slice0 : Nat
  poison : Bool
  acc : ReadAcc
  deriving DecidableEq, Repr

/-- A bundle group in the bundle engine (R63-R66): `next` is the next bundle, `due` its issue cycle; the bundles and descriptors that its
fill read with a parity hit (R197). -/
structure Group where
  ctx : Nat
  entry : Line
  bundles : List (BitVec 128)
  descs : List (BitVec 256)
  hitBundles : List Nat
  hitDescs : List Nat
  next : Nat
  due : Nat
  started : Nat
  running : Bool
  trapped : Bool
  opened : List (Nat × Nat)
  deriving DecidableEq, Repr, Inhabited

/-- A captured swatch (R340). -/
structure Swatch where
  step : Nat
  ctx : Nat
  desc : BitVec 256
  nslice : Nat
  slice : Nat
  left : List (List Byte)
  right : List (List Byte)
  leftBs : List Byte
  rightBs : List Byte
  sums : Tile
  deriving DecidableEq, Repr, Inhabited

/-- A physical core (R41): its CLK_CORE cycle, memories, contexts, accumulators, mordant store, bundle engine, pending
landings, operations in flight, engine halts and rotating pointers (R59, R60; `turn` is the context whose group starts at the bundle
engine's boundary), the bytes of instruction and data memory whose parity is inverted (R195), swatch buffers (R340), the largest |x| that its
cast units met in the step under each history-mode declaration (R215), and SWATCH_K at the step's start where it samples (R339). -/
structure Core where
  cycle : Nat
  imem : SMap Byte
  imemPoison : List Nat
  dmem : SMap Byte
  dmemPoison : List Nat
  cs : SMap Byte
  csPoison : List Nat
  ctxs : List Ctx
  banks : List Bank
  mordant : SMap Mordant
  group : Option Group
  nextGroup : Option Group
  pend : List PendWrite
  flight : List Flight
  issued : List SlotOp
  order : Nat
  busy : SMap Nat
  halted : List Nat
  lastServed : SMap Nat
  turn : Option Nat
  swatches : List Swatch
  castMax : SMap W32
  swatchK : Option Nat
  deriving DecidableEq, Repr, Inhabited

/-- A stream's book (R225-R227): sender credits, units in flight, units in the receiver's share, credits on their way, units sent in the
step (R346), the bytes and poison of a unit that torus flits have brought in part (R319), and journaled units that a local rerun reads
again before its share (R19, R20); `detour`: its route, as the book was set, avoids the die between two opposite dies (R279). -/
structure Stream where
  num : Nat
  credits : Nat
  flying : List SUnit
  share : List SUnit
  returning : Nat
  sentStep : Nat
  part : List Byte
  partPoison : Bool
  again : List SUnit
  detour : Bool
  deriving DecidableEq, Repr, Inhabited

/-- A write-combining entry (R188), oldest first in its list; `hits` marks its bytes that a poisoned write set (R197). -/
structure WcbEntry where
  die : Nat
  line : Nat
  mask : BitVec 64
  data : Line
  hits : BitVec 64
  deriving DecidableEq, Repr, Inhabited

/-- A narrow request (R192): the core, context, unit number of its command and first byte in the unit, address and size, and whether its
index was poisoned. -/
structure NReq where
  p : Nat
  ctx : Nat
  unit : Nat
  part : Nat
  addr : Nat
  size : Nat
  hit : Bool
  deriving DecidableEq, Repr, Inhabited

/-- A narrow-window entry (R193): once its read has issued, the line's bytes at that moment and whether they hit (R194). -/
structure NEntry where
  die : Nat
  line : Nat
  reqs : List NReq
  read : Option (Line × Bool)
  deriving DecidableEq, Repr, Inhabited

/-- A granule record (R16, R361, R376): which slot is fixed, the unfixed writer, dirty mark, the mirror's
pinned slot, the cuts' pins (step, slot), whether a restore wrote the other slot, and the segments that wrote it in the step. -/
structure Gran where
  fixedSlot : Nat
  writer : Option Nat
  dirty : Bool
  mirrorPin : Option Nat
  cutPin : List (Nat × Nat)
  restored : Bool
  segs : List Nat
  deriving DecidableEq, Repr, Inhabited

/-- A write that waits for a pin (R362, R376), counted already: whose it is, as (core, context, queue), or the entry of a fixed step's history
(R126), its granule, and whether the pin is a cut's. -/
structure Held where
  who : Option (Nat × Nat × Nat)
  g : Nat
  cut : Bool
  deriving DecidableEq, Repr, Inhabited

/-- A unit that a SCATTER_ADD has accumulated into (R219): its step, its core, its area (0: the step's own, else a replay's key + 1), its space,
address and bytes, and the cores that have since taken a unit of a stream, which may carry an order after it (R256). -/
structure Added where
  n : Nat
  p : Nat
  area : Nat
  space : Nat
  addr : Nat
  bytes : Nat
  after : List Nat
  deriving DecidableEq, Repr, Inhabited

/-- HBM, base store and what stands before them. Keys are module HBM addresses (R184) and die × 2^31 + base-store address;
`basePoison` lists bytes whose parity is inverted, `poison` the lines (address / 64) of the poison lists, `overflow` the dies
whose poison list a line could not enter (R197), `replayed` what the replay areas hold: the replay, the granule and
its MiB of the die's area (R255). -/
structure Mem where
  hbm : SMap Byte
  base : SMap Byte
  basePoison : List Nat
  poison : List Nat
  wcb : List WcbEntry
  narrow : List NEntry
  narrowWait : List NReq
  served : List (NReq × List Byte × Bool)
  cache : List Nat
  gran : SMap Gran
  replayed : List (Nat × Nat × Nat)
  held : List Held
  added : List Added
  scrubAt : SMap Nat
  scrubHits : SMap Nat
  overflow : List Nat
  waiting : List (Nat × Nat × List Byte)
  deriving DecidableEq, Repr, Inhabited

/-- A journal holding (R330): pages of one step and source (0-2^32-1 stream, 2^32 + id input, 2^33 set aside) on one die. -/
structure JPages where
  step : Nat
  source : Nat
  die : Nat
  pages : Nat
  deriving DecidableEq, Repr, Inhabited

/-- A host input of a step (R334): bytes written and lines complete. -/
structure JInput where
  step : Nat
  id : Nat
  bytes : SMap Byte
  mask : SMap Nat
  deriving DecidableEq, Repr, Inhabited

/-- Which replay this is (R353, R401). -/
inductive Which where
  | first | second | suspect
  deriving DecidableEq, Repr, Inhabited

/-- A replay waiting or running (R350): the step, the segment's vat, its logical and physical cores, and in a suspect's replay the first incident
that it met (R401). -/
structure Replay where
  n : Nat
  vat : Nat
  which : Which
  cores : List (Nat × Nat)
  running : Bool
  poisoned : Bool
  read : SMap Nat
  met : Option Incident
  deriving DecidableEq, Repr, Inhabited

/-- The outcome of a segment's check so far (R353). -/
inductive Verdict where
  | waiting | second (d1 : W64 × W64) (cores : List Nat) | keep | discard | undecided
  deriving DecidableEq, Repr, Inhabited

/-- Local recovery of a covered incident or of a die reset (R401, R411): the incident, the step, the suspects still to be judged as
(core, context), the one under replay first, whether the vats have quiesced, and whether the incident's core has been proved. -/
structure Recovery where
  incident : Option Incident
  step : Nat
  suspects : List (Nat × Nat)
  quiesced : Bool
  proved : Bool
  deriving DecidableEq, Repr, Inhabited

/-- The ledger (R327-R356): journal, replays, verdicts, recovery, host inputs, history entries, and the exponents that AMAX chose in
the fixed steps. -/
structure Ledger where
  pages : List JPages
  units : List (Nat × Nat × List SUnit)
  inputs : List JInput
  queue : List Replay
  verdicts : List (Nat × Nat × Verdict)
  recovery : Option Recovery
  history : SMap (List (Nat × W32))
  chosen : SMap Int
  deriving DecidableEq, Repr, Inhabited

/-- An outbound delta (R361): target, granules with their pinned slots, those not yet sent, and whether MIRROR_END is out. -/
structure Delta where
  m : Nat
  all : List (Nat × Nat)
  unsent : List Nat
  ended : Bool
  deriving DecidableEq, Repr, Inhabited

/-- A partial inbound delta (R363): target, announced count, granules received, and whether every one decoded. -/
structure Partial where
  m : Nat
  count : Nat
  got : List Nat
  good : Bool
  deriving DecidableEq, Repr, Inhabited

/-- The partner mirror, both ways (R357-R367, R531). As source: the base B, the delta in flight, abandoned deltas in a row, whether MIRROR_OPEN
has been due since the load, whether its answer is awaited, the granules reported invalid, the granules to be repaired with the slot that hit, and
the MIRROR_READs out, oldest first (some true: for the first repair, some false: for a restore, none: for one that is over). As receiver: the
source, its need, the current slot + 1 of each granule, the invalid ones, and the partial delta; `share` is the MiB of each die that the mirror
reserve in force takes (R359). -/
structure Mirror where
  base : Option Nat
  delta : Option Delta
  row : Nat
  opened : Bool
  openWait : Bool
  partnerInvalid : List Nat
  repairs : List (Nat × Nat)
  asked : List (Option Bool)
  inSource : Option Nat
  inNeed : Nat
  inMap : SMap Nat
  inInvalid : List Nat
  inPartial : Option Partial
  share : Nat
  deriving DecidableEq, Repr, Inhabited

/-- A shard being streamed (R379): its step, slot and storage records; the content blocks not yet read as (granule, slot), frozen-table
blocks having slot 2; the raw bytes of the blocks read, by number; the offset and stored length of the blocks written; phase 0 blocks,
1 index, 2 header; the next offset; STORED_LENGTH and CONTENT_LENGTH; the address of the shard in its slot; and `old`, that the root's own
cut, to which it belonged, has ended. -/
structure Shard where
  step : Nat
  slot : Nat
  records : List Nat
  blocks : List (Nat × Nat)
  raw : SMap (List Byte)
  written : List (Nat × Nat)
  phase : Nat
  offset : Nat
  stored : Nat
  content : Nat
  addr : Nat
  old : Bool
  deriving DecidableEq, Repr, Inhabited

/-- What a write to storage carries (R373, R379, R385). -/
inductive StoreFor where
  | shard | invalidation | entries | header
  deriving DecidableEq, Repr, Inhabited

/-- A storage write that is not yet answered: its record, what it carries, and whether its shard or cut still stands. -/
structure StoreWrite where
  record : Nat
  what : StoreFor
  live : Bool
  deriving DecidableEq, Repr, Inhabited

/-- A shard's report at the root (R384). -/
structure ShardRep where
  coord : Nat
  step : Nat
  cause : Nat
  slot : Nat
  stored : Nat
  content : Nat
  digest : BitVec 512
  deriving DecidableEq, Repr, Inhabited

/-- A restore in progress (R390-R394): step c, slot, handle; the source being read and the storage records; phase 0 the partner's
granules, 1 header, 2 index, 3 blocks, 4 reported, 5 the root's manifest; the next granule or block; the shard's header bytes and block
index; the module's own report. -/
structure Restore where
  step : Nat
  slot : Nat
  hnd : Option Hnd
  source : Nat
  records : List Nat
  phase : Nat
  next : Nat
  hdr : List Byte
  index : List (Nat × Nat)
  status : Nat
  deriving DecidableEq, Repr, Inhabited

/-- A restore report at the root (R384). -/
structure RestoreRep where
  coord : Nat
  step : Nat
  status : Nat
  source : Nat
  shape : List Byte
  digest : BitVec 512
  deriving DecidableEq, Repr, Inhabited

/-- Checkpoint and restore (R372-R396). `cuts` are those granted whose granules are not yet pinned, as (step, slot, whether the root's own
cut has ended); `queued` are the shards that wait their turn, `writes` the storage writes that are out, oldest first. -/
structure Ckpt where
  cutHnd : Option Hnd
  waitHnd : Option Hnd
  invalidated : Bool
  shard : Option Shard
  cuts : List (Nat × Nat × Bool)
  queued : List Shard
  writes : List StoreWrite
  reports : List ShardRep
  restore : Option Restore
  restoreReports : List RestoreRep
  deriving DecidableEq, Repr, Inhabited

/-- One torus link's layers (R298-R314): the lanes that trained, those retired, the flap scores and the map of physical to logical lanes;
the retry buffer; and the class books: credits (C), flits of the peer in the module's buffers (H), credits owed to it (K). `queue` holds the
flits waiting to go out, each with the port it came by (6: the module itself); `slot` counts the flit slots of classes 1 to 3 modulo 32
(R304), and `nextMap` is the lane map that waits for both sides' ACCEPT (R313), [] where none does. -/
structure Link where
  detected : List Nat
  retired : List Nat
  flap : SMap Nat
  map : List Nat
  txSeq : Nat
  retry : List (Nat × Flit)
  rxSeq : Nat
  nakSent : Bool
  credits : List Nat
  peerBuf : List Nat
  rxUse : List Nat
  owed : List Nat
  sinceMark : Nat
  acceptSent : Bool
  acceptGot : Bool
  mapSent : Bool
  queue : List (Nat × Flit)
  slot : Nat
  nextMap : List Nat
  deriving DecidableEq, Repr, Inhabited

/-- One channel of a die-to-die join (R283): its UCIe module, its width, whether it is up, and the uptime of its latest retrains. -/
structure Chan where
  module : Nat
  width : Nat
  up : Bool
  times : List Nat
  deriving DecidableEq, Repr, Inhabited

/-- One direction's book of a join (R280), by class: B_k as set at link-up, and none while the join is not in service; frames sent to the
expansion partner whose credits are not back (W, H and K together, which the module cannot tell apart); frames in the receive buffer (H);
credits returned and not yet received (K). Frames between two cores are in flight in their streams' books. -/
structure JoinBook where
  size : List Nat
  sent : List Nat
  held : List Nat
  back : List Nat
  deriving DecidableEq, Repr, Inhabited

/-- A join (R276, R280, R283, R284): the channels in another condition than at first power-up and the modules retired; the book of each
direction, `fwd` from the first end that R272 names (a die toward its hub, the module toward the partner) and `rev` toward it; the streams
that have tags, the first tag 1; frames that wait for the end of a retrain, with their channels, and credits to return, by tag; phase 0 in
service or down, 1 the other end's record awaited, 2 endpoint records awaited; the trained rate; the partner's records; whether it was
refused; and the first step that was not FIXED at the partner's last violation (R291). -/
structure JoinSt where
  chans : SMap Chan
  retired : List Nat
  fwd : JoinBook
  rev : JoinBook
  tags : List Nat
  wait : List (Nat × W64 × Line)
  owed : List (Nat × Nat)
  phase : Nat
  rate : Nat
  record : BitVec 256
  endpoints : List (BitVec 128)
  refused : Bool
  violated : Option Nat
  deriving DecidableEq, Repr, Inhabited

/-- Firmware (R494-R498): the epochs of areas A and B, the fuse floor, the image that the hub runs or starts (0 A, 1 B, 2 neither), failed
starts in a row, the activation that waits for its hub reset and the one that this start carries out (image, MAKE_DEFAULT, RAISE_FLOOR), the
UPDATE_FIRMWARE in progress with the area, VERSION and EPOCH it writes, and the digests of the two bodies. -/
structure Firmware where
  epochA : Nat
  epochB : Nat
  floor : Nat
  started : Nat
  failsRow : Nat
  activate : Option (Nat × Bool × Bool)
  oneStart : Option (Nat × Bool × Bool)
  updateHnd : Option Hnd
  updateImg : Option (Nat × Nat × Nat × BitVec 512)
  digestA : BitVec 512
  digestB : BitVec 512
  deriving DecidableEq, Repr, Inhabited

/-- The housekeeping domain and the low-speed pins (R506-R525). `pgood` none: high impedance; `vinLow`: the input has left its warning band;
`dieReset`: the dies in reset, 1 orderly, 2 disorderly; `hubReset` 1: the hub is in reset. -/
structure Power where
  input : Bool
  straps : Byte
  rstAsserted : Bool
  railsOn : Bool
  refclkGood : Bool
  tripLatch : Bool
  pgood : Option Bool
  expRails : Bool
  vinLow : Bool
  dieReset : SMap Nat
  hubReset : Nat
  deriving DecidableEq, Repr, Inhabited

/-- The test access port (R522): instruction, boundary update register, what the selected register has captured, and whether EXTEST drives
the pins. -/
structure Tap where
  ir : Byte
  boundary : BitVec 14
  captured : W32
  driving : Bool
  deriving DecidableEq, Repr, Inhabited

/-- An image that the verifier has passed: its count of notices, and the pending MiB per die of the ledger and of the mirror reserve that it was
judged under (R359). -/
structure Judged where
  image : Image
  notices : Nat
  ledger : Nat
  mirror : Nat
  deriving DecidableEq, Repr, Inhabited

/-- Commands accepted and not yet complete whose operation runs on its own (R475, R504, R260). A load keeps its handle and window, for a
failed one the status and result words, for a good one the image as it was judged; a reset the handle, domain and index. -/
structure Jobs where
  load : Option (Hnd × Nat)
  loadResult : Option (List Nat)
  loadImage : Option Judged
  reset : List (Hnd × Nat × Nat)
  repair : List (Hnd × Nat)
  fence : List (Hnd × Nat)
  prove : List (Hnd × Nat)
  deriving DecidableEq, Repr, Inhabited

/-- The proving of cores (R403, R406, R407): cores in PROVING with the state they came from, cores due, spares whose last
proving failed, cores marked by a halt's causes or while in REPLAY, fenced cores whose remap is under way with the logical number each held (R405),
and whether a pass over the cores that are due is under way. -/
structure Proving where
  active : List (Nat × Nat)
  due : List Nat
  unfit : List Nat
  marked : List Nat
  remap : List (Nat × Nat)
  pass : Bool
  deriving DecidableEq, Repr, Inhabited

/-- The whole module. `fresh` and `out` are the model's own: the count of free values drawn, and what has been sent. -/
structure State where
  grade : Grade
  power : Power
  mstate : MState
  obj : SMap Nat
  uptimeMs : Nat
  logicalMap : SMap Nat
  cores : SMap Core
  mem : Mem
  image : Option Image
  streams : List Stream
  steps : Steps
  ledger : Ledger
  mirror : Mirror
  ckpt : Ckpt
  sessions : List Session
  windows : List Window
  storage : List StorageQp
  pfc : SMap Nat
  links : List Link
  joins : SMap JoinSt
  fw : Firmware
  log : List EventRec
  logBuf : List EventRec
  armed : SMap Nat
  proving : Proving
  jobs : Jobs
  tap : Tap
  opensSec : Nat
  opensAt : Nat
  recalAt : SMap Int
  loadReport : List Byte
  attestReport : List Byte
  causeLog : List Nat
  frozenDigests : List (Nat × BitVec 512)
  frozenStale : Bool
  histogram : SMap Nat
  fresh : Nat
  out : List OutMsg
  pending : List Instr
  deriving DecidableEq, Repr

/-- What stops the machine: nothing. Every behaviour that R268 leaves undefined has an extent within which the machine goes on. -/
inductive Fault where
  deriving DecidableEq, Repr

/-- Why a command has no meaning. -/
inductive Refusal where
  /-- A row of the table that has no meaning yet. Safe. -/
  | notModelled (mnemonic : String)
  /-- Raised by a command whose operands name no core, port, stack, die, join or queue pair of any grade. Safe. -/
  | illFormed
  deriving DecidableEq, Repr

/-- An unbound context. -/
def Ctx.empty : Ctx :=
  { bound := false, bind := default, ranges := [], dmemInit := [], dmemHits := [], g := [], pc := 0, sc := [], v := [], vPoison := [],
    queues := [], taken := [], chains := [], stall := .none, stopped := false, running := false, step := 0, live := 0, pushed := [],
    executed := 0, lanes := [], slices := 0 }

/-- A bank holding +0 with no open reduction (R94). -/
def Bank.empty : Bank := { vals := [], poison := false, red := none }

/-- A core after reset (R76, R94, R164): four unbound contexts and cleared stores. -/
def Core.empty : Core :=
  { cycle := 0, imem := [], imemPoison := [], dmem := [], dmemPoison := [], cs := [], csPoison := [], ctxs := [.empty, .empty, .empty, .empty],
    banks := [.empty, .empty, .empty, .empty], mordant := [], group := none, nextGroup := none, pend := [], flight := [],
    issued := [], order := 0, busy := [], halted := [], lastServed := [], turn := none, swatches := [], castMax := [], swatchK := none }

/-- A link before any training (R309): 34 lanes, the last two spare. -/
def Link.empty : Link :=
  { detected := [], retired := [], flap := [], map := [], txSeq := 0, retry := [], rxSeq := 0, nakSent := false,
    credits := [0, 0, 0, 0], peerBuf := [0, 0, 0, 0], rxUse := [0, 0, 0, 0], owed := [0, 0, 0, 0], sinceMark := 0, acceptSent := false, acceptGot := false, mapSent := false, queue := [],
    slot := 0, nextMap := [] }

def StorageQp.unused : StorageQp := { state := 0, qpn := 0, rateNum := 8, rateDen := 8, retries := 0 }

def Steps.empty : Steps :=
  { list := [], runs := [], stopPending := false, stopHnd := [], runHnd := none, runEnd := none,
    childReady := [], sentReady := 0, ownReady := 0, lost := false, childStop := [], rollback := none, resumeSent := false, seen := [], msgId := 0,
    vatQueue := [], heldHalts := [] }

def Mem.empty : Mem :=
  { hbm := [], base := [], basePoison := [], poison := [], wcb := [], narrow := [], narrowWait := [], served := [],
    cache := [], gran := [], replayed := [], held := [], added := [], scrubAt := [], scrubHits := [], overflow := [], waiting := [] }

def Ledger.empty : Ledger :=
  { pages := [], units := [], inputs := [], queue := [], verdicts := [], recovery := none, history := [], chosen := [] }

def Mirror.empty : Mirror :=
  { base := none, delta := none, row := 0, opened := false, openWait := false, partnerInvalid := [], repairs := [],
    asked := [], inSource := none, inNeed := 0, inMap := [], inInvalid := [], inPartial := none, share := 0 }

def Ckpt.empty : Ckpt :=
  { cutHnd := none, waitHnd := none, invalidated := false, shard := none, cuts := [], queued := [], writes := [], reports := [],
    restore := none, restoreReports := [] }

def Jobs.empty : Jobs :=
  { load := none, loadResult := none, loadImage := none, reset := [], repair := [], fence := [], prove := [] }

/-- The state right after reset: RST_IN_N released, every rail good, the hub starting (R32, R511). Every register the spec gives a
value has it; the rest as the assumption log names them. -/
def State.reset : State :=
  { grade := .tvx4F
    power := { input := true, straps := 0xFF, rstAsserted := false, railsOn := true, refclkGood := true, tripLatch := false,
               pgood := some true, expRails := true, vinLow := false, dieReset := [], hubReset := 0 }
    mstate := .boot, obj := [(0xB00004, 1)], uptimeMs := 0, logicalMap := [], cores := [], mem := .empty, image := none, streams := [],
    steps := .empty, ledger := .empty, mirror := .empty, ckpt := .empty, sessions := [], windows := [],
    storage := List.replicate 8 .unused, pfc := [], links := List.replicate 6 .empty, joins := [],
    fw := { epochA := 0, epochB := 0, floor := 0, started := 0, failsRow := 0, activate := none, oneStart := none,
            updateHnd := none, updateImg := none, digestA := Config.factoryDigest, digestB := 0 }
    log := [], logBuf := [], armed := [], proving := { active := [], due := [], unfit := [], marked := [], remap := [], pass := false },
    jobs := .empty, tap := { ir := 1, boundary := 0, captured := 0, driving := false }, opensSec := 0, opensAt := 0,
    recalAt := [], loadReport := [], attestReport := [], causeLog := [], frozenDigests := [],
    frozenStale := false, histogram := [], fresh := 0, out := [], pending := [] }

end Sys2Proof.Machine
end

