-- ==== Sys2Proof/Machine/Ops.lean ====
section
/-! DEFINITION. The shared operations of the model: sparse maps in canonical form, little-endian bytes, the scalar entries of
the object dictionary, memory, free values, and outputs. -/

namespace Sys2Proof.Machine

/-- The three outcomes of this machine. -/
abbrev Out := Host.Outcome State Fault Refusal

/- Sparse maps. -/

/-- The entry at k: the first listed one, else the default of k. -/
def SMap.get {α : Type} (d : α) (k : Nat) : SMap α → α
  | [] => d
  | (j, v) :: t => if j = k then v else SMap.get d k t

/-- Put v at k before the first greater key, replacing an entry of k. -/
def SMap.ins {α : Type} (k : Nat) (v : α) : SMap α → SMap α
  | [] => [(k, v)]
  | (j, w) :: t => if j < k then (j, w) :: SMap.ins k v t else if j = k then (k, v) :: t else (k, v) :: (j, w) :: t

/-- Drop every entry of k. -/
def SMap.del {α : Type} (k : Nat) : SMap α → SMap α
  | [] => []
  | (j, w) :: t => if j = k then SMap.del k t else (j, w) :: SMap.del k t

/-- Write v at k; the value an unlisted key reads as removes the entry. -/
def SMap.put {α : Type} [DecidableEq α] (d : α) (k : Nat) (v : α) (m : SMap α) : SMap α :=
  if v = d then SMap.del k m else SMap.ins k v m

/-- Whether k is listed. -/
def SMap.has {α : Type} (k : Nat) : SMap α → Bool
  | [] => false
  | (j, _) :: t => if j = k then true else SMap.has k t

/-- Every key of m is above k and the keys rise. -/
def SMap.above {α : Type} (k : Nat) : SMap α → Bool
  | [] => true
  | (j, _) :: t => decide (k < j) && SMap.above j t

/-- Keys strictly rising. -/
def SMap.sorted {α : Type} : SMap α → Bool
  | [] => true
  | (j, _) :: t => SMap.above j t

/-- No entry equal to what an unlisted key reads as. -/
def SMap.noDefault {α : Type} [DecidableEq α] (d : α) : SMap α → Bool
  | [] => true
  | (_, v) :: t => decide (v ≠ d) && SMap.noDefault d t

/-- The canonical form of a byte memory: keys rising, no byte that an unlisted address reads as. -/
def Memory.wf (m : SMap Byte) : Bool := SMap.sorted m && SMap.noDefault 0 m

/- Bytes, little-endian (R11). -/

/-- The n low bytes of v, lowest first. -/
def leBytes : Nat → Nat → List Byte
  | 0, _ => []
  | n + 1, v => BitVec.ofNat 8 v :: leBytes n (v / 256)

/-- The number that bytes spell, lowest first. -/
def ofLe : List Byte → Nat
  | [] => 0
  | b :: t => b.toNat + 256 * ofLe t

/-- Field [lo + n - 1 : lo] of a number. -/
def bits (v lo n : Nat) : Nat := (v >>> lo) % 2 ^ n

/-- The n bytes of a list from offset o, zero past its end. -/
def bytesAt (l : List Byte) (o n : Nat) : List Byte :=
  let t := (l.drop o).take n
  t ++ List.replicate (n - t.length) 0

/-- The little-endian field of n bytes at offset o. -/
def fieldAt (l : List Byte) (o n : Nat) : Nat := ofLe ((l.drop o).take n)

/-- Signed value of an n-bit field. -/
def signed (n v : Nat) : Int := if v % 2 ^ n < 2 ^ (n - 1) then (v % 2 ^ n : Nat) else ((v % 2 ^ n : Nat) : Int) - (2 ^ n : Nat)

/-- The n-bit two's complement code of an integer. -/
def twos (n : Nat) (v : Int) : Nat := (v % ((2 ^ n : Nat) : Int)).toNat

/- Memory (unlisted bytes read 0: DESIGN CHOICE, log 1). -/

def Memory.byte (m : SMap Byte) (a : Nat) : Byte := SMap.get 0 a m

def Memory.setByte (m : SMap Byte) (a : Nat) (b : Byte) : SMap Byte := SMap.put 0 a b m

/-- The n bytes from address a. -/
def Memory.bytes (m : SMap Byte) (a : Nat) : Nat → List Byte
  | 0 => []
  | n + 1 => Memory.byte m a :: Memory.bytes m (a + 1) n

/-- Bytes stored from address a upward. -/
def Memory.write (m : SMap Byte) (a : Nat) : List Byte → SMap Byte
  | [] => m
  | b :: t => Memory.write (Memory.setByte m a b) (a + 1) t

/-- The little-endian number of n bytes at a. -/
def Memory.num (m : SMap Byte) (a n : Nat) : Nat := ofLe (Memory.bytes m a n)

/-- Bytes [a, a + n) set to 0, the value an unlisted byte reads as. -/
def Memory.clear (m : SMap Byte) (a n : Nat) : SMap Byte := m.filter fun e => decide (e.1 < a ∨ a + n ≤ e.1)

/- Lists of naturals used as sets. -/

/-- Add k to a set in rising order. -/
def insSet (k : Nat) : List Nat → List Nat
  | [] => [k]
  | j :: t => if j < k then j :: insSet k t else if j = k then j :: t else k :: j :: t

def delSet (k : Nat) (l : List Nat) : List Nat := l.filter (fun j => decide (j ≠ k))

/- The scalar entries of the dictionary: key index × 256 + subindex. -/

/-- Key of entry index:sub. -/
def okey (index sub : Nat) : Nat := index * 256 + sub

/-- The defaults of R476-R485 that are not 0, "Set at boot" entries reading 0 until the hub has booted (log 4). -/
def objDefaults : List (Nat × Nat) :=
  [(0x200100, 1), (0x201100, 1), (0x501000, 1), (0x501100, 64), (0x502000, 125), (0x502001, 11444), (0x502002, 11444),
   (0x502003, 11444), (0x502004, 11444), (0x503100, 4), (0x503506, 2 ^ 64 - 1), (0x504100, 1), (0x504400, 3), (0x504500, 3),
   (0x506203, 0xFF), (0x506205, 0xFF), (0x506300, 60), (0x601000, 16), (0x601100, 0x40000000), (0x601200, 0x3F800000),
   (0x602000, 12), (0x602100, 0x44800000), (0x700601, 1), (0x700602, 1), (0x700603, 1), (0x700605, 3), (0x700606, 60),
   (0x711003, 8), (0x711004, 32), (0x810011, 1792), (0x810012, 1792), (0x810013, 1792), (0x810014, 1792),
   (0x820001, 24), (0x820002, 3600), (0x820003, 10), (0x830001, 32), (0x840001, 64), (0xA01100, 0xFF),
   (0xA10000, 1000), (0xA20200, 95), (0xA30001, 3600), (0xB00006, 0xFF), (0xB10100, 600), (0xC01001, 24), (0xC01002, 3),
   (0xC01003, 3)]

/-- The default of a KEY_SLOT: MAINTAINER slot 0 is enrolled at manufacture (R499). -/
def keySlotDefault (sub : Nat) : Nat :=
  if sub = 0x11 then 1 + 3 * 2 ^ 8 + ofLe ((leBytes 133 Config.maintainerKey.toNat).reverse) * 2 ^ 32 else 0

/-- What an entry holds while nothing has changed it. -/
def objDefault (key : Nat) : Nat :=
  let index := key / 256
  let sub := key % 256
  if 0x4000 ≤ index ∧ index ≤ 0x423F then
    if sub = 2 then 0xFFFF else if sub = 3 then 1 else 0
  else if 0x7000 ≤ index ∧ index ≤ 0x7005 then
    if sub = 3 then 2 else if sub = 0x0B then 4 else if sub = 0x0C then 1 else 0
  else if 0x7100 ≤ index ∧ index ≤ 0x7103 then
    if sub = 9 ∨ sub = 0x19 then 3 else if sub = 0x0B then 1 else 0
  else if 0x7200 ≤ index ∧ index ≤ 0x7203 then
    if sub = 2 then 12 else if sub = 3 then 4 else 0
  else if 0x7210 ≤ index ∧ index ≤ 0x7213 then
    if sub = 2 then 8 else 0
  else if 0x8000 ≤ index ∧ index ≤ 0x8007 then
    if sub = 2 then 48000000000 else if sub = 3 then 64 else 0
  else if index = 0x5060 ∧ 1 ≤ sub ∧ sub ≤ 8 then 0xFF
  else if index = 0xA001 then 2
  else if index = 0xA101 then 1
  else if index = 0xB010 then keySlotDefault sub
  else if index = 0xC020 ∧ 1 ≤ sub ∧ sub ≤ 8 then (Config.spareRows (sub - 1)).toNat
  else if key = 0xC03002 then Config.spareBlocks.toNat
  else SMap.get 0 key objDefaults

/-- The value of a scalar entry. -/
def State.o (s : State) (key : Nat) : Nat := SMap.get (objDefault key) key s.obj

/-- Set a scalar entry. -/
def State.put (s : State) (key v : Nat) : State := { s with obj := SMap.put (objDefault key) key v s.obj }

/-- Advance a U64 counter (R465). -/
def State.bump64 (s : State) (key n : Nat) : State := s.put key ((s.o key + n) % 2 ^ 64)

/-- Advance a U32 counter (R465). -/
def State.bump32 (s : State) (key n : Nat) : State := s.put key ((s.o key + n) % 2 ^ 32)

/-- Keys of the entries that the meanings name. -/
def kLastIssued : Nat := 0x500101
def kLastFixed : Nat := 0x500102
def kLastMirrored : Nat := 0x500103
def kLastGranted : Nat := 0x500104
def kDiscardCount : Nat := 0x500105
def kCommitLag : Nat := 0x501000
def kAuditInterval : Nat := 0x501100
def kUnverifiedPolicy : Nat := 0x501200
def kMirrorEnable : Nat := 0x503000
def kPartnerPort : Nat := 0x503100
def kMirrorReserve : Nat := 0x503200
def kMirrorMode : Nat := 0x503400
def kDecisionMode : Nat := 0x504000
def kAutoResume : Nat := 0x504100
def kAlertFlags : Nat := 0xA01000
def kAlertEnable : Nat := 0xA01100
def kEventCount : Nat := 0xA00201
def kEventsDropped : Nat := 0xA00202
def kBgDefer : Nat := 0xA30000

/-- Entry :sub of physical core p. -/
def kCore (p sub : Nat) : Nat := okey (0x4000 + p) sub
/-- Entry :sub of torus port p. -/
def kLink (p sub : Nat) : Nat := okey (0x7000 + p) sub
/-- Entry :sub of HBM stack s. -/
def kStack (n sub : Nat) : Nat := okey (0x8000 + n) sub
/-- Entry :sub of die d; 4 is the hub. -/
def kDie (d sub : Nat) : Nat := okey (0x3000 + 0x10 * d) sub

/-- Bit b of a scalar entry. -/
def State.obit (s : State) (key b : Nat) : Bool := Nat.testBit (s.o key) b

/- The grade (R1-R6). -/

def Grade.dies : Grade → Nat
  | .tvx2F => 2
  | _ => 4

def Grade.stacks (g : Grade) : Nat := 2 * g.dies
def Grade.cores (g : Grade) : Nat := 144 * g.dies
def Grade.lcores : Grade → Nat
  | .tvx2F => 256
  | _ => 512

def Grade.code : Grade → Nat
  | .tvx4F => 1
  | .tvx4S => 2
  | .tvx2F => 3

def Grade.presentUnits : Grade → Nat
  | .tvx4F => 0x000FFFF3
  | .tvx4S => 0x000FFF30
  | .tvx2F => 0x00030FF3

/-- An Ethernet port is present (R6). -/
def Grade.ethPort (g : Grade) (p : Nat) : Bool := Nat.testBit g.presentUnits (4 + p) && decide (p < 4)
def Grade.expansion (g : Grade) : Bool := Nat.testBit g.presentUnits 1
def Grade.fp64 (g : Grade) : Bool := Nat.testBit g.presentUnits 0

def MState.code : MState → Nat
  | .off => 0 | .boot => 1 | .standby => 2 | .ready => 3 | .running => 4 | .stopping => 5 | .stopped => 6
  | .recovering => 7 | .faulted => 8 | .maintenance => 9

def StepSt.code : StepSt → Nat
  | .pending => 0 | .running => 1 | .provisional => 2 | .checking => 3 | .fixed => 4 | .mirrored => 5 | .discarded => 6

/-- What physical core p holds. -/
def State.core (s : State) (p : Nat) : Core := SMap.get Core.empty p s.cores

def State.setCore (s : State) (p : Nat) (c : Core) : State := { s with cores := SMap.put Core.empty p c s.cores }

/-- Context x of a core. -/
def Core.ctx (c : Core) (x : Nat) : Ctx := c.ctxs.getD x Ctx.empty

def Core.setCtx (c : Core) (x : Nat) (k : Ctx) : Core := { c with ctxs := c.ctxs.set x k }

def State.lastFixed (s : State) : Nat := s.o kLastFixed

/- Free values and outputs. -/

/-- Draw one free value. -/
def State.draw (s : State) : W64 × State := (Config.freeValue s.fresh, { s with fresh := s.fresh + 1 })

/-- Draw n free bytes. -/
def freeBytes (k : Nat) : Nat → List Byte
  | 0 => []
  | n + 1 => (Config.freeValue k).truncate 8 :: freeBytes (k + 1) n

def State.emit (s : State) (m : OutMsg) : State := { s with out := s.out ++ [m] }

def State.emits (s : State) (l : List OutMsg) : State := { s with out := s.out ++ l }

/- Sessions. -/

def State.session? (s : State) (slot : Nat) : Option Session := s.sessions.find? (fun e => decide (e.slot = slot))

/-- Replace the session of its slot. -/
def State.setSession (s : State) (e : Session) : State :=
  { s with sessions := s.sessions.map (fun f => if f.slot = e.slot then e else f) }

/-- The SESSION word of a slot and tag (R437). -/
def sessionWord (slot tag : Nat) : W32 := BitVec.ofNat 32 (slot * 2 ^ 28 + tag)

def Session.word (e : Session) : W32 := sessionWord e.slot e.tag

/-- The open session that a SESSION word names. -/
def State.owner? (s : State) (w : W32) : Option Session :=
  s.sessions.find? (fun e => e.opened && decide (e.word = w))

/- Events (R470-R473). -/

/-- Severity of an event code (R472): 1 INFO, 2 WARNING, 3 ALERT. -/
def eventSeverity (code : Nat) : Nat :=
  if code ∈ [0x0101, 0x0303, 0x0702] then 1
  else if code ∈ [0x0103, 0x0104, 0x0203, 0x0305, 0x0602, 0x0701] then 3 else 2

/-- The alert bit an event sets (R473). -/
def eventAlertBit (code : Nat) : Option Nat :=
  if code ∈ [0x0601, 0x0602] then some 0
  else if code = 0x0603 then some 1
  else if code ∈ [0x0102, 0x0103, 0x0203] then some 2
  else if code = 0x0104 then some 3
  else if code ∈ [0x0301, 0x0302, 0x0304, 0x0305] then some 4
  else if code ∈ [0x0204, 0x0205, 0x0401, 0x0402, 0x0403, 0x0404] then some 5
  else if code ∈ [0x0501, 0x0701, 0x0703] then some 6
  else none

/-- Set alert bit b and advance its companion (R467, R468). -/
def State.alert (s : State) (b : Nat) : State :=
  (s.put kAlertFlags (s.o kAlertFlags ||| 2 ^ b)).bump32 (0xA01201 + b) 1

/-- ALERT_N is active (R473). -/
def State.alertActive (s : State) : Bool := decide ((s.o kAlertFlags) &&& (s.o kAlertEnable) ≠ 0)

/-- FAULT_N is active: the module is FAULTED, REFCLK is lost, or the trip latch is set (R31, R518). -/
def State.faultActive (s : State) : Bool :=
  decide (s.mstate = .faulted) || (s.power.input && !s.power.refclkGood) || s.power.tripLatch

/-- The hub runs: power, no module reset, no hub reset. -/
def State.hubUp (s : State) : Bool :=
  decide (s.mstate ≠ .off) && !s.power.rstAsserted && decide (s.power.hubReset = 0)

/-- EVENT_LEVEL admits a severity (R484): 0 none, 1 ALERT, 2 WARNING and ALERT, 3 all. -/
def levelAdmits (level severity : Nat) : Bool := decide (4 ≤ level + severity)

/-- Send an event to one session, at most 64 in a second of uptime (R471). -/
def State.eventTo (s : State) (e : EventRec) (q : Session) : State :=
  if q.opened ∧ levelAdmits (s.o (0xA00101 + q.slot)) e.severity then
    let sec := s.uptimeMs / 1000
    let sent := if q.eventsAt = sec then q.eventsSec else 0
    if sent < 64 then
      (s.setSession { q with eventsAt := sec, eventsSec := sent + 1, modSeq := q.modSeq + 1 }).emit
        (.event q.word (q.modSeq + 1) e)
    else (s.bump64 kEventsDropped 1).alert 7
  else s

/-- Write the event buffer to the event log, a ring of 8,388,608 records (R491, R492). -/
def State.flushLog (s : State) : State :=
  { s with log := (s.log ++ s.logBuf).drop (s.log.length + s.logBuf.length - 8388608), logBuf := [] }

/-- Append to the event buffer of 128 records, which is written to the log when it is full (R492). -/
def State.logEvent (s : State) (e : EventRec) : State :=
  let s := { s with logBuf := s.logBuf ++ [e] }
  if 128 ≤ s.logBuf.length then s.flushLog else s

/-- Raise an event about a step (R471); none while the hub is in reset. -/
def State.raiseAt (s : State) (code step arg0 arg1 : Nat) : State :=
  if s.power.hubReset ≠ 0 then s else
  let e : EventRec := { code := code, severity := eventSeverity code, seq := s.o kEventCount % 2 ^ 32,
                        uptimeMs := s.uptimeMs % 2 ^ 64, step := step, arg0 := arg0 % 2 ^ 32, arg1 := arg1 % 2 ^ 32 }
  let s := (s.bump64 kEventCount 1).logEvent e
  let s := match eventAlertBit code with
    | some b => s.alert b
    | none => s
  s.sessions.foldl (fun t q => t.eventTo e q) s

/-- Raise an event that concerns no step: STEP is LAST_FIXED (R470). -/
def State.raise (s : State) (code arg0 arg1 : Nat) : State := s.raiseAt code s.lastFixed arg0 arg1

/-- HEALTHY_LCORES (R31, R250): the logical numbers that a core holds; the map holds P + 1. -/
def State.healthyLcores (s : State) : Nat :=
  ((List.range s.grade.lcores).filter (fun l => decide (SMap.get 0 l s.logicalMap ≠ 0))).length

/-- Change the module state (R32): MODULE_STATE is raised, and MODULE_FAULTED on entry to FAULTED (R472). -/
def State.setM (s : State) (m : MState) : State :=
  if s.mstate = m then s else
  let old := s.mstate
  let s := { s with mstate := m }.raise 0x0101 m.code old.code
  if m = .faulted then s.raise 0x0104 s.healthyLcores 0 else s

/- Completion records (R448-R457). -/

/-- Fields of a COMPLETION_ROUTE (R455). -/
def State.route (s : State) (slot : Nat) : Nat := s.o (0x910001 + slot)
def routeMode (r : Nat) : Nat := bits r 0 8
def routeWindow (r : Nat) : Nat := bits r 16 16
def routeEntries (r : Nat) : Nat := 2 ^ bits r 32 8
def routeAddr (r : Nat) : Nat := bits r 64 64

/-- The 32 bytes of a completion record (R453). -/
def Rec.bytes (r : Rec) : List Byte :=
  leBytes 4 r.handle.toNat ++ leBytes 1 r.status ++ leBytes 1 r.kind ++ leBytes 1 r.stepState ++ leBytes 1 0 ++
  leBytes 8 r.step ++ leBytes 4 r.r0 ++ leBytes 4 r.r1 ++ leBytes 4 r.r2 ++ leBytes 4 r.r3

/-- A record as a COMPLETION message, numbered by the module (R445). -/
def Session.sendDatagram (q : Session) (via : Option Nat) (r : Rec) : Session × OutMsg :=
  ({ q with modSeq := q.modSeq + 1 }, .completion q.word (q.modSeq + 1) via r)

/-- Write record k to the ring, and then the producer count k + 1 (R455). -/
def ringWrites (route k : Nat) (r : Rec) : List OutMsg :=
  [.ringWrite (routeWindow route) (routeAddr route + 32 * (k % routeEntries route)) r.bytes,
   .ringWrite (routeWindow route) (routeAddr route + 32 * routeEntries route) (leBytes 8 (k + 1))]

/-- Put a record on a session's ring: written where the consumer count read so far allows it, else held behind a read of that
count, and past 1,024 held ones sent by datagram only (R456). -/
def State.toRing (s : State) (q : Session) (via : Option Nat) (r : Rec) : State :=
  let route := s.route q.slot
  if q.held = [] ∧ q.ringK - q.ringC < routeEntries route then
    (s.setSession { q with ringK := q.ringK + 1 }).emits (ringWrites route q.ringK r)
  else if q.held.length < 1024 then
    let s := s.setSession { q with held := q.held ++ [r], reading := true }
    if q.reading then s else s.emit (.ringConsumerRead q.slot (routeAddr route + 32 * routeEntries route + 8))
  else
    let s := s.bump64 0x910022 1
    if routeMode route = 2 then s else
    let (q, m) := q.sendDatagram via r
    (s.setSession q).emit m

/-- Send a record to the session of its handle, or count it when that session has ended (R446, R455, R457). A final record
(KIND 0 or 2) ends the handle (R448). -/
def State.record (s : State) (h : Hnd) (r : Rec) : State :=
  match s.owner? h.session with
  | none => s.bump64 0x910021 1
  | some q =>
    let q := { q with log := (q.log ++ [r]).drop (q.log.length + 1 - 256),
                      outstanding := if r.kind = 1 then q.outstanding else q.outstanding.filter (fun e => decide (e ≠ h.handle)) }
    let mode := routeMode (s.route q.slot)
    let s := s.setSession q
    let s := if mode = 1 ∨ mode = 2 then s.toRing q h.via r else s
    match s.session? q.slot with
    | none => s
    | some q => if mode = 1 then s else
        let (q, m) := q.sendDatagram h.via r
        (s.setSession q).emit m

/-- The completion of a command, with its result words (R453). -/
def State.complete (s : State) (h : Hnd) (status : Nat) (r : List Nat) : State :=
  s.record h { handle := h.handle, status := status, kind := 0, stepState := 0, step := s.lastFixed,
               r0 := r.getD 0 0, r1 := r.getD 1 0, r2 := r.getD 2 0, r3 := r.getD 3 0 }

/-- The completion of a command that may no longer be outstanding. -/
def State.complete? (s : State) (h : Option Hnd) (status : Nat) (r : List Nat) : State :=
  match h with
  | none => s
  | some h => s.complete h status r

/- Status codes (R474). -/
def stDone : Nat := 0x00
def stAccepted : Nat := 0x01
def stWrongState : Nat := 0x10
def stAbsent : Nat := 0x11
def stDenied : Nat := 0x12
def stBadArgument : Nat := 0x13
def stFault : Nat := 0x20
def stTimeout : Nat := 0x21
def stUnverified : Nat := 0x22
def stRestoreMixed : Nat := 0x23
def stDigestMismatch : Nat := 0x24
def stRestoreShape : Nat := 0x25
def stVerifierReject : Nat := 0x30

end Sys2Proof.Machine
end

