-- ==== Sys2Proof/Machine/Coding.lean ====
section
/-! DEFINITION. The coding of granules and checkpoint blocks (R368), both ways. -/

namespace Sys2Proof.Machine

/-- Leading zero bytes, at most n. -/
def zeroRun : Nat → List Byte → Nat
  | 0, _ => 0
  | _ + 1, [] => 0
  | n + 1, b :: t => if b = 0 then zeroRun n t + 1 else 0

/-- Literal bytes, stopping before two consecutive zeros, after n bytes or at the end. -/
def literal : Nat → List Byte → List Byte
  | 0, _ => []
  | _ + 1, [] => []
  | _ + 1, [b] => [b]
  | n + 1, b :: c :: t => if b = 0 ∧ c = 0 then [] else b :: literal n (c :: t)

/-- code_plane; fuel is the plane's length. -/
def codePlane : Nat → List Byte → List Byte
  | 0, _ => []
  | _ + 1, [] => []
  | k + 1, x =>
    let z := zeroRun 129 x
    if 2 ≤ z then BitVec.ofNat 8 (0x7E + z) :: codePlane k (x.drop z)
    else let l := literal 128 x
         BitVec.ofNat 8 (l.length - 1) :: (l ++ codePlane k (x.drop l.length))

/-- Plane p of a page: byte p of each 32-bit word. -/
def pagePlane (p : Nat) : List Byte → List Byte
  | a :: b :: c :: d :: t => (if p = 0 then a else if p = 1 then b else if p = 2 then c else d) :: pagePlane p t
  | _ => []

/-- One page record (R368). -/
def codePage (x : List Byte) : List Byte :=
  if x.all (fun b => decide (b = 0)) then [1] else
  let ps := (List.range 4).map (fun p => codePlane 1024 (pagePlane p x))
  let r := (2 : Byte) :: (ps.flatMap (fun p => leBytes 2 p.length) ++ ps.flatten)
  if 4097 ≤ r.length then (0 : Byte) :: x else r

/-- The page records of n pages of 4 KiB. -/
def codePages : Nat → List Byte → List Byte
  | 0, _ => []
  | n + 1, x => codePage (bytesAt x 0 4096) ++ codePages n (x.drop 4096)

/-- Decode a plane of which n bytes are still to come. -/
def decodePlane : Nat → Nat → List Byte → Option (List Byte)
  | 0, n, x => if n = 0 ∧ x = [] then some [] else none
  | _ + 1, n, [] => if n = 0 then some [] else none
  | k + 1, n, b :: t =>
    if 0x80 ≤ b.toNat then
      let z := b.toNat - 0x7E
      if z ≤ n then (decodePlane k (n - z) t).map (fun r => List.replicate z 0 ++ r) else none
    else
      let l := b.toNat + 1
      if l ≤ n ∧ l ≤ t.length then (decodePlane k (n - l) (t.drop l)).map (fun r => t.take l ++ r) else none

/-- Words of four planes. -/
def unplane : List Byte → List Byte → List Byte → List Byte → List Byte
  | a :: as, b :: bs, c :: cs, d :: ds => a :: b :: c :: d :: unplane as bs cs ds
  | _, _, _, _ => []

/-- Decode one page record: the page and what follows. -/
def decodePage (x : List Byte) : Option (List Byte × List Byte) :=
  match x with
  | [] => none
  | m :: t =>
    if m = 1 then some (List.replicate 4096 0, t)
    else if m = 0 then if 4096 ≤ t.length then some (t.take 4096, t.drop 4096) else none
    else if m = 2 then
      let l0 := fieldAt t 0 2; let l1 := fieldAt t 2 2; let l2 := fieldAt t 4 2; let l3 := fieldAt t 6 2
      let d := t.drop 8
      if t.length < 8 ∨ d.length < l0 + l1 + l2 + l3 then none else
      match decodePlane 1024 1024 (d.take l0), decodePlane 1024 1024 ((d.drop l0).take l1),
            decodePlane 1024 1024 ((d.drop (l0 + l1)).take l2), decodePlane 1024 1024 ((d.drop (l0 + l1 + l2)).take l3) with
      | some p0, some p1, some p2, some p3 => some (unplane p0 p1 p2 p3, d.drop (l0 + l1 + l2 + l3))
      | _, _, _, _ => none
    else none

/-- Decode n page records that take up all of x. -/
def decodePages : Nat → List Byte → Option (List Byte)
  | 0, x => if x = [] then some [] else none
  | n + 1, x => match decodePage x with
    | none => none
    | some (p, r) => (decodePages n r).map (fun q => p ++ q)

/-- A coded granule (R368). -/
def codeGranule (x : List Byte) : List Byte := codePages 256 x
def decodeGranule (x : List Byte) : Option (List Byte) := decodePages 256 x

end Sys2Proof.Machine
end

