-- ==== Sys2Proof/Machine/Identity.lean ====
section
/-! DEFINITION. The identity record (R1, R469). -/

namespace Sys2Proof.Machine

/-- ASCII, zero-padded to 16 bytes. -/
def ascii16 (l : List Nat) : List Byte := bytesAt (l.map (BitVec.ofNat 8)) 0 16

/-- PART_NUMBER (R1, R469). -/
def Grade.partNumber : Grade → List Byte
  | .tvx4F => ascii16 [67, 66, 67, 45, 84, 86, 88, 52, 70, 45, 51, 56, 52]
  | .tvx4S => ascii16 [67, 66, 67, 45, 84, 86, 88, 52, 83, 45, 51, 56, 52]
  | .tvx2F => ascii16 [67, 66, 67, 45, 84, 86, 88, 50, 70, 45, 49, 57, 50]

/-- IDENTITY_RECORD (R469): what the rule fixes, the rest as set at manufacture. -/
def identityBytes (g : Grade) : List Byte :=
  let m := leBytes 256 Config.identityRecord.toNat
  g.partNumber ++ bytesAt m 16 16 ++ [BitVec.ofNat 8 g.code, 1, 0, 0] ++ bytesAt m 36 4 ++ List.replicate 8 0 ++
  bytesAt m 48 133 ++ List.replicate 3 0 ++ bytesAt m 184 64 ++ List.replicate 8 0

/-- The first 8 bytes of the SHA-512 digest of the identity record; byte k of a digest is bits [8k+7:8k]. -/
def identityHash (g : Grade) : List Byte := leBytes 8 (Config.sha512 (identityBytes g)).toNat

/-- IDENTITY_KEY of the identity record, as held. -/
def identityKeyBytes : List Byte := bytesAt (leBytes 256 Config.identityRecord.toNat) 48 133

end Sys2Proof.Machine
end

