-- ==== Sys2Proof/Machine/Memory.lean ====
section
/-! DEFINITION. HBM behind its write-combining buffers, the poison lists, the base store with its cache, and the state granules
with their two slots (R16-R18, R177-R199). -/

namespace Sys2Proof.Machine

/-- Bytes of HBM of one die with both stacks (R184). -/
def dieHbmBytes : Nat := 96000000000

/-- Die of a module HBM address, and the address within it (R184). -/
def hbmDie (a : Nat) : Nat := a / 2 ^ 37
def hbmLocal (a : Nat) : Nat := a % 2 ^ 37
def hbmAddr (die l : Nat) : Nat := die * 2 ^ 37 + l

/-- STACK_STATE FAILED (R420). -/
def stackFailed : Nat := 5

/-- A stack of the die is FAILED: the die runs on its other one alone (R420). -/
def State.oneStack (s : State) (die : Nat) : Bool :=
  decide (s.o (kStack (2 * die) 1) = stackFailed ∨ s.o (kStack (2 * die + 1) 1) = stackFailed)

/-- Bytes of a die's local space (R184, R420). -/
def State.dieBytes (s : State) (die : Nat) : Nat := if s.oneStack die then dieHbmBytes / 2 else dieHbmBytes

/-- Pseudo-channel of a line within its die: 0-127 (R184), those of the stack left where the other is FAILED (R420). -/
def State.linePc (s : State) (die line : Nat) : Nat :=
  if s.oneStack die then line % 64 + (if s.o (kStack (2 * die) 1) = stackFailed then 64 else 0) else line % 128

/-- Stack of a line of a die (R184). -/
def State.lineStack (s : State) (die line : Nat) : Nat := 2 * die + s.linePc die line / 64

/-- A retraining stack holds a pseudo-channel of its die (R186). -/
def State.pcHeld (s : State) (die pc : Nat) : Bool := decide (s.o (kStack (2 * die + pc / 64) 1) = 1)

/-- The module HBM address exists in the grade. -/
def State.hbmHas (s : State) (a n : Nat) : Bool :=
  decide (hbmDie a < s.grade.dies ∧ hbmLocal a + n ≤ s.dieBytes (hbmDie a))

/- Poison lists: lines of module HBM by address / 64. -/

def State.linePoisoned (s : State) (la : Nat) : Bool := s.mem.poison.contains la

/-- Lines in the poison list of a die (0x8200:11+d). -/
def State.poisonCount (s : State) (die : Nat) : Nat :=
  (s.mem.poison.filter (fun l => decide (l / 2 ^ 31 = die))).length

/-- Enter a line in its die's poison list of 16,384; with the list full the mark cannot be kept, and a halt wave is due (R197). -/
def State.poisonLine (s : State) (la : Nat) : State :=
  if s.linePoisoned la then s
  else if s.poisonCount (la / 2 ^ 31) < 16384 then { s with mem := { s.mem with poison := insSet la s.mem.poison } }
  else { s with mem := { s.mem with overflow := insSet (la / 2 ^ 31) s.mem.overflow } }

def State.cleanLine (s : State) (la : Nat) : State := { s with mem := { s.mem with poison := delSet la s.mem.poison } }

/- Write combining (R188-R190). -/

/-- The bytes of `new` where the mask is set, else those of `old`; k counts bytes. -/
def mergeBytes (mask : BitVec 64) (new : Line) : Nat → List Byte → List Byte
  | _, [] => []
  | k, b :: t => (if mask.getLsbD k then BitVec.ofNat 8 (new.toNat >>> (8 * k)) else b) :: mergeBytes mask new (k + 1) t

/-- Flush an entry (R189): a full one as one write, a partial one by read-merge-write. A line stays poisoned unless all of its
bytes are written clean. -/
def State.flushEntry (s : State) (e : WcbEntry) : State :=
  let a := hbmAddr e.die (64 * e.line)
  let full := decide (e.mask = BitVec.allOnes 64)
  let bytes := mergeBytes e.mask e.data 0 (Memory.bytes s.mem.hbm a 64)
  let s := { s with mem := { s.mem with hbm := Memory.write s.mem.hbm a bytes,
                                        wcb := s.mem.wcb.filter (fun f => decide (¬ (f.die = e.die ∧ f.line = e.line))) } }
  let s := s.bump64 (if full then 0x830002 else 0x830003) 1
  if e.hits ≠ 0 then s.poisonLine (a / 64) else if full then s.cleanLine (a / 64) else s

/-- Flush every entry that satisfies p, oldest first. -/
def State.flushWhere (s : State) (p : WcbEntry → Bool) : State := (s.mem.wcb.filter p).foldl State.flushEntry s

/-- Entries of one pseudo-channel, oldest first. -/
def State.pcEntries (s : State) (die pc : Nat) : List WcbEntry :=
  s.mem.wcb.filter (fun e => decide (e.die = die ∧ s.linePc die e.line = pc))

/-- The data of an entry with further bytes over it. -/
def mergeLine (old new : Line) (mask : BitVec 64) : Line :=
  BitVec.ofNat 512 (ofLe (mergeBytes mask new 0 (leBytes 64 old.toNat)))

/-- The entries of a buffer that leave it when those that satisfy `due` are flushed: oldest first, through the last of these (R189). -/
def dueEntries (due : WcbEntry → Bool) (es : List WcbEntry) : List WcbEntry := (es.reverse.dropWhile (fun e => !due e)).reverse

/-- Flush the entries of a pseudo-channel that are due. -/
def State.flushDue (s : State) (die pc : Nat) (due : WcbEntry → Bool) : State :=
  (dueEntries due (s.pcEntries die pc)).foldl State.flushEntry s

/-- The line has an entry. -/
def State.buffered (s : State) (die line : Nat) : Bool := s.mem.wcb.any (fun e => decide (e.die = die ∧ e.line = line))

/-- The entry with further bytes over it: these are poisoned where the write is (R188, R197). -/
def WcbEntry.merge (e : WcbEntry) (mask : BitVec 64) (data : Line) (poison : Bool) : WcbEntry :=
  { e with mask := e.mask ||| mask, data := mergeLine e.data data mask, hits := (e.hits &&& ~~~mask) ||| (if poison then mask else 0) }

/-- A write to a line enters its pseudo-channel's buffer: into the line's entry, or into a free one, the oldest being flushed when none is
free (R188, R189). -/
def State.wcbEnter (s : State) (die line : Nat) (mask : BitVec 64) (data : Line) (poison : Bool) : State :=
  if s.buffered die line then
    { s with mem := { s.mem with wcb := s.mem.wcb.map (fun e => if e.die = die ∧ e.line = line then e.merge mask data poison else e) } }
  else
    let s := match s.pcEntries die (s.linePc die line) with
      | [] => s
      | o :: r => if 31 ≤ r.length then s.flushEntry o else s
    { s with mem := { s.mem with wcb := s.mem.wcb ++
      [{ die := die, line := line, mask := mask, data := data, hits := if poison then mask else 0 }] } }

/-- One masked write to a line (R188): an entry that it fills is flushed (R189), once its stack no longer retrains (R186). -/
def State.wcbWrite (s : State) (die line : Nat) (mask : BitVec 64) (data : Line) (poison : Bool) : State :=
  let t := s.wcbEnter die line mask data poison
  if s.pcHeld die (s.linePc die line) then t
  else t.flushDue die (s.linePc die line) (fun e => decide (e.mask = BitVec.allOnes 64))

/-- The bytes and mask that a write of `bytes` from offset o puts into one line, and the bytes left over. -/
def lineMask (o n : Nat) : BitVec 64 := BitVec.ofNat 64 ((2 ^ n - 1) * 2 ^ o)

/-- Write bytes to module HBM line by line, in ascending order; fuel bounds the lines. -/
def State.hbmWriteGo (s : State) (a : Nat) (bytes : List Byte) (poison : Bool) : Nat → State
  | 0 => s
  | k + 1 =>
    if bytes = [] then s else
    let o := a % 64
    let n := min (64 - o) bytes.length
    let data : Line := BitVec.ofNat 512 (ofLe (bytes.take n) * 2 ^ (8 * o))
    (s.wcbWrite (hbmDie a) (hbmLocal a / 64) (lineMask o n) data poison).hbmWriteGo (a + n) (bytes.drop n) poison k

def State.hbmWrite (s : State) (a : Nat) (bytes : List Byte) (poison : Bool) : State :=
  s.hbmWriteGo a bytes poison (bytes.length / 64 + 2)

/-- The byte of module HBM at a, as R190 gives it. -/
def State.hbmByte (s : State) (a : Nat) : Byte :=
  match s.mem.wcb.find? (fun e => decide (e.die = hbmDie a ∧ e.line = hbmLocal a / 64)) with
  | some e => if e.mask.getLsbD (a % 64) then BitVec.ofNat 8 (e.data.toNat >>> (8 * (a % 64))) else Memory.byte s.mem.hbm a
  | none => Memory.byte s.mem.hbm a

/-- n bytes of module HBM from a. -/
def State.hbmBytes (s : State) (a : Nat) : Nat → List Byte
  | 0 => []
  | n + 1 => s.hbmByte a :: s.hbmBytes (a + 1) n

/-- A line of module HBM reads as a parity hit: listed, or its entry holds a poisoned write (R197). -/
def State.hbmLineHit (s : State) (la : Nat) : Bool :=
  s.linePoisoned la || s.mem.wcb.any (fun e => decide (hbmAddr e.die (64 * e.line) / 64 = la ∧ e.hits ≠ 0))

/-- Some line of [a, a + n) reads as a hit. -/
def State.hbmHit (s : State) (a n : Nat) : Bool :=
  s.mem.poison.any (fun l => decide (a / 64 ≤ l ∧ l < (a + n + 63) / 64)) ||
  s.mem.wcb.any (fun e => decide (e.hits ≠ 0 ∧ a / 64 ≤ hbmAddr e.die (64 * e.line) / 64 ∧ hbmAddr e.die (64 * e.line) / 64 < (a + n + 63) / 64))

/-- The lines of [a, a + n) that read as hits. -/
def State.hitLines (s : State) (a n : Nat) : List Nat :=
  (s.mem.poison ++ (s.mem.wcb.filter (fun e => decide (e.hits ≠ 0))).map (fun e => hbmAddr e.die (64 * e.line) / 64)).filter (fun l =>
    decide (a / 64 ≤ l ∧ l < (a + n + 63) / 64))

/-- The buffers ahead of full writes of n bytes from b, both multiples of 64 (R189): each line's write flushes the older entries of its
buffer before it, and takes the line's own entry with it. After 33 lines of each pseudo-channel no entry of the die is left. -/
def State.makeWay (s : State) (b n : Nat) : State :=
  if s.mem.wcb = [] then s else
  (List.range (min (n / 64) 4224)).foldl (fun t i =>
    let die := hbmDie b
    let line := hbmLocal b / 64 + i
    let t := ((t.pcEntries die (t.linePc die line)).takeWhile (fun e => decide (e.line ≠ line))).foldl State.flushEntry t
    { t with mem := { t.mem with wcb := t.mem.wcb.filter (fun e => decide (¬ (e.die = die ∧ e.line = line))) } }) s

/-- Copy n bytes of HBM from a to b of the same die with their poison, by full writes (R189); n is a multiple of 64 and at least 270,336 B,
so that no entry of the source stays buffered. -/
def State.hbmCopy (s : State) (a b n : Nat) : State :=
  let s := s.makeWay b n
  let moved := (s.mem.hbm.filter (fun e => decide (a ≤ e.1 ∧ e.1 < a + n))).map (fun e => (e.1 - a + b, e.2))
  let hbm := moved.foldl (fun m e => Memory.setByte m e.1 e.2) (Memory.clear s.mem.hbm b n)
  let marks := (s.mem.poison.filter (fun l => decide (a / 64 ≤ l ∧ l < (a + n) / 64))).map (fun l => l - a / 64 + b / 64)
  let kept := s.mem.poison.filter (fun l => decide (l < b / 64 ∨ (b + n) / 64 ≤ l))
  marks.foldl State.poisonLine ({ s with mem := { s.mem with hbm := hbm, poison := kept } }.bump64 0x830002 (n / 64))

/-- Zero n bytes of HBM from a by full, clean writes (R189, R197). -/
def State.hbmZero (s : State) (a n : Nat) : State :=
  let s := s.makeWay a n
  { s with mem := { s.mem with
      hbm := Memory.clear s.mem.hbm a n,
      poison := s.mem.poison.filter (fun l => decide (l < a / 64 ∨ (a + n) / 64 ≤ l)) } }.bump64 0x830002 (n / 64)

/- Base store: key die × 2^31 + address (R177). -/

def baseKey (die a : Nat) : Nat := die * 2 ^ 31 + a

/-- The bytes of whole 64 B units that [a, a + n) touches. -/
def unitBytes (a n : Nat) : List Nat := (List.range (64 * ((a + n + 63) / 64 - a / 64))).map (fun k => a / 64 * 64 + k)

/-- Write bytes over a store and its inverted-parity bytes: a poisoned write inverts the parity of every unit it touches, a clean
one leaves the bytes it writes sound (R197). -/
def poisonWrite (marks : List Nat) (a n : Nat) (poison : Bool) : List Nat :=
  if poison then (unitBytes a n).foldl (fun l k => insSet k l) marks
  else marks.filter (fun k => decide (k < a ∨ a + n ≤ k))

def State.baseWrite (s : State) (key : Nat) (bytes : List Byte) (poison : Bool) : State :=
  { s with mem := { s.mem with base := Memory.write s.mem.base key bytes,
                               basePoison := poisonWrite s.mem.basePoison key bytes.length poison } }

def State.baseBytes (s : State) (key n : Nat) : List Byte := Memory.bytes s.mem.base key n

def State.baseHit (s : State) (key n : Nat) : Bool := s.mem.basePoison.any (fun k => decide (key ≤ k ∧ k < key + n))

/- The base cache (R180): lines of 256 B by address / 256; oldest first out (log 9). -/

/-- A read of a base-cached line: a hit, or a miss that allocates it. Values are not affected. A command's reads of one row or one unit look a
line up once (log 9). -/
def State.cacheRead (s : State) (la : Nat) : State :=
  let die := la / 2 ^ 29
  if s.mem.cache.contains la then s.bump64 (0x810031 + die) 1
  else
    let s := s.bump64 (0x810041 + die) 1
    let cap := s.o (0x810011 + die) * 4096
    let mine := s.mem.cache.filter (fun l => decide (l / 2 ^ 29 = die))
    if cap = 0 then s
    else if mine.length < cap then { s with mem := { s.mem with cache := s.mem.cache ++ [la] } }
    else { s with mem := { s.mem with cache := delSet (mine.headD 0) s.mem.cache ++ [la] } }

/- State granules (R16-R18). -/

def Gran.empty : Gran :=
  { fixedSlot := 0, writer := none, dirty := false, mirrorPin := none, cutPin := [], restored := false, segs := [] }

/-- 1 MiB. -/
def mib : Nat := 1048576

/-- Granule key: the module address of its first slot in MiB. -/
def State.gran (s : State) (g : Nat) : Gran := SMap.get Gran.empty g s.mem.gran

def State.setGran (s : State) (g : Nat) (r : Gran) : State :=
  { s with mem := { s.mem with gran := SMap.put Gran.empty g r s.mem.gran } }

/-- Regions of the bound image. -/
def State.regions (s : State) : List Region := match s.image with
  | none => []
  | some im => im.regions

/-- Region kinds (R252). -/
def rkState : Nat := 0
def rkFrozen : Nat := 1
def rkStash : Nat := 2
def rkWork : Nat := 3
def rkPartition : Nat := 4

/-- The HBM region whose addresses hold [a, a + n) (R254). -/
def State.regionAt (s : State) (a n : Nat) : Option Region :=
  s.regions.find? (fun g => decide (g.kind ≠ rkPartition ∧ g.addr ≤ a ∧ a + n ≤ g.addr + g.sizeMib * mib))

/-- Declarations in history mode, in ascending TENSOR order (R126). -/
def Image.histories (im : Image) : List Scale :=
  (im.scales.filter (fun d => decide (d.mode = 2))).foldl
    (fun l d => l.takeWhile (fun e => decide (e.tensor < d.tensor)) ++ d :: l.dropWhile (fun e => decide (e.tensor < d.tensor))) []

/-- MiB of the history region (R126). -/
def Image.historyMib (im : Image) : Nat := (im.histories.length * 256 + mib - 1) / mib

/-- MiB of the ledger reserve per die (R327), from a permille. -/
def Grade.shareMib (_g : Grade) (permille : Nat) : Nat := permille * dieHbmBytes / 1000 / mib

/-- MiB of the mirror reserve in force per die (R185, R359). -/
def State.mirrorShare (s : State) : Nat := s.mirror.share

/-- Bottom of the ledger reserve of a die, as a die-local address (R185, R327): the share in force at 0x5020:01+d below the top. -/
def State.ledgerBase (s : State) (die : Nat) : Nat := s.dieBytes die - s.o (0x502001 + die) * mib

/-- MiB of the bound image's history region. -/
def State.historyMib (s : State) : Nat := match s.image with
  | none => 0
  | some im => im.historyMib

/-- Where the image area begins: 1,024 MiB below the mirror reserve of die 0 (R431), under the reserves in force (R359). -/
def State.imageArea (s : State) : Nat := s.dieBytes 0 - (s.o 0x502001 + s.mirrorShare + 1024) * mib

/-- First granule key of the history region: die 0, two slots directly below the image area (R126). -/
def State.historyBase (s : State) : Nat := s.imageArea / mib - 2 * s.historyMib

/-- The address of a slot of a granule: its own place, and SIZE_MIB above it (R254); the history region lies likewise (R126). -/
def State.slotAddr (s : State) (g slot : Nat) : Nat :=
  match s.regionAt (g * mib) mib with
  | some r => g * mib + slot * r.sizeMib * mib
  | none => g * mib + s.imageArea % mib + slot * s.historyMib * mib

/-- The granules of the mirror numbering (R357): STATE in declaration order, then the history region. -/
def State.granules (s : State) : List Nat :=
  match s.image with
  | none => []
  | some im =>
    (im.regions.filter (fun r => decide (r.kind = rkState))).flatMap (fun r => (List.range r.sizeMib).map (fun k => r.addr / mib + k)) ++
    (List.range im.historyMib).map (fun k => s.historyBase + k)

/-- A granule becomes fixed with step n's values (R18): its slots swap, and it is dirty for the mirror (R361). -/
def Gran.fix (r : Gran) : Gran := { r with fixedSlot := 1 - r.fixedSlot, writer := none, dirty := true, segs := [] }

/-- The slot that an unfixed step wrote becomes free (R18). -/
def Gran.drop (r : Gran) : Gran := { r with writer := none, segs := [] }

/-- Apply f to every listed granule that step n writes. -/
def State.onWritten (s : State) (n : Nat) (f : Gran → Gran) : State :=
  { s with mem := { s.mem with gran := s.mem.gran.filterMap (fun e =>
      let r := if e.2.writer = some n then f e.2 else e.2
      if r = Gran.empty then none else some (e.1, r)) } }

end Sys2Proof.Machine
end

