-- ==== Sys2Proof/Machine/Coord.lean ====
section
/-! DEFINITION. The module's place in its job: coordinates, the reduction tree and module messages (R296, R317), the logical map
(R248-R251) and the service level (R31, R419). -/

namespace Sys2Proof.Machine

/-- A coordinate as DST writes it (R300): X [14:10], Y [9:5], Z [4:0]. -/
def coordWord (x y z : Nat) : Nat := x * 1024 + y * 32 + z
def coordX (c : Nat) : Nat := bits c 10 5
def coordY (c : Nat) : Nat := bits c 5 5
def coordZ (c : Nat) : Nat := bits c 0 5

def State.coord (s : State) : Nat := coordWord (s.o 0x102101) (s.o 0x102102) (s.o 0x102103)
def State.dimX (s : State) : Nat := s.o 0x700601
def State.dimY (s : State) : Nat := s.o 0x700602
def State.dimZ (s : State) : Nat := s.o 0x700603
def State.jobModules (s : State) : Nat := s.dimX * s.dimY * s.dimZ
def State.isRoot (s : State) : Bool := decide (s.coord = 0)
def State.jobId (s : State) : Nat := s.o 0x700604

/-- One step from c toward 0 on the shorter way of a ring of d, with the − direction on a tie (R317). -/
def towardZero (c d : Nat) : Nat := if c ≤ d - c then c - 1 else (c + 1) % d

/-- The parent of a coordinate (R317). -/
def State.parentOf (s : State) (c : Nat) : Option Nat :=
  if coordZ c ≠ 0 then some (coordWord (coordX c) (coordY c) (towardZero (coordZ c) s.dimZ))
  else if coordY c ≠ 0 then some (coordWord (coordX c) (towardZero (coordY c) s.dimY) 0)
  else if coordX c ≠ 0 then some (coordWord (towardZero (coordX c) s.dimX) 0 0)
  else none

/-- The port toward the parent (R295): 0 X+, 1 X−, 2 Y+, 3 Y−, 4 Z+, 5 Z−. -/
def State.parentPort (s : State) : Nat :=
  let c := s.coord
  if coordZ c ≠ 0 then (if coordZ c ≤ s.dimZ - coordZ c then 5 else 4)
  else if coordY c ≠ 0 then (if coordY c ≤ s.dimY - coordY c then 3 else 2)
  else if coordX c ≤ s.dimX - coordX c then 1 else 0

/-- The neighbour on a port. -/
def State.neighbour (s : State) (c port : Nat) : Nat :=
  let x := coordX c; let y := coordY c; let z := coordZ c
  if port = 0 then coordWord ((x + 1) % s.dimX) y z else if port = 1 then coordWord ((x + s.dimX - 1) % s.dimX) y z
  else if port = 2 then coordWord x ((y + 1) % s.dimY) z else if port = 3 then coordWord x ((y + s.dimY - 1) % s.dimY) z
  else if port = 4 then coordWord x y ((z + 1) % s.dimZ) else coordWord x y ((z + s.dimZ - 1) % s.dimZ)

/-- The children in the reduction tree (R317). -/
def State.children (s : State) : List Nat :=
  (List.range 6).foldl (fun l p =>
    let c := s.neighbour s.coord p
    if c ≠ s.coord ∧ s.parentOf c = some s.coord then insSet c l else l) []

/-- LINK_STATE of a torus port; 5 is ACTIVE (R309). -/
def State.linkState (s : State) (p : Nat) : Nat := s.o (kLink p 1)
def lsActive : Nat := 5

/- Cores. -/

/-- CORE_STATE values (R76). -/
def csActive : Nat := 0
def csSpare : Nat := 1
def csProving : Nat := 2
def csReplay : Nat := 3
def csFenced : Nat := 4
def csRetired : Nat := 5

def State.coreState (s : State) (p : Nat) : Nat := s.o (kCore p 1)
def State.setCoreState (s : State) (p v : Nat) : State := s.put (kCore p 1) v

/-- The physical core that holds logical core l (R250); the map holds P + 1, and 0 where no core holds l. -/
def State.lcore? (s : State) (l : Nat) : Option Nat :=
  match SMap.get 0 l s.logicalMap with
  | 0 => none
  | p + 1 => some p

def State.setLcore (s : State) (l : Nat) (p : Option Nat) : State :=
  { s with logicalMap := SMap.put 0 l (match p with
    | none => 0
    | some p => p + 1) s.logicalMap }

/-- Die of a core, and of a logical core (R4, R248). -/
def coreDie (p : Nat) : Nat := p / 144
def lcoreDie (l : Nat) : Nat := l / 128

/-- LCORES of the bound image. -/
def State.imageLcores (s : State) : Nat := match s.image with
  | none => 0
  | some im => im.lcores

/-- ARITH_GEN of the cores of a die: what its capability record reports (R285, R287), and 1 until it has reported (R8). -/
def State.arithGen (s : State) (d : Nat) : Nat := match s.o (kDie d 2) with
  | 0 => 1
  | r => bits r 64 8

/-- DIE_STATE 0 is UP, JOIN_STATE 0 is UP (R294); STACK_STATE 4 LOST and 5 FAILED (R201). -/
def State.dieUp (s : State) (d : Nat) : Bool := decide (s.o (kDie d 1) = 0)
def State.hubJoinUp (s : State) (d : Nat) : Bool := decide (s.o (okey (0x7210 + d) 1) = 0)
def State.stackOk (s : State) (n : Nat) : Bool := decide (s.o (kStack n 1) < 4)

/- Step records: one per step number, in ascending order. -/

def State.step? (s : State) (n : Nat) : Option StepRec := s.steps.list.find? (fun r => decide (r.n = n))

/-- Change the record of step n. -/
def State.updStep (s : State) (n : Nat) (f : StepRec → StepRec) : State :=
  { s with steps := { s.steps with list := s.steps.list.map (fun r => if r.n = n then f r else r) } }

def State.setStepSt (s : State) (n : Nat) (st : StepSt) : State := s.updStep n (fun r => { r with st := st })

/-- A step that is neither fixed nor discarded. -/
def StepRec.open_ (r : StepRec) : Bool := decide (r.st ∉ [StepSt.fixed, .mirrored, .discarded])

end Sys2Proof.Machine
end

