-- ==== Sys2Proof/Machine/TorusOps.lean ====
section
/-! DEFINITION. Shared operations of the torus link layer (R300-R307): flit headers and CRC, routing, and a port's sending side with its
retry buffer and link credits, and the messages of the module (R316, R317, R367). -/

namespace Sys2Proof.Machine

/- CRC (R302): ECMA-182 reflected, all ones in and out. -/

def crcBit : Nat → W64 → W64
  | 0, c => c
  | n + 1, c => crcBit n (if c.getLsbD 0 then (c >>> 1) ^^^ 0xC96C5795D7870F42#64 else c >>> 1)

def crcStep (c : W64) (b : Byte) : W64 := crcBit 8 (c ^^^ b.zeroExtend 64)

def crc64 (bytes : List Byte) : W64 := bytes.foldl crcStep 0xFFFFFFFFFFFFFFFF#64 ^^^ 0xFFFFFFFFFFFFFFFF#64

/- Header fields (R300). -/

def flF (f : Flit) (lo n : Nat) : Nat := bits f.header.toNat lo n
def flType (f : Flit) : Nat := flF f 124 4
def flClass (f : Flit) : Nat := flF f 122 2
def flSeq (f : Flit) : Nat := flF f 110 12
def flAckSeq (f : Flit) : Nat := flF f 98 12
def flAckValid (f : Flit) : Bool := f.header.getLsbD 97
def flNak (f : Flit) : Bool := f.header.getLsbD 96
def flCreditClass (f : Flit) : Nat := flF f 94 2
def flCreditCount (f : Flit) : Nat := flF f 86 8
def flDst (f : Flit) : Nat := flF f 71 15
def flSrc (f : Flit) : Nat := flF f 56 15
def flTag (f : Flit) : Nat := flF f 40 16
def flLen (f : Flit) : Nat := flF f 32 8
def flOffset (f : Flit) : Nat := flF f 26 6
def flPoison (f : Flit) : Nat := flF f 21 5

def ftNull : Nat := 0
def ftData : Nat := 1
def ftCredit : Nat := 2
def ftControl : Nat := 3

/-- DST of a flood. -/
def dstFlood : Nat := 0x7FFF

/-- What a sequenced flit says of itself; the link adds SEQ, acknowledgement and credits when it goes out. -/
def flitHeader (ftype cls dst src tag len offset poison : Nat) : BitVec 128 :=
  BitVec.ofNat 128 (ftype * 2 ^ 124 + cls * 2 ^ 122 + dst * 2 ^ 71 + src * 2 ^ 56 + tag * 2 ^ 40 + len * 2 ^ 32 + offset * 2 ^ 26 +
    poison * 2 ^ 21)

/-- Bytes 0-247 of a flit. -/
def Flit.body (f : Flit) : List Byte := leBytes 16 f.header.toNat ++ bytesAt f.payload 0 232

/-- A flit with its CRC. -/
def sealFlit (header : BitVec 128) (payload : List Byte) : Flit :=
  { header := header, payload := bytesAt payload 0 232, crc := crc64 (leBytes 16 header.toNat ++ bytesAt payload 0 232), fecOk := true,
    fecFixed := 0 }

/-- The CRC of a flit is good (R302). -/
def flitGood (f : Flit) : Bool := f.fecOk && decide (f.crc = crc64 (Flit.body f))

/- Ports. -/

def State.link (s : State) (p : Nat) : Link := s.links.getD p Link.empty
def State.setLink (s : State) (p : Nat) (l : Link) : State := { s with links := s.links.set p l }

/-- A step along an axis of length d from a to b (R307): the shorter way, + on a tie; 0 is the + port of the axis. -/
def axisPort (a b d axis : Nat) : Nat := if 2 * ((b + d - a) % d) ≤ d then 2 * axis else 2 * axis + 1

/-- The port on which a flit for a coordinate leaves (R307); none for the module itself. -/
def State.routePort (s : State) (dst : Nat) : Option Nat :=
  let c := s.coord
  if coordX c ≠ coordX dst then some (axisPort (coordX c) (coordX dst) s.dimX 0)
  else if coordY c ≠ coordY dst then some (axisPort (coordY c) (coordY dst) s.dimY 1)
  else if coordZ c ≠ coordZ dst then some (axisPort (coordZ c) (coordZ dst) s.dimZ 2)
  else none

/-- Reached coordinate of a hop. -/
def State.hopTo (s : State) (c port : Nat) : Nat := s.neighbour c port

/-- FAULTED (R309). -/
def lsFaulted : Nat := 8

/-- The other way around the ring of a port. -/
def otherWay (port : Nat) : Nat := if port % 2 = 0 then port + 1 else port - 1

/-- The port for a flit of a class: class 3 takes the other way round a ring whose first link on the route is FAULTED (R307). -/
def State.portFor (s : State) (cls dst : Nat) : Option Nat :=
  match s.routePort dst with
  | none => none
  | some p => some (if cls = 3 ∧ s.linkState p = lsFaulted then otherWay p else p)

/- Sending (R303-R305). -/

/-- The acknowledgement that every flit carries: the last sequenced flit accepted. -/
def Link.ackFields (l : Link) (nak : Bool) : Nat := (l.rxSeq + 4095) % 4096 * 2 ^ 98 + 2 ^ 97 + (if nak then 2 ^ 96 else 0)

/-- The credit fields of an outgoing flit: the credits owed of the first class that owes any. -/
def Link.creditFields (l : Link) : Nat × Link :=
  match (List.range 4).find? (fun k => decide (0 < l.owed.getD k 0)) with
  | none => (0, l)
  | some k =>
    let n := min 255 (l.owed.getD k 0)
    (k * 2 ^ 94 + n * 2 ^ 86, { l with owed := l.owed.set k (l.owed.getD k 0 - n) })

/-- RETRAIN (R309). -/
def lsRetrain : Nat := 6

/-- A link keeps its books and retry buffer: ACTIVE, or in a retrain (R306). -/
def State.linkKept (s : State) (p : Nat) : Bool := decide (s.linkState p = lsActive ∨ s.linkState p = lsRetrain)

/-- The module and its neighbour as the ends of a flit that stays on a link: SRC and DST of NULL and CONTROL. DESIGN CHOICE: R300 gives NULL
and CONTROL no DST of their own (log 114). -/
def State.linkEnds (s : State) (p : Nat) : Nat := s.neighbour s.coord p * 2 ^ 71 + s.coord * 2 ^ 56

/-- A CONTROL flit (R301): its record, LEN its length, and while the link keeps its books an acknowledgement and a credit return. -/
def State.controlFlit (s : State) (p : Nat) (record : List Byte) : State :=
  let h := ftControl * 2 ^ 124 + s.linkEnds p + record.length * 2 ^ 32
  if s.linkKept p then
    let (f, l) := (s.link p).creditFields
    (s.setLink p l).emit (.flit p (sealFlit (BitVec.ofNat 128 (h + f + l.ackFields false)) record))
  else s.emit (.flit p (sealFlit (BitVec.ofNat 128 h) record))

/-- Put a flit on the wire; a MARKER follows every 256 flits (R299). -/
def State.putFlit (s : State) (p : Nat) (header : Nat) (payload : List Byte) : State :=
  let l := s.link p
  let n := (l.sinceMark + 1) % 256
  let s := (s.setLink p { l with sinceMark := n }).emit (.flit p (sealFlit (BitVec.ofNat 128 header) payload))
  if n = 0 then s.controlFlit p [1] else s

/-- Send a NULL flit while ACTIVE (R309): an acknowledgement, or a NAK, with the credits owed of one class. -/
def State.sendNull (s : State) (p : Nat) (nak : Bool) : State :=
  if s.linkState p ≠ lsActive then s else
  let (f, l) := (s.link p).creditFields
  (s.setLink p l).putFlit p (s.linkEnds p + f + l.ackFields nak) []

/-- Return every credit owed on a port, in NULL flits; in a retrain they stay owed (R306). Fuel bounds the flits. -/
def State.returnOwed (s : State) (p : Nat) : Nat → State
  | 0 => s
  | k + 1 => if (s.link p).owed.all (fun n => decide (n = 0)) then s else (s.sendNull p false).returnOwed p k

/-- A flit of a class leaves the module's buffer of a port: its credit is owed and goes back (R305). -/
def State.leaveBuffer (s : State) (p cls : Nat) : State :=
  let l := s.link p
  let l := { l with rxUse := l.rxUse.set cls (l.rxUse.getD cls 0 - 1), owed := l.owed.set cls (l.owed.getD cls 0 + 1) }
  (s.setLink p l).returnOwed p 8

/-- CLASS1_WEIGHT of a port. -/
def kClass1Weight (p : Nat) : Nat := kLink p 0x0B

/-- The order in which the classes take a flit slot (R304): class 0 always first, class 3 at most 1 slot in 32, and of each 8 the first ones
class 1's. DESIGN CHOICE: class 3 has the last slot of 32, and class 1 the first of each 8 (log 115). -/
def slotClasses (slot weight : Nat) : List Nat :=
  if slot % 32 = 31 then [0, 3, 1, 2] else if slot % 8 < weight then [0, 1, 2, 3] else [0, 2, 1, 3]

/-- The next flit of a port's queue (R304): of each class the first, while the class has a link credit. -/
def Link.nextFlit (l : Link) (weight : Nat) : Option (Nat × Flit) :=
  (slotClasses l.slot weight).findSome? (fun k =>
    if l.credits.getD k 0 = 0 then none else l.queue.find? (fun e => decide (flClass e.2 = k)))

/-- Send one queued flit: it takes the next SEQ, a link credit and a place in the retry buffer, where it keeps the credits it returns
(R303, R305). A forwarded flit leaves the buffer of the port it came by. -/
def State.sendOne (s : State) (p : Nat) (e : Nat × Flit) : State :=
  let (fields, l) := (s.link p).creditFields
  let cls := flClass e.2
  let h := e.2.header.toNat + l.txSeq * 2 ^ 110 + fields
  let held : Flit := { e.2 with header := BitVec.ofNat 128 h }
  let l := { l with queue := l.queue.erase e, txSeq := (l.txSeq + 1) % 4096, retry := l.retry ++ [(l.txSeq, held)],
                    credits := l.credits.set cls (l.credits.getD cls 0 - 1), slot := if cls = 0 then l.slot else (l.slot + 1) % 32 }
  let s := (s.setLink p l).putFlit p (h + l.ackFields false) e.2.payload
  if e.1 < 6 then s.leaveBuffer e.1 cls else s

/-- Send what a port may send (R303, R305): while ACTIVE, with fewer than 512 flits unacknowledged. Fuel bounds the flits. -/
def State.drainPort (s : State) (p : Nat) : Nat → State
  | 0 => s
  | k + 1 =>
    let l := s.link p
    if s.linkState p ≠ lsActive ∨ 512 ≤ l.retry.length then s else
    match l.nextFlit (s.o (kClass1Weight p)) with
    | none => s
    | some e => (s.sendOne p e).drainPort p k

/-- Queue a flit that came by a port (6: the module's own) at a port, and send what may go. -/
def State.queueFlit (s : State) (p from_ : Nat) (f : Flit) : State :=
  let l := s.link p
  (s.setLink p { l with queue := l.queue ++ [(from_, f)] }).drainPort p 513

/-- A flit of the module's own, still without what its link adds. -/
def State.ownFlit (s : State) (ftype cls dst tag : Nat) (payload : List Byte) (offset poison : Nat) : Flit :=
  { header := flitHeader ftype cls dst s.coord tag payload.length offset poison, payload := payload, crc := 0, fecOk := true, fecFixed := 0 }

/-- Send a flit of a stream or a message toward a coordinate. -/
def State.sendFlit (s : State) (ftype cls dst tag : Nat) (payload : List Byte) (offset poison : Nat) : State :=
  match s.portFor cls dst with
  | none => s
  | some p => s.queueFlit p 6 (s.ownFlit ftype cls dst tag payload offset poison)

/-- A waiting flit of a stream that still has room: its last one at a port. -/
def roomFor (tag : Nat) (e : Nat × Flit) : Bool := decide (e.1 = 6 ∧ flType e.2 = ftData ∧ flTag e.2 = tag ∧ flLen e.2 < 232)

/-- Send a unit of a stream (R319): its bytes go into the stream's last waiting flit as far as that has room, and the rest into a flit of
its own, which says where in the unit it begins. -/
def State.sendUnitBytes (s : State) (cls dst tag : Nat) (bytes : List Byte) (poison : Bool) : State :=
  match s.portFor cls dst with
  | none => s
  | some p =>
    match (s.link p).queue.reverse.find? (roomFor tag) with
    | none => s.queueFlit p 6 (s.ownFlit ftData cls dst tag bytes 0 (if poison then 1 else 0))
    | some e =>
      let n := min bytes.length (232 - flLen e.2)
      let mask := flPoison e.2 ||| (if poison then 2 ^ ((flOffset e.2 + flLen e.2) / 64) else 0)
      let more : Flit := s.ownFlit ftData cls dst tag (e.2.payload ++ bytes.take n) (flOffset e.2) mask
      let l := s.link p
      let s := s.setLink p { l with queue := l.queue.map (fun q => if q = e then (6, more) else q) }
      if n = bytes.length then s else s.queueFlit p 6 (s.ownFlit ftData cls dst tag (bytes.drop n) n (if poison then 1 else 0))

/- Messages of the module (R316, R317, R367). -/

/-- The 32 bytes with which a message begins (R317). -/
def messageBytes (jobId msgId step word value : Nat) : List Byte :=
  leBytes 4 jobId ++ leBytes 4 msgId ++ leBytes 8 step ++ leBytes 4 word ++ leBytes 8 value ++ leBytes 4 0

/-- MSG_ID counts what the module originates (R317). -/
def State.nextMsg (s : State) : State := { s with steps := { s.steps with msgId := (s.steps.msgId + 1) % 2 ^ 32 } }

/-- A message that the module originates, as its first bytes. -/
def State.message (s : State) (step word value : Nat) : List Byte := messageBytes s.jobId s.steps.msgId step word value

/-- The ports that a flood leaves by (R317): every ACTIVE one but the one it came on. -/
def State.floodPorts (s : State) (port : Nat) : List Nat :=
  (List.range 6).filter (fun p => decide (p ≠ port) && decide (s.linkState p = lsActive))

/-- Send one message flit on each of some ports. -/
def State.sendOn (s : State) (ports : List Nat) (f : Flit) : State := ports.foldl (fun t p => t.queueFlit p 6 f) s

/-- Originate a flood message (R316, R317). A job of one module sends nothing (R28). -/
def State.flood (s : State) (tag step word value : Nat) : State :=
  if s.jobModules ≤ 1 then s
  else s.nextMsg.sendOn (s.floodPorts 6) (s.ownFlit ftData 0 dstFlood tag (s.message step word value) 0 0)

/-- Send a message to the parent (R316, R317). -/
def State.sendParent (s : State) (tag step word value : Nat) : State :=
  s.nextMsg.sendOn [s.parentPort] (s.ownFlit ftData 0 ((s.parentOf s.coord).getD 0) tag (s.message step word value) 0 0)

/-- Bytes of a message in flits of up to 232 B. Fuel bounds the flits. -/
def flitPieces : Nat → List Byte → List (List Byte)
  | 0, _ => []
  | k + 1, b => if b.length ≤ 232 then [b] else b.take 232 :: flitPieces k (b.drop 232)

/-- Send a class-1 message (R367): one longer than 232 B goes on in the next flits of its TAG. -/
def State.sendClass1 (s : State) (dst tag step word value : Nat) (data : List Byte) : State :=
  let bytes := s.message step word value ++ data
  (flitPieces (bytes.length + 1) bytes).foldl (fun t b => t.sendFlit ftData 1 dst tag b 0 0) s.nextMsg

end Sys2Proof.Machine
end

