-- ==== Sys2Proof/Machine/Cut.lean ====
section
/-! DEFINITION. Checkpoint cuts (R372-R389): the root's sequence, each module's shard, the gather and the manifest. -/

namespace Sys2Proof.Machine

def kCutState : Nat := 0x506201
def kCutStep : Nat := 0x506202
def kCutSlot : Nat := 0x506203
def kLastCompleteSlot : Nat := 0x506205

/-- CUT_STATE values (R396). -/
def cutIdle : Nat := 0
def cutInvalidating : Nat := 1
def cutStreaming : Nat := 2
def cutGathering : Nat := 3
def cutManifest : Nat := 4

/-- Fields of STORAGE_TARGET record n (R378). -/
def State.target (s : State) (n : Nat) : Nat := s.o (0x506001 + n)
def targetPort (r : Nat) : Nat := bits r 0 8
def targetSlotAddr (r slot : Nat) : Nat := bits r (256 + 64 * slot) 64
def targetSlotBytes (r : Nat) : Nat := bits r 384 64

/-- The usable records, by subindex (R379): PORT not 0xFF and the storage QP ready. -/
def State.targets (s : State) : List Nat :=
  (List.range 8).filter (fun n => decide (targetPort (s.target n) ≠ 0xFF) && match s.storage[n]? with
    | none => false
    | some q => decide (q.state = 1))

/-- Frozen regions of the image. -/
def State.frozenRegions (s : State) : List Region := s.regions.filter (fun r => decide (r.kind = rkFrozen))

/-- Bytes of the frozen table (R381). -/
def State.frozenTableBytes (s : State) : Nat := (128 * s.frozenRegions.length + 4095) / 4096 * 4096

/-- The frozen table: one entry per FROZEN region, zero-padded to 4 KiB. -/
def State.frozenTable (s : State) : List Byte :=
  bytesAt (s.frozenRegions.flatMap (fun r =>
    leBytes 4 r.num ++ leBytes 4 r.sizeMib ++
    leBytes 64 (match s.frozenDigests.find? (fun e => decide (e.1 = r.num)) with
      | none => 0
      | some e => e.2.toNat) ++ List.replicate 56 0)) 0 s.frozenTableBytes

/-- The blocks of the content (R381, R383): granules with their fixed slots, then blocks of the frozen table, marked by slot 2. -/
def State.contentBlocks (s : State) : List (Nat × Nat) :=
  s.granules.map (fun g => (g, (s.gran g).fixedSlot)) ++
  (List.range ((s.frozenTableBytes + mib - 1) / mib)).map (fun k => (k, 2))

/-- The raw bytes of a block. -/
def State.blockBytes (s : State) (b : Nat × Nat) : List Byte :=
  if b.2 = 2 then (s.frozenTable.drop (b.1 * mib)).take mib else s.hbmBytes (s.slotAddr b.1 b.2) mib

/-- CONTENT_LENGTH. -/
def State.contentLength (s : State) : Nat := s.granules.length * mib + s.frozenTableBytes

/-- Pin a block of a shard of step c (R375), and release its pin. -/
def State.pinBlock (c : Nat) (s : State) (b : Nat × Nat) : State :=
  if b.2 = 2 then s else s.setGran b.1 { s.gran b.1 with cutPin := (s.gran b.1).cutPin ++ [(c, b.2)] }
def State.unpinBlock (c : Nat) (s : State) (b : Nat × Nat) : State :=
  if b.2 = 2 then s else s.setGran b.1 { s.gran b.1 with cutPin := (s.gran b.1).cutPin.erase (c, b.2) }

/- Storage writes. -/

/-- A write to storage goes out (R373, R379, R385). -/
def State.storeWrite (s : State) (what : StoreFor) (record addr : Nat) (data : List Byte) : State :=
  ({ s with ckpt := { s.ckpt with writes := s.ckpt.writes ++ [{ record := record, what := what, live := true }] } } : State).emit
    (.storageWrite record addr data)

/-- The unanswered writes of the shard being streamed. -/
def Ckpt.unacked (k : Ckpt) : Nat := (k.writes.filter (fun w => w.live && decide (w.what = .shard))).length

/-- Writes of a failed shard are still out (R389). -/
def Ckpt.draining (k : Ckpt) : Bool := k.writes.any (fun w => !w.live && decide (w.what = .shard))

/-- What the writes of p were for has ended: their answers change nothing more. -/
def State.orphan (s : State) (p : StoreFor → Bool) : State :=
  { s with ckpt := { s.ckpt with writes := s.ckpt.writes.map (fun w => if p w.what then { w with live := false } else w) } }

/-- The connection of record n stands (R379, R436). -/
def State.connected (s : State) (n : Nat) : Bool := match s.storage[n]? with
  | none => false
  | some q => decide (q.state = 1)

/- The root's side. -/

/-- The module's own shard of the current cut has not ended, and any shard of it has not. -/
def Ckpt.ownOpen (k : Ckpt) : Bool :=
  k.shard.any (fun h => !h.old) || k.queued.any (fun h => !h.old) || k.cuts.any (fun c => !c.2.2)
def Ckpt.anyOpen (k : Ckpt) : Bool := k.shard.isSome || !k.queued.isEmpty || !k.cuts.isEmpty

/-- CUT_STATE as the cuts stand (R396): a root that invalidates or writes its manifest stays there while its cut goes on; from the cut grant
until the module's own shard ends it streams; then the root gathers. -/
def State.settleCut (s : State) : State :=
  let k := s.ckpt
  if k.cutHnd.isSome ∧ s.o kCutState ∈ [cutInvalidating, cutManifest] then s
  else s.put kCutState (if k.ownOpen then cutStreaming else if k.cutHnd.isSome then cutGathering else if k.anyOpen then cutStreaming else cutIdle)

/-- The slot that a new cut writes (R373). -/
def State.cutSlot (s : State) : Nat := if s.o kLastCompleteSlot = 0 then 1 else 0

/-- End of the root's cut: the handle completes, its books empty, and what the module itself still streams of it is of a cut that has ended. -/
def State.endCut (s : State) (status : Nat) (r : List Nat) : State :=
  let h := s.ckpt.cutHnd
  let past := fun (h : Shard) => { h with old := true }
  let k := { s.ckpt with cutHnd := none, invalidated := false, reports := [], shard := s.ckpt.shard.map past, queued := s.ckpt.queued.map past,
                         cuts := s.ckpt.cuts.map (fun (c : Nat × Nat × Bool) => (c.1, c.2.1, true)) }
  let s : State := { s with ckpt := k }
  (s.orphan (fun w => decide (w ≠ StoreFor.shard))).settleCut.complete? h status r

/-- Invalidate the manifest of slot s at the root's own target (R373); without a usable record the write fails. -/
def State.invalidateManifest (s : State) (h : Hnd) : State :=
  let slot := s.cutSlot
  let s := { s with ckpt := { s.ckpt with cutHnd := some h, invalidated := false } }
  let s := (s.put kCutState cutInvalidating).put kCutSlot slot
  match s.targets with
  | [] => ((s.put 0x50620A 2).raise 0x0404 2 slot).endCut stFault [2]
  | n :: _ => s.storeWrite .invalidation n (targetSlotAddr (s.target n) slot) (List.replicate 256 0)

/-- Start the CHECKPOINT that waits, when the one before it has ended (R40). -/
def State.nextCheckpoint (s : State) : State :=
  match s.ckpt.cutHnd, s.ckpt.waitHnd with
  | none, some h => { s with ckpt := { s.ckpt with waitHnd := none } }.invalidateManifest h
  | _, _ => s

/-- The cut fails at the root (R389). -/
def State.failCut (s : State) (cause : Nat) : State :=
  if s.ckpt.cutHnd = none then s else
  (((s.put 0x50620A cause).raise 0x0404 cause (s.o kCutSlot)).endCut stFault [cause]).nextCheckpoint

/-- The manifest's entry number of a coordinate (R387). -/
def State.entryNumber (s : State) (c : Nat) : Nat := coordX c + s.dimX * (coordY c + s.dimY * coordZ c)

/-- GRADE, DIMS, LCORES and VAT_LAYOUT_DIGEST. -/
def State.dimsBytes (s : State) : List Byte := leBytes 1 s.dimX ++ leBytes 1 s.dimY ++ leBytes 1 s.dimZ

/-- The manifest header (R386). -/
def State.manifestHeader (s : State) (c slot : Nat) : List Byte :=
  leBytes 4 0x4E4D5854 ++ leBytes 2 1 ++ leBytes 1 slot ++ leBytes 1 s.grade.code ++ leBytes 4 s.jobId ++
  leBytes 4 s.jobModules ++ leBytes 8 c ++ s.dimsBytes ++ [0] ++ leBytes 2 (s.o 0x201004) ++ List.replicate 10 0 ++
  leBytes 64 (s.o 0x201003) ++ leBytes 64 (s.o 0x201002) ++ List.replicate 88 0

/-- One entry of the manifest (R387). -/
def manifestEntry (r : ShardRep) : List Byte :=
  [BitVec.ofNat 8 (coordX r.coord), BitVec.ofNat 8 (coordY r.coord), BitVec.ofNat 8 (coordZ r.coord), 0, 0, 0, 0, 0] ++
  leBytes 8 r.step ++ leBytes 8 r.stored ++ leBytes 8 r.content ++ leBytes 64 r.digest.toNat

/-- The entries in their order. -/
def State.manifestEntries (s : State) : List Byte :=
  (List.range s.jobModules).flatMap (fun k =>
    match s.ckpt.reports.find? (fun r => decide (s.entryNumber r.coord = k)) with
    | none => List.replicate 96 0
    | some r => manifestEntry r)

/-- The signature record (R388): the signature covers the header with MAGIC set, the entries and its own bytes 0-143. -/
def State.manifestSignature (s : State) (c slot : Nat) : List Byte :=
  let head := identityHash s.grade ++ identityKeyBytes ++ List.replicate 3 0
  let sig := Config.ecdsaSign (Config.sha512 (s.manifestHeader c slot ++ s.manifestEntries ++ head))
  head ++ (leBytes 132 sig.toNat).reverse ++ List.replicate 44 0

/-- Write the entries and the signature of the manifest; its header follows their acknowledgement (R385). -/
def State.writeManifest (s : State) : State :=
  let c := s.o kCutStep; let slot := s.o kCutSlot
  match s.targets with
  | [] => s.failCut 2
  | n :: _ =>
    (s.put kCutState cutManifest).storeWrite .entries n (targetSlotAddr (s.target n) slot + 256) (s.manifestEntries ++ s.manifestSignature c slot)

/-- Some other report of the cut names another step (R389). -/
def State.reportsDiffer (s : State) : Bool := s.ckpt.reports.any (fun r => decide (r.step ≠ s.o kCutStep))

/-- When every report is held, all with cause 0 and the cut's step, the root writes the manifest (R385), its own shard included. -/
def State.gather (s : State) : State :=
  if s.o kCutState = cutGathering ∧ s.ckpt.reports.length = s.jobModules ∧ s.ckpt.cutHnd.isSome then s.writeManifest else s

/-- A shard's report reaches the root (R385, R389): the first failure, or a step that differs, ends the cut. -/
def State.shardReport (s : State) (r : ShardRep) : State :=
  if s.ckpt.cutHnd = none ∨ s.o kCutState < cutStreaming ∨ s.o kCutState = cutManifest then s
  else if r.cause ≠ 0 then s.failCut r.cause
  else if r.step ≠ s.o kCutStep then s.failCut 6
  else
    let rs := s.ckpt.reports.filter (fun e => decide (e.coord ≠ r.coord)) ++ [r]
    { s with ckpt := { s.ckpt with reports := rs } }.gather

/- A module's shard. -/

/-- Send the report of the module's own shard (R384): to the root on class 1; the root counts its own for the cut that still stands. -/
def State.reportShard (s : State) (old : Bool) (r : ShardRep) : State :=
  if s.isRoot then (if old then s else s.shardReport r)
  else s.sendClass1 0 0xF110 r.step (r.cause + r.slot * 256) r.stored (leBytes 8 r.content ++ leBytes 64 r.digest.toNat)

/-- The largest stored size that a shard can take (R379). -/
def worstShard (blocks : Nat) : Nat := 4 * mib + 4096 + 1048912 * blocks + 64

/-- Why a shard fails before any byte is written, if it does (R379, R374). -/
def State.shardRefused (s : State) (h : Shard) : Option Nat :=
  if s.o kDecisionMode = 1 ∧ s.lastFixed ≠ h.step then some 6
  else match h.records with
    | [] => some 4
    | n :: _ => if targetSlotBytes (s.target n) < worstShard h.blocks.length then some 3 else none

/-- A shard, which no longer streams or waits, has failed (R389): its pins go, the failure is counted and raised, and reported unless a reset
ended it. -/
def State.shardFailed (s : State) (h : Shard) (cause : Nat) : State :=
  let s := h.blocks.foldl (State.unpinBlock h.step) s
  let s := (((s.bump32 0x506209 1).put 0x50620A cause).raise 0x0404 cause h.slot).settleCut
  if cause = 7 then s
  else s.reportShard h.old { coord := s.coord, step := h.step, cause := cause, slot := h.slot, stored := 0, content := 0, digest := 0 }

/-- The shard being streamed fails; its writes that are out drain (R389). -/
def State.failShard (s : State) (cause : Nat) : State :=
  match s.ckpt.shard with
  | none => s
  | some h => (({ s with ckpt := { s.ckpt with shard := none } } : State).orphan (fun w => decide (w = .shard))).shardFailed h cause

/-- Header of a shard (R380). -/
def State.shardHeader (s : State) (h : Shard) (digest : BitVec 512) : List Byte :=
  let blocks := h.written.length
  bytesAt (leBytes 4 0x44535854 ++ leBytes 2 1 ++ leBytes 1 h.slot ++ leBytes 1 s.grade.code ++ leBytes 4 s.jobId ++
    [BitVec.ofNat 8 (coordX s.coord), BitVec.ofNat 8 (coordY s.coord), BitVec.ofNat 8 (coordZ s.coord), 0] ++ leBytes 8 h.step ++
    s.dimsBytes ++ [0] ++ leBytes 2 (s.o 0x201004) ++ leBytes 2 0 ++ leBytes 8 h.content ++ leBytes 8 h.stored ++ leBytes 4 blocks ++
    leBytes 4 (s.granules.length - s.historyMib) ++ leBytes 4 s.historyMib ++ leBytes 4 s.frozenRegions.length ++ leBytes 8 h.offset ++
    List.replicate 56 0 ++ leBytes 64 (s.o 0x201003) ++ leBytes 64 (s.o 0x201002) ++ leBytes 64 digest.toNat) 0 4096

/-- SHA-512 of the content that a shard has read (R382). -/
def Shard.digest (h : Shard) : BitVec 512 := Config.sha512 (h.raw.flatMap (fun e => e.2))

/-- The index of a shard (R383). -/
def Shard.indexBytes (h : Shard) : List Byte := h.written.flatMap (fun e => leBytes 8 e.1 ++ leBytes 4 e.2 ++ leBytes 4 0)

/-- Bytes rounded up to a multiple of 64. -/
def round64 (n : Nat) : Nat := (n + 63) / 64 * 64

/-- The next write of the shard, once nothing is unanswered: after the last block the index, after the index the header (R379). A record whose
connection is lost fails it. -/
def State.advanceShard (s : State) : State :=
  match s.ckpt.shard with
  | none => s
  | some h =>
    let n := h.records.headD 0
    if h.blocks ≠ [] ∨ s.ckpt.unacked ≠ 0 ∨ 1 < h.phase then s
    else if !s.connected n then s.failShard 2
    else if h.phase = 0 then
      let h := { h with phase := 1, stored := round64 (h.offset + 16 * h.written.length) }
      { s with ckpt := { s.ckpt with shard := some h } }.storeWrite .shard n (h.addr + h.offset) h.indexBytes
    else
      let h := { h with phase := 2 }
      { s with ckpt := { s.ckpt with shard := some h } }.storeWrite .shard n h.addr (s.shardHeader h h.digest)

/-- Stream the next queued shard, once no shard streams and no write of a failed one is out (R375, R389). -/
def State.nextShard (s : State) : State :=
  match s.ckpt.shard, s.ckpt.queued with
  | none, h :: t => if s.ckpt.draining then s else ({ s with ckpt := { s.ckpt with shard := some h, queued := t } } : State).advanceShard
  | _, _ => s

/-- Fail the shards that satisfy p, the one being streamed and those that wait (R377, R389). -/
def State.failShards (s : State) (p : Shard → Bool) (cause : Nat) : State :=
  let gone := s.ckpt.queued.filter p
  let s := if s.ckpt.shard.any p then s.failShard cause else s
  (gone.foldl (fun (t : State) h => t.shardFailed h cause) { s with ckpt := { s.ckpt with queued := s.ckpt.queued.filter (fun h => !p h) } }).nextShard

/-- Address of a shard: 4 MiB above its slot, as record 0 gives it (R378, R379). -/
def State.shardAddr (s : State) (records : List Nat) (slot : Nat) : Nat :=
  targetSlotAddr (s.target (records.headD 0)) slot + 4 * mib

/-- The shard of cut c into a slot as the module stands: its records, its content and the slots that hold it (R375, R379, R381). -/
def State.newShard (s : State) (c slot : Nat) (old : Bool) : Shard :=
  { step := c, slot := slot, records := s.targets, blocks := s.contentBlocks, raw := [], written := [], phase := 0, offset := 4096, stored := 0,
    content := s.contentLength, addr := s.shardAddr s.targets slot, old := old }

/-- Act on a cut (R375): pin the shard content, and stream it, after a shard still streaming, or fail at once (R379). -/
def State.actOnCut (s : State) (c slot : Nat) (old : Bool) : State :=
  let h := s.newShard c slot old
  let s := h.blocks.foldl (State.pinBlock c) s
  match s.shardRefused h with
  | some cause => s.shardFailed h cause
  | none => ({ s with ckpt := { s.ckpt with queued := s.ckpt.queued ++ [h] } } : State).nextShard

/-- A step up to c has been discarded, so that the module never fixes c. -/
def State.cutLost (s : State) (c : Nat) : Bool :=
  (List.range (c - s.lastFixed)).any (fun k => match s.step? (s.lastFixed + 1 + k) with
    | none => true
    | some r => !r.open_)

/-- Take up the cuts whose steps are fixed, in the order of their grants (R375); one that the module can no longer reach fails as halted (R40,
R389). Under an external fault manager a cut is taken up at once (R418). Fuel bounds the cuts. -/
def State.cutsGo (s : State) : Nat → State
  | 0 => s
  | k + 1 => match s.ckpt.cuts with
    | [] => s
    | (c, slot, old) :: t =>
      let u := { s with ckpt := { s.ckpt with cuts := t } }
      if s.o kDecisionMode = 1 ∨ c ≤ s.lastFixed then (u.actOnCut c slot old).cutsGo k
      else if s.cutLost c then (u.shardFailed { u.newShard c slot old with blocks := [] } 1).cutsGo k
      else s

def State.settleCuts (s : State) : State := s.cutsGo s.ckpt.cuts.length

/-- The cut grant (R375, R396): from here on the module streams, once its steps up to c are fixed. -/
def State.takeCut (s : State) (c slot : Nat) : State :=
  (({ s with ckpt := { s.ckpt with cuts := s.ckpt.cuts ++ [(c, slot, false)] } }.put kCutState cutStreaming).put kCutStep c).put kCutSlot slot

/-- The root's cut may be declared: its handle is open and the manifest of its slot is invalid (R373, R374). -/
def State.declarable (s : State) : Bool :=
  s.isRoot && s.ckpt.cutHnd.isSome && s.ckpt.invalidated && decide (s.o kCutState = cutInvalidating)

/-- Declare the root's cut where it stands STOPPED (R374): GRANT(c) with the cut bit, which fixes nothing new. -/
def State.declareStopped (s : State) : State :=
  if s.mstate = .stopped ∧ s.declarable then
    let c := if s.o kDecisionMode = 1 then s.lastFixed else s.o kLastGranted
    let slot := s.o kCutSlot
    ((s.flood 0xF003 c 1 slot).takeCut c slot).settleCuts
  else s

/-- A halt at the root before the cut grant (R374, R40). -/
def State.cutOnHalt (s : State) : State :=
  if s.isRoot ∧ s.ckpt.cutHnd.isSome ∧ s.o kCutState = cutInvalidating then s.failCut 1 else s

/-- The connection of storage record n is lost (R379, R389, R436): its writes fail. -/
def State.storageLost (s : State) (n : Nat) : State :=
  let gone := fun (what : StoreFor → Bool) => s.ckpt.writes.any (fun w => w.live && decide (w.record = n) && what w.what)
  let s := { s with ckpt := { s.ckpt with writes := s.ckpt.writes.filter (fun w => decide (w.record ≠ n)) } }
  let s := if gone (fun w => decide (w = .shard)) then s.failShard 2 else s
  (if gone (fun w => decide (w ≠ .shard)) then s.failCut 2 else s).nextShard

end Sys2Proof.Machine
end

