-- ==== Sys2Proof/Machine/MirrorOps.lean ====
section
/-! DEFINITION. Shared operations of the source of the partner mirror (R357-R364). Granules go by their keys; their numbers are their places
in the mirror numbering (R357). -/

namespace Sys2Proof.Machine

/-- The partner: the neighbour on PARTNER_PORT (R357). -/
def State.partnerPort (s : State) : Nat := s.o kPartnerPort
def State.partner (s : State) : Nat := s.neighbour s.coord s.partnerPort

/-- The partner link carries messages. -/
def State.partnerUp (s : State) : Bool := decide (s.linkState s.partnerPort = lsActive)

/-- Send a mirror message to the partner (R367). -/
def State.sendPartner (s : State) (tag step word value : Nat) (data : List Byte) : State :=
  s.sendClass1 s.partner tag step word value data

/-- The place of a granule in the mirror numbering. -/
def State.granuleNumber (s : State) (g : Nat) : Nat := s.granules.idxOf g

/-- Change every listed granule record; one that reads as an unlisted granule leaves. -/
def State.mapGrans (s : State) (f : Nat → Gran → Gran) : State :=
  { s with mem := { s.mem with gran := s.mem.gran.filterMap (fun e =>
      let r := f e.1 e.2
      if r = Gran.empty then none else some (e.1, r)) } }

/-- Mark granules dirty for the mirror (R361, R432). -/
def State.markDirty (s : State) (gs : List Nat) : State :=
  gs.foldl (fun t g => t.setGran g { t.gran g with dirty := true }) s

/-- Release every mirror pin. -/
def State.unpinMirror (s : State) : State := s.mapGrans (fun _ r => { r with mirrorPin := none })

/-- A delta is abandoned (R362): its pins go, its granules are dirty again, and MIRROR_BEHIND is raised at every fourth of a row. -/
def State.abandonDelta (s : State) : State :=
  match s.mirror.delta with
  | none => s
  | some d =>
    let row := s.mirror.row + 1
    let s := (s.unpinMirror.markDirty (d.all.map (fun e => e.1))).bump64 0x503502 1
    let s := { s with mirror := { s.mirror with delta := none, row := row } }
    if row % 4 = 0 then s.raise 0x0402 d.m 0 else s

/-- YIELD (R362): the delta gives way to a write. -/
def State.yieldDelta (s : State) : State :=
  match s.mirror.delta with
  | none => s
  | some d => (s.sendPartner 0xF105 d.m 0 0 []).abandonDelta

/- Writes that wait for a pin (R362, R376). -/

/-- The slot that a copy-on-write into a granule would write. -/
def Gran.otherSlot (r : Gran) : Nat := 1 - r.fixedSlot

/-- Count a write when it first waits for a pin. -/
def State.countHeld (s : State) (h : Held) (counter : Nat) : State :=
  if s.mem.held.contains h then s else ({ s with mem := { s.mem with held := s.mem.held ++ [h] } } : State).bump64 counter 1

/-- A writer waits no longer. -/
def State.dropHeld (s : State) (who : Option (Nat × Nat × Nat)) : State :=
  { s with mem := { s.mem with held := s.mem.held.filter (fun h => decide (h.who ≠ who)) } }

/-- PACE (R362): the granule is sent next. -/
def State.paceGranule (s : State) (who : Option (Nat × Nat × Nat)) (g : Nat) : State :=
  match s.mirror.delta with
  | none => s
  | some d =>
    ({ s with mirror := { s.mirror with delta := some { d with
        unsent := d.unsent.filter (fun h => decide (h = g)) ++ d.unsent.filter (fun h => decide (h ≠ g)) } } } : State).countHeld
      { who := who, g := g, cut := false } 0x503505

/-- A block is read next. -/
def Shard.readNext (h : Shard) (b : Nat × Nat) : Shard :=
  { h with blocks := h.blocks.filter (fun e => decide (e = b)) ++ h.blocks.filter (fun e => decide (e ≠ b)) }

/-- A write into a slot that a cut has pinned waits, and the storage writer reads that granule next (R376). -/
def State.cutStall (s : State) (who : Option (Nat × Nat × Nat)) (b : Nat × Nat) : State :=
  ({ s with ckpt := { s.ckpt with shard := s.ckpt.shard.map (fun h => h.readNext b), queued := s.ckpt.queued.map (fun h => h.readNext b) } } :
    State).countHeld { who := who, g := b.1, cut := true } 0x506207

/-- Why a first write to a granule waits. -/
inductive Wait where
  | none | gate | pace | yield_ | cut
  deriving DecidableEq, Repr

/-- The pin that holds a copy into the other slot of a granule. -/
def State.pinWait (s : State) (g : Nat) : Wait :=
  let r := s.gran g
  if r.mirrorPin = some r.otherSlot then (if s.o kMirrorMode = 1 then .yield_ else .pace)
  else if r.cutPin.any (fun c => decide (c.2 = r.otherSlot)) then .cut
  else .none

/-- Meet the waits of a writer's granules in order, `wait` saying what holds each: whether the write waits, and the state with what the wait
brings about. A delta in YIELD mode gives way. -/
def State.holdWrites (s : State) (wait : State → Nat → Wait) (who : Option (Nat × Nat × Nat)) : List Nat → Bool × State
  | [] => (false, s)
  | g :: t =>
    match wait s g with
    | .none => s.holdWrites wait who t
    | .gate => (true, s)
    | .pace => (true, s.paceGranule who g)
    | .yield_ => s.yieldDelta.holdWrites wait who t
    | .cut => (true, s.cutStall who (g, (s.gran g).otherSlot))

end Sys2Proof.Machine
end

