-- ==== Sys2Proof/Machine/Routes.lean ====
section
/-! DEFINITION. Stream endpoints (R224, R318), the routes of streams over the joins (R272, R276, R279), and the service levels, which ask for them (R31, R419). -/

namespace Sys2Proof.Machine

/- Endpoints (R224, R318). -/

def epType (e : W32) : Nat := e.toNat / 2 ^ 28
def epCore : Nat := 0
def epTorus : Nat := 1
def epExpansion : Nat := 2
def epLcore (e : W32) : Nat := bits e.toNat 1 9
def epPort (e : W32) : Nat := bits e.toNat 0 1
def epCoord (e : W32) : Nat := coordWord (bits e.toNat 23 5) (bits e.toNat 18 5) (bits e.toNat 13 5)
def epNumber (e : W32) : Nat := bits e.toNat 0 8

/-- The declaration of a stream. -/
def State.streamD? (s : State) (num : Nat) : Option StreamD := match s.image with
  | none => none
  | some im => im.streams.find? (fun d => decide (d.num = num))

/- Routes (R279). -/

/-- The key of the expansion join. -/
def kExpansion : Nat := 8

/-- Keys of the joins: bridges 0-3, hub joins 4-7, the expansion join 8. -/
def joinKey : Join → Nat
  | .bridge j => j
  | .hub d => 4 + d
  | .expansion => kExpansion

/-- The joins of a grade (R272). -/
def Grade.joins (g : Grade) : List Nat :=
  (if g.dies = 4 then [0, 1, 2, 3] else [0]) ++ (List.range g.dies).map (fun d => 4 + d) ++ (if g.expansion then [kExpansion] else [])

/-- The bridge between two neighbouring dies (R272). -/
def bridgeOf (a b : Nat) : Nat :=
  if (a = 0 ∧ b = 1) ∨ (a = 1 ∧ b = 0) then 0
  else if (a = 1 ∧ b = 3) ∨ (a = 3 ∧ b = 1) then 1
  else if (a = 3 ∧ b = 2) ∨ (a = 2 ∧ b = 3) then 2 else 3

/-- Entry :sub of a join: bridges 0-3, hub joins 4-7, the expansion join. -/
def kJoin (key sub : Nat) : Nat :=
  if key < 4 then okey (0x7200 + key) sub else if key < 8 then okey (0x7210 + (key - 4)) sub else okey 0x7300 sub

def State.joinState (s : State) (key : Nat) : Nat := s.o (kJoin key 1)
def jsUp : Nat := 0
def jsTraining : Nat := 1
def jsDown : Nat := 2
def jsFaulted : Nat := 3
def jsEmpty : Nat := 4

/-- A join is UP (R282). -/
def State.joinUp (s : State) (key : Nat) : Bool := decide (s.joinState key = jsUp)

/-- The die between two opposite dies (R279): 1 between 0 and 3, 0 between 1 and 2; on a detour 2 and 3. -/
def between (detour : Bool) (a b : Nat) : Nat :=
  if min a b = 0 then (if detour then 2 else 1) else if detour then 3 else 0

/-- The dies of a bridge, in the order of R272. -/
def bridgeDies (j : Nat) : Nat × Nat := if j = 0 then (0, 1) else if j = 1 then (1, 3) else if j = 2 then (3, 2) else (2, 0)

/-- A crossing of a join: its key, and whether it is crossed toward the end that R272 names first. -/
abbrev Hop := Nat × Bool

/-- The bridge from a die to a neighbour, crossed that way. -/
def bridgeHop (a b : Nat) : Hop := (bridgeOf a b, decide ((bridgeDies (bridgeOf a b)).1 ≠ a))

/-- The crossings from die a to die b. -/
def dieRoute (detour : Bool) (a b : Nat) : List Hop :=
  if a = b then [] else if a + b = 3 then [bridgeHop a (between detour a b), bridgeHop (between detour a b) b] else [bridgeHop a b]

/-- The crossings from a die to an endpoint. -/
def toEndpoint (detour : Bool) (die : Nat) (e : W32) : List Hop :=
  if epType e = epCore then dieRoute detour die (lcoreDie (epLcore e))
  else if epType e = epTorus then [(4 + die, false)]
  else dieRoute detour die 0 ++ [(kExpansion, false)]

/-- The crossings of a stream, from its source on: a route changes only as the stream's book is set (R279). -/
def State.streamHops (s : State) (d : StreamD) : List Hop :=
  let detour := (s.streams.find? (fun b => decide (b.num = d.num))).any (fun b => b.detour)
  if epType d.src = epCore then toEndpoint detour (lcoreDie (epLcore d.src)) d.dst
  else (toEndpoint detour (lcoreDie (epLcore d.dst)) d.src).reverse.map (fun h => (h.1, !h.2))

/-- The joins that a stream crosses. -/
def State.streamJoins (s : State) (d : StreamD) : List Nat := (s.streamHops d).map (fun h => h.1)

/- Service levels (R31, R419). -/

/-- The stacks of a die are as they were when the image was bound: each that was not FAILED at its load serves (R419, R420). -/
def State.stacksAsBound (s : State) (im : Image) (d : Nat) : Bool :=
  [2 * d, 2 * d + 1].all (fun n => im.failed.contains n || s.stackOk n)

/-- A declared stream has its route: each join that it crosses is UP or TRAINING (R279, R419). -/
def State.routed (s : State) (d : StreamD) : Bool := (s.streamJoins d).all (fun k => decide (s.joinState k ≤ jsTraining))

/-- Level C (R419): an image, an ACTIVE core for every logical number below LCORES, its dies, hub joins and stacks, and a route for every
declared stream. -/
def State.levelC (s : State) : Bool :=
  decide (s.mstate ∉ [MState.off, .boot, .faulted, .maintenance]) && s.hubUp &&
  match s.image with
  | none => false
  | some im =>
    (List.range im.lcores).all (fun l => match s.lcore? l with
      | none => false
      | some p => decide (s.coreState p = csActive)) &&
    (List.range ((im.lcores + 127) / 128)).all (fun d => s.dieUp d && s.hubJoinUp d && s.stacksAsBound im d) && im.streams.all s.routed

/-- SERVICE_LEVEL (R31): 0 none, 1 Level M, 2 Level C. -/
def State.serviceLevel (s : State) : Nat :=
  if s.mstate = .off ∨ s.mstate = .boot ∨ (s.mstate = .faulted ∧ 2 ≤ s.fw.started) then 0
  else if s.mstate ∈ [MState.ready, .running, .stopping, .stopped] ∧ s.levelC then 2 else 1

end Sys2Proof.Machine
end

