-- ==== Sys2Proof/Machine/Vats.lean ====
section
/-! DEFINITION. The vat queues of the hub (R244): entries go in at a vat, pass down its children, and reach the contexts of the leaves. -/

namespace Sys2Proof.Machine

/-- The child vats of a vat (R243). -/
def State.childVats (s : State) (v : Nat) : List Nat := match s.image with
  | none => []
  | some im => (im.vats.filter (fun e => decide (e.parent = v))).map (fun e => e.num)

/-- Put an entry into a vat's queue of 4. -/
def State.toVat (s : State) (v : Nat) (e : VatEntry) : State :=
  let q := SMap.get [] v s.steps.vatQueue
  if 4 ≤ q.length then s else { s with steps := { s.steps with vatQueue := SMap.put [] v (q ++ [e]) s.steps.vatQueue } }

/-- The entry at the head of a vat's queue. -/
def State.vatHead (s : State) (v : Nat) : Option VatEntry := (SMap.get [] v s.steps.vatQueue).head?

/-- Take the head from a vat's queue. -/
def State.popVat (s : State) (v : Nat) : State :=
  { s with steps := { s.steps with vatQueue := SMap.put [] v (SMap.get [] v s.steps.vatQueue).tail s.steps.vatQueue } }

/-- An inner vat passes the head of its queue to each of its children; parents have lower numbers, so one pass over the vats reaches every
leaf. -/
def State.passDown (s : State) : State :=
  (List.range (match s.image with
    | none => 0
    | some im => im.vats.length)).foldl (fun t v => match t.vatHead v, t.childVats v with
      | some e, c :: l => (c :: l).foldl (fun t c => t.toVat c e) (t.popVat v)
      | _, _ => t) s

/-- Drive a vat with an entry: it passes down to the leaves, whose contexts `act` on the heads of their queues, and the leaves have taken it.
The hub passes an entry on at once (log 109). -/
def State.driveVat (s : State) (v : Nat) (e : VatEntry) (act : State → State) : State :=
  let s := act (s.toVat v e).passDown
  s.steps.vatQueue.foldl (fun t q => t.popVat q.1) s

end Sys2Proof.Machine
end

