-- ==== Sys2Proof/Machine/Steps.lean ====
section
/-! DEFINITION. Step keeping (R15-R40): issue, readiness, the fix grant, fixing and discarding, the stop, and the halt wave with its
rollback (R413-R418). -/

namespace Sys2Proof.Machine

/-- PROVISIONAL, its swatches evaluated and no suspect mark standing (R20, R27). -/
def StepRec.ready (r : StepRec) : Bool := decide (r.st = .provisional) && r.marks.isEmpty && r.swatchOwing.isEmpty

/-- The records of unfixed steps. -/
def State.openSteps (s : State) : List StepRec := s.steps.list.filter StepRec.open_

/-- The last step of the ready run above LAST_FIXED (R27). -/
def readyThrough (fixed : Nat) : List StepRec → Nat
  | [] => fixed
  | r :: t => if r.n = fixed + 1 ∧ r.ready then readyThrough r.n t else readyThrough fixed t

def State.readyTo (s : State) : Nat := readyThrough s.lastFixed s.steps.list

/- Issue (R15, R24). -/

/-- A new run of step n in PENDING. -/
def newStep (n run : Nat) (h : Option Hnd) : StepRec :=
  { n := n, st := .pending, started := false, waited := false, hnd := h, run := run, unverified := none, marks := [], swatchOwing := [],
    tokens := [], passedTorus := false, digests := [], loss := 0x7FC00000, reruns := 0, granules := [],
    maxima := [], chosen := [], met := none }

/-- Place a record at its number. -/
def insStep (r : StepRec) : List StepRec → List StepRec
  | [] => [r]
  | e :: t => if e.n < r.n then e :: insStep r t else if e.n = r.n then r :: t else r :: e :: t

/-- Issue step n: a new run, counted (R15, R453). -/
def State.issueStep (s : State) (n : Nat) : State :=
  let run := SMap.get 0 n s.steps.runs + 1
  { s with steps := { s.steps with runs := SMap.put 0 n run s.steps.runs,
                                   list := insStep (newStep n run s.steps.runHnd) s.steps.list } }

/-- The issue stops at E (R452). -/
def State.mayIssue (s : State) (n : Nat) : Bool :=
  decide (s.mstate = .running) && !s.steps.stopPending && s.image.isSome &&
  (match s.steps.runEnd with
   | none => true
   | some e => decide (n ≤ e)) &&
  (match s.step? n with
   | none => true
   | some r => !r.open_)

/-- Issue every step that the lag window will take: LAST_FIXED + 1 to LAST_FIXED + L + 1 (log 10). -/
def State.issue (s : State) : State :=
  (List.range (s.o kCommitLag + 1)).foldl (fun t k =>
    let n := s.lastFixed + 1 + k
    if t.mayIssue n then t.issueStep n else t) s

/- Records of steps (R30, R453). -/

def stepRecord (r : StepRec) (status st r0 r1 : Nat) (h : Hnd) : Rec :=
  { handle := h.handle, status := status, kind := 1, stepState := st, step := r.n, r0 := r0, r1 := r1, r2 := 0, r3 := 0 }

def State.stepRecord (s : State) (r : StepRec) (status st r0 r1 : Nat) : State :=
  match r.hnd with
  | none => s
  | some h => s.record h (Machine.stepRecord r status st r0 r1 h)

/-- The final record of the open RUN_STEPS handle (R30, R452). -/
def State.finalRecord (s : State) : State :=
  match s.steps.runHnd with
  | none => s
  | some h =>
    { s with steps := { s.steps with runHnd := none, runEnd := none } }.record h
      { handle := h.handle, status := stDone, kind := 2, stepState := 0, step := s.lastFixed, r0 := 0, r1 := 0, r2 := 0, r3 := 0 }

/- The stop (R32, R33). -/

/-- Withdraw the PENDING steps that have not been started in their run (R21, R33). -/
def State.withdraw (s : State) : State :=
  let gone := fun (r : StepRec) => decide (r.st = .pending) && !r.started
  let runs := (s.steps.list.filter gone).foldl (fun m r => SMap.put 0 r.n (r.run - 1) m) s.steps.runs
  { s with steps := { s.steps with runs := runs, list := s.steps.list.filter (fun r => !gone r) } }

/-- A stop becomes pending (R33). -/
def State.pendStop (s : State) : State := { s with steps := { s.steps with stopPending := true } }.withdraw

/-- The STOPPED reached in a rollback before or at a held target keeps the handle open (R452). -/
def State.holdsFinal (s : State) : Bool := match s.steps.rollback with
  | none => false
  | some b => b.held || b.target.isNone

/-- Enter STOPPED: every STOP completes (R33), the final record goes unless the stop is held, and a cut that waits is declared (R374). -/
def State.enterStopped (s : State) : State :=
  let h := s.steps.stopHnd
  let s := { s.setM .stopped with steps := { s.steps with stopPending := false, stopHnd := [] } }
  let s := h.foldl (fun t k => t.complete k stDone []) s
  let s := if s.holdsFinal then s else s.finalRecord
  s.declareStopped

/-- STOPPING becomes STOPPED when every issued step is FIXED or DISCARDED (R32). -/
def State.checkStop (s : State) : State := if s.mstate = .stopping ∧ s.openSteps = [] then s.enterStopped else s

/- Fixing and discarding. -/

/-- Release the journal of step n, its host inputs with it (R333, R335). -/
def State.releaseJournal (s : State) (n : Nat) : State :=
  { s with ledger := { s.ledger with
      pages := s.ledger.pages.filter (fun p => decide (p.step ≠ n)),
      units := s.ledger.units.filter (fun u => decide (u.1 ≠ n)),
      inputs := s.ledger.inputs.filter (fun i => decide (i.step ≠ n)) } }

/-- Keep an entry of a declaration's history: each list runs (step, maximum), latest last. The entries of the 66 steps through n are kept:
64 for a window of the greatest length, and the greatest commit lag, 2, beneath them (R24, R124). -/
def noteEntry (m : SMap (List (Nat × W32))) (n : Nat) (e : Nat × W32) : SMap (List (Nat × W32)) :=
  SMap.put [] e.1 ((SMap.get [] e.1 m ++ [(n, e.2)]).filter (fun q => decide (n < q.1 + 66))) m

/-- The word of the history region for an entry (log 16): its code with bit 31 set; 0 where the step has none. -/
def entryWord (m : SMap W32) (tensor : Nat) : W32 := if SMap.has tensor m then SMap.get 0 tensor m ||| 0x80000000#32 else 0

/-- The granules of the history region. -/
def State.historyGranules (s : State) : List Nat := (List.range s.historyMib).map (fun k => s.historyBase + k)

/-- Ready a granule of the history region for step n, as a write of the step would (R17): the other slot takes a copy. -/
def State.readyHistory (s : State) (n g : Nat) : State :=
  let r := s.gran g
  (s.hbmCopy (s.slotAddr g r.fixedSlot) (s.slotAddr g r.otherSlot) mib).setGran g { r with writer := some n }

/-- Write step n's entries into the history region (R126). -/
def State.writeHistory (s : State) (im : Image) (r : StepRec) : State :=
  let s := s.historyGranules.foldl (fun t g => t.readyHistory r.n g) s
  (im.histories.zipIdx).foldl (fun t e =>
    let o := 256 * e.2 + 4 * (r.n % 64)
    let g := t.historyBase + o / mib
    t.hbmWrite (t.slotAddr g (t.gran g).otherSlot + o % mib) (leBytes 4 (entryWord r.maxima e.1.tensor).toNat) false) s

/-- The history entries of a step enter (R123, R126): one per declaration cast in it. -/
def State.addHistory (s : State) (r : StepRec) : State :=
  let s := match s.image with
    | none => s
    | some im => if im.historyMib = 0 then s else s.writeHistory im r
  { s with ledger := { s.ledger with history := r.maxima.foldl (fun m e => noteEntry m r.n e) s.ledger.history } }

/-- The histories as the fixed slots of the history region hold them at step c (R126). -/
def State.readHistory (s : State) (c : Nat) : SMap (List (Nat × W32)) :=
  match s.image with
  | none => []
  | some im => (im.histories.zipIdx).foldl (fun m e =>
      ((List.range 64).map (fun k => c + k - 63)).foldl (fun m n =>
        let o := 256 * e.2 + 4 * (n % 64)
        let g := s.historyBase + o / mib
        let w : W32 := BitVec.ofNat 32 (ofLe (s.hbmBytes (s.slotAddr g (s.gran g).fixedSlot + o % mib) 4))
        if w.getLsbD 31 && !(SMap.get [] e.1.tensor m).any (fun q => decide (q.1 = n)) then noteEntry m n (e.1.tensor, w &&& 0x7FFFFFFF#32) else m) m) []

/-- Step n becomes FIXED (R18, R30, R123, R333, R354). -/
def State.fixStep (s : State) (r : StepRec) : State :=
  let s := ((s.addHistory r).onWritten r.n Gran.fix).releaseJournal r.n
  let s := { s with ledger := { s.ledger with chosen := r.chosen.foldl (fun m (e : Nat × Int) => SMap.ins e.1 e.2 m) s.ledger.chosen } }
  let s := s.put kLastFixed r.n
  let s := if s.o kDecisionMode = 1 then s.put kLastGranted r.n else s
  let s := s.setStepSt r.n .fixed
  let s := { s with ledger := { s.ledger with verdicts := s.ledger.verdicts.filter (fun v => decide (v.1 ≠ r.n)) } }
  match r.unverified with
  | none => s.stepRecord r stDone 4 r.loss r.run
  | some v => ((s.bump64 0x502109 1).raiseAt 0x0205 r.n v 0).stepRecord r stUnverified 4 r.loss r.run

/-- Fix ready steps up to g in step order, taking up the cut of each (R22, R28, R375). A fix whose history entries would go into a pinned slot
waits (R126, R362, R376). Fuel bounds the steps. -/
def State.fixGo (s : State) (g : Nat) : Nat → State
  | 0 => s
  | k + 1 =>
    match s.step? (s.lastFixed + 1) with
    | none => s
    | some r => if r.n ≤ g ∧ r.ready then
        let w := s.holdWrites State.pinWait none s.historyGranules
        if w.1 then w.2 else (((w.2.dropHeld none).fixStep r).settleCuts).fixGo g k
      else s

/-- The swatches captured in the steps that satisfy p are not evaluated (R36). -/
def State.dropSwatches (s : State) (p : Nat → Bool) : State :=
  { s with cores := s.cores.map (fun e => (e.1, { e.2 with swatches := e.2.swatches.filter (fun w => !p w.step) })) }

/-- Free the slots, journal and check of a step that is discarded, abandon the evaluation of its swatches, and record it (R18, R30,
R36). -/
def State.discardStep (s : State) (r : StepRec) (cause : Nat) : State :=
  let s := ((s.onWritten r.n Gran.drop).releaseJournal r.n).dropSwatches (fun n => decide (n = r.n))
  let s := (s.setStepSt r.n .discarded).bump64 kDiscardCount 1
  let s := { s with ledger := { s.ledger with verdicts := s.ledger.verdicts.filter (fun v => decide (v.1 ≠ r.n)) } }
  s.stepRecord r stFault 6 cause 0

/-- Discard every unfixed step that satisfies p, in step order; a granted cut that needs one of them is lost. -/
def State.discardWhere (s : State) (p : StepRec → Bool) (cause : Nat) : State :=
  ((s.openSteps.filter p).foldl (fun t r => t.discardStep r cause) s).settleCuts

/-- Discard every unfixed step, with the cause of the rollback that the module stands in. -/
def State.discardAll (s : State) : State :=
  s.discardWhere (fun _ => true) (match s.steps.rollback with
    | none => 0
    | some b => b.cause)

/-- A rollback is over for the module: an open RUN_STEPS handle gets its final record (R452). -/
def State.leaveRollback (s : State) : State := { s with steps := { s.steps with rollback := none } }.finalRecord

/- Contexts. -/

/-- A context stops under ABANDON (R400): its control core stops and its queues empty. -/
def Ctx.abandon (c : Ctx) : Ctx :=
  { c with running := false, stopped := true, queues := [], taken := [], chains := [], stall := .none }

/-- The contexts of a core that run a step in `p`, or have stopped in one, stop, and the bundle engine issues no further bundle of theirs;
what it has issued lands, and their filled buffers are freed (R400). -/
def Core.abandon (c : Core) (p : Nat → Bool) : Core :=
  let hit := fun (k : Ctx) => (k.running || k.stopped) && p k.step
  { c with ctxs := c.ctxs.map (fun k => if hit k then k.abandon else k),
           group := c.group.map (fun g => if hit (c.ctx g.ctx) then { g with trapped := true } else g),
           nextGroup := c.nextGroup.filter (fun g => !hit (c.ctx g.ctx)) }

/-- Every context that runs or has stopped in a step of p stops, on the cores whose CORE_STATE satisfies q. -/
def State.stopContexts (s : State) (q : Nat → Bool) (p : Nat → Bool) : State :=
  { s with cores := s.cores.map (fun e => if q (s.coreState e.1) then (e.1, e.2.abandon p) else e)
           mem := { s.mem with held := s.mem.held.filter (fun h => !h.who.any (fun w => q (s.coreState w.1))) } }

/-- ABANDON(n) to the whole image for the RUNNING steps n of p (R244, R400). -/
def State.abandon (s : State) (p : Nat → Bool) : State :=
  let go := fun (t : State) (r : StepRec) => t.driveVat 0 (.abandon r.n) (fun t => t.stopContexts (fun st => decide (st = csActive))
    (fun n => decide (n = r.n)))
  (s.steps.list.filter (fun r => decide (r.st = .running) && p r.n)).foldl go s

/-- The partner's endpoint records (R288): CREDITS of a sink, by endpoint number. -/
def State.endpointOf (s : State) (e : Nat) : Option (BitVec 128) :=
  (SMap.get default kExpansion s.joins).endpoints.find? (fun r => decide (bits r.toNat 0 8 = e))

/-- CREDITS of a stream's book: the endpoint's for a stream toward the partner (R289). -/
def State.bookCredits (s : State) (d : StreamD) : Nat :=
  if d.dst.toNat / 2 ^ 28 = 2 then match s.endpointOf (bits d.dst.toNat 0 8) with
    | none => d.credits
    | some r => bits r.toNat 16 8
  else d.credits

/-- The die between the dies of a stream that is in reset as its book is set, so that its route takes the other one (R279). -/
def State.detours (s : State) (d : StreamD) : Bool :=
  let die := fun (e : W32) => if e.toNat / 2 ^ 28 = 0 then some (lcoreDie (bits e.toNat 1 9)) else if e.toNat / 2 ^ 28 = 2 then some 0 else none
  match die d.src, die d.dst with
  | some a, some b => decide (a + b = 3) && !s.dieUp (if min a b = 0 then 1 else 0)
  | _, _ => false

/-- A book of a stream as R226 sets it, under its number or a replay's. -/
def State.newBook (s : State) (num : Nat) (d : StreamD) : Stream :=
  { num := num, credits := s.bookCredits d, flying := [], share := [], returning := 0, sentStep := 0, part := [], partPoison := false,
    again := [], detour := s.detours d }

/-- Books of the streams within a replayed segment (R350) are keyed by its step and vat, above every stream number. -/
def replayBook (n vat num : Nat) : Nat := (n * 2 ^ 32 + vat + 1) * 2 ^ 32 + num

/-- The credit books of every stream are set afresh (R226). -/
def State.resetStreams (s : State) : State :=
  match s.image with
  | none => s
  | some im => { s with streams := im.streams.map (fun d => s.newBook d.num d) ++
      (s.streams.filter (fun b => decide (2 ^ 32 ≤ b.num))) }

/-- The replay area of a replay: the granules it has written, keyed by its step and vat. -/
def replayArea (n vat : Nat) : Nat := n * 2 ^ 32 + vat

/-- A replay's stream books go, and what it wrote is freed (R356). -/
def State.dropBooks (s : State) (r : Replay) : State :=
  let a := replayArea r.n r.vat
  { s with streams := s.streams.filter (fun b => decide (b.num / 2 ^ 32 ≠ a + 1))
           mem := { s.mem with replayed := s.mem.replayed.filter (fun e => decide (e.1 ≠ a)) } }

/-- End the replays that satisfy p: their cores return to SPARE, and what they wrote is freed (R356). -/
def State.dropReplays (s : State) (p : Replay → Bool) : State :=
  let gone := s.ledger.queue.filter p
  let ps := (gone.filter (fun r => r.running)).flatMap (fun r => r.cores.map (fun c => c.2))
  let s := gone.foldl State.dropBooks { s with ledger := { s.ledger with queue := s.ledger.queue.filter (fun r => !p r) } }
  ps.foldl (fun t q => (((t.setCore q Core.empty).setCoreState q csSpare).put (kCore q 2) 0xFFFF).put (kCore q 4) 0) s

/- The rollback (R36, R414-R416). -/

/-- What this module's own part of the STOP_REPORT aggregate says (R415): LAST_FIXED and the three bits. -/
def State.ownReport (s : State) (b : Rollback) : Nat × Nat :=
  let bit0 := b.cannotReach || s.steps.lost || (match b.target with
    | none => false
    | some t => decide (s.lastFixed < t))
  let bit1 := !(decide (s.mstate = .stopped) && s.levelC)
  let bit2 := decide (s.o kAutoResume = 0) || b.noResume
  (s.lastFixed, (if bit0 then 1 else 0) + (if bit1 then 2 else 0) + (if bit2 then 4 else 0))

/-- The aggregate over the children (R415); none while one has not reported. -/
def aggregate (reports : SMap (Nat × Nat)) (own : Nat × Nat) : List Nat → Option (Nat × Nat)
  | [] => some own
  | c :: t => if SMap.has c reports then
      let r := SMap.get (0, 0) c reports
      aggregate reports (min own.1 r.1, own.2 ||| r.2) t
    else none

/-- Local work of the module stands out: an active core is under proving, or a logical number is being moved (R40, R405). -/
def State.localWork (s : State) : Bool := s.proving.active.any (fun e => decide (e.2 = csActive)) || !s.proving.remap.isEmpty

/-- Leave the rollback and run on from its target (R35). -/
def State.resume (s : State) : State :=
  match s.steps.rollback with
  | none => s
  | some _ =>
    let s := { s with steps := { s.steps with rollback := none, childStop := [], resumeSent := false } }
    if s.mstate = .stopped ∧ s.image.isSome then (s.setM .running).issue else s

/-- A proving of core p begins from its state (R403): the core is reset (R408). -/
def State.beginProving (s : State) (p : Nat) : State :=
  let from_ := s.coreState p
  let s := ((s.setCoreState p csProving).setCore p Core.empty).put (kCore p 4) 0
  { s with proving := { s.proving with
      active := s.proving.active ++ [(p, from_)], due := delSet p s.proving.due, marked := delSet p s.proving.marked } }

/-- The cores marked by the halt's causes are proved before STOPPED is reported (R40, R416): they enter PROVING in RECOVERING. A marked core whose
replay the halt has ended is a SPARE, and its proving holds nothing up. -/
def State.proveMarked (s : State) : State :=
  let mine := fun (st : Nat) => s.proving.marked.filter (fun p => decide (s.coreState p = st))
  let s' := (mine csActive ++ mine csSpare).foldl State.beginProving { s with proving := { s.proving with marked := [] } }
  if mine csActive = [] then s' else s'.setM .recovering

/-- On TARGET (R416): fix the ready steps up to T, discard every unfixed step above it, prove the marked cores, enter STOPPED. Reports
start anew, and readiness is counted from T (log 11). -/
def State.onTarget (s : State) (t bad : Nat) : State :=
  match s.steps.rollback with
  | none => s
  | some b =>
    if b.target.isSome then s else
    let s := (s.put 0x504205 t).fixGo t s.steps.list.length
    let s := s.discardWhere (fun r => decide (t < r.n)) b.cause
    let held := decide (s.o kAutoResume = 1) && !b.noResume && decide (bad = 0)
    let s := { s with steps := { s.steps with
      rollback := some { b with target := some t, held := held, sent := none, cannotReach := b.cannotReach || decide (bad = 1) },
      childStop := [], childReady := [], sentReady := t, ownReady := t } }
    let s := if s.mstate = .stopping then s.checkStop
             else if s.mstate = .stopped ∧ !held then s.finalRecord.declareStopped else s
    if s.mstate = .stopped ∨ s.mstate = .stopping then s.proveMarked else s

/-- Report up the tree once quiesced and every child has reported; at the root, decide TARGET and then RESUME (R415, R416); the time that the
decision took, in DECISION_US, is free. The fuel
lets the root's own TARGET lead on to its RESUME. -/
def State.reportGo (s : State) : Nat → State
  | 0 => s
  | k + 1 =>
    match s.steps.rollback with
    | none => s
    | some b =>
      if !b.quiesced || s.localWork then s else
      match aggregate s.steps.childStop (s.ownReport b) s.children with
      | none => s
      | some a =>
        if !s.isRoot then
          if b.sent = some a then s
          else { s with steps := { s.steps with rollback := some { b with sent := some a } } }.sendParent 0xF004 a.1 a.2 0
        else match b.target with
          | none =>
            let (v, s) := s.draw
            let s := s.put 0x504207 (v.toNat % 2 ^ 32)
            ((s.flood 0xF007 (s.o kLastGranted) (a.2 % 2) 0).onTarget (s.o kLastGranted) (a.2 % 2)).reportGo k
          | some t =>
            if !s.steps.resumeSent ∧ a.1 = t ∧ a.2 = 0 then
              ({ s with steps := { s.steps with resumeSent := true } }.flood 0xF005 t 0 0).resume
            else s

def State.report (s : State) : State := s.reportGo 3

/-- Record a cause and its origin (R422): the first sixteen, as entry words cause, origin × 2^16, MSG_ID × 2^32. -/
def State.logCause (s : State) (cause origin msgId : Nat) : State :=
  if s.image.isSome ∧ s.causeLog.length < 16 then
    { s with causeLog := s.causeLog ++ [cause + origin * 2 ^ 16 + msgId * 2 ^ 32] } else s

/-- Put cores among those that a halt's causes mark (R40, R399). -/
def State.markCores (s : State) (ps : List Nat) : State :=
  { s with proving := { s.proving with marked := ps.foldl (fun l p => insSet p l) s.proving.marked } }

/-- A local recovery ends in a halt: the core of its incident, where it has not been proved, and those of the suspects not yet judged are
proved in RECOVERING (R40). -/
def State.leaveRecovery (s : State) : State :=
  match s.ledger.recovery with
  | none => s
  | some rc =>
    let own := match rc.incident with
      | none => []
      | some i => if rc.proved then [] else [i.p]
    { s.markCores (own ++ rc.suspects.map (fun e => e.1)) with ledger := { s.ledger with recovery := none } }

/-- What a halt stops (R36, R414): RUNNING and CHECKING steps are abandoned, and every unfixed step from
the first unready one on is discarded (R22). -/
def State.haltSteps (s : State) (cause : Nat) : State :=
  let s := (s.abandon (fun _ => true)).stopContexts (fun st => decide (st = csActive)) (fun _ => true)
  let s := s.dropReplays (fun _ => true)
  let keep := s.readyTo
  let s := s.discardWhere (fun r => decide (keep < r.n)) cause
  s.leaveRecovery.resetStreams

/-- A core, die or hub reset is in progress. -/
def State.resetting (s : State) : Bool := !s.power.dieReset.isEmpty || !s.jobs.reset.isEmpty

/-- The rollback of a halt that found the module with `before` its highest ready report (R415). -/
def State.newRollback (s : State) (cause before : Nat) (noResume : Bool) : Rollback :=
  { quiesced := false, target := none, cannotReach := decide (s.readyTo < before), noResume := noResume,
    held := decide (s.o kAutoResume = 1) && !noResume, sent := none, cause := cause }

/-- Begin a rollback. -/
def State.setRollback (s : State) (b : Rollback) : State :=
  { s with steps := { s.steps with rollback := some b, childStop := [], childReady := [], resumeSent := false } }

/-- A later wave joins the rollback (R40); a stop that is pending joins its reports (R33), and a cut not yet granted fails (R374). -/
def State.mergeHalt (s : State) (b : Rollback) : State :=
  let b := { b with noResume := b.noResume || s.steps.stopPending }
  ({ s with steps := { s.steps with rollback := some b } } : State).cutOnHalt.report

/-- From RUNNING or RECOVERING to STOPPING (R32, R414); a reset or a restore in progress runs its course. -/
def State.haltState (s : State) : State :=
  if s.mstate = .running ∨ (s.mstate = .recovering ∧ ¬ s.resetting ∧ s.ckpt.restore = none) then s.setM .stopping else s

/-- The first receipt of a halt wave (R414). -/
def State.firstHalt (s : State) (cause : Nat) : State :=
  let noResume := s.steps.stopPending || decide (s.mstate = .stopped ∨ s.mstate = .ready)
  let before := s.steps.ownReady
  let t := s.cutOnHalt.haltSteps cause
  ((t.setRollback (t.newRollback cause before noResume)).haltState).checkStop

/-- Take part in a halt wave (R414): its first receipt starts the rollback, a later one merges into it (R40). -/
def State.haltActs (s : State) (cause origin msgId : Nat) : State :=
  let s := (((s.put 0x504203 cause).put 0x504204 origin).logCause cause origin msgId).raise 0x0102 cause origin
  match s.steps.rollback with
  | some b => s.mergeHalt b
  | none => s.firstHalt cause

/-- The module would originate a halt wave in external fault manager mode (R418): it stops alone, once its ready steps are fixed. -/
def State.stopAlone (s : State) (cause : Nat) : State :=
  let s := s.cutOnHalt.haltSteps cause
  let s := s.fixGo (2 ^ 64) s.steps.list.length
  let s := if s.mstate ∈ [MState.running, .stopping, .recovering] then (s.setM .stopping).checkStop else s
  s.raise 0x0103 cause 0

/-- Originate a halt wave (R413, R414), or stop alone (R418). While the hub is in reset no message goes and no ABANDON reaches a vat: the cause
is held until it returns (R412; log 126). -/
def State.haltWave (s : State) (cause : Nat) : State :=
  if !s.hubUp then { s with steps := { s.steps with heldHalts := s.steps.heldHalts.filter (fun c => decide (c ≠ cause)) ++ [cause] } }
  else if s.o kDecisionMode = 1 then s.stopAlone cause
  else
    let id := s.steps.msgId
    ((s.flood 0xF001 s.lastFixed cause 0).bump64 0x504202 1).haltActs cause s.coord id

/- Grants (R27, R28, R374). -/

/-- LAST_GRANTED rises. -/
def State.granted (s : State) (g : Nat) : State := if s.o kLastGranted < g then s.put kLastGranted g else s

/-- The highest step that has been started in a run that stands; none above LAST_FIXED where every run above it was discarded. -/
def State.lastStarted (s : State) : Nat :=
  s.steps.list.foldl (fun m r => if r.started && decide (r.st ≠ .discarded) then max m r.n else m) s.lastFixed

/-- The count has run out once step E has been started (R32, R33; log 10). -/
def State.checkEnd (s : State) : State :=
  match s.steps.runEnd with
  | none => s
  | some e => if s.mstate = .running ∧ e ≤ s.lastStarted then s.pendStop.setM .stopping else s

/-- Fix what the grants cover, or in external mode what is ready; then issue on, and stop where the run is done (R28). -/
def State.settleFix (s : State) : State :=
  let g := if s.o kDecisionMode = 1 then 2 ^ 64 else s.o kLastGranted
  (((s.fixGo g s.steps.list.length).issue).checkEnd).checkStop

/-- A pin may have gone that held a fix back: fix on, and report what that brings in a rollback. -/
def State.settleHeld (s : State) : State := if s.historyMib = 0 then s else s.settleFix.report

/-- Act on a grant for n: fix what it covers, and take its cut (R28, R375). -/
def State.onGrant (s : State) (n word value : Nat) : State :=
  let s := if Nat.testBit word 0 then s.takeCut n value else s
  (if s.o kDecisionMode = 1 then s else (s.granted n).settleFix).settleCuts

/-- The least ready value of the subtree (R27, R317): children's latest, a child not heard counting 0. -/
def State.readyAggregate (s : State) : Nat :=
  s.children.foldl (fun m c => min m (SMap.get 0 c s.steps.childReady)) s.steps.ownReady

/-- Report readiness (R27): up the tree when the aggregate rises; the root issues GRANT, carrying a cut that waits (R374). -/
def State.sendReady (s : State) : State :=
  if s.o kDecisionMode = 1 ∨ s.steps.rollback.isSome then s.settleFix else
  let s := { s with steps := { s.steps with ownReady := max s.steps.ownReady s.readyTo } }
  let a := s.readyAggregate
  if s.isRoot then
    if s.o kLastGranted < a then
      let word := if s.declarable then 1 else 0
      let value := if s.declarable then s.o kCutSlot else 0
      ((s.put kLastGranted a).flood 0xF003 a word value).onGrant a word value
    else s.settleFix
  else
    let s := if s.steps.sentReady < a then
      { s with steps := { s.steps with sentReady := a } }.sendParent 0xF002 a 0 0 else s
    s.settleFix

end Sys2Proof.Machine
end

