-- ==== Sys2Proof/Machine/Bind.lean ====
section
/-! DEFINITION. Vats and segments (R242-R246), binding contexts onto cores (R239, R240, R260, R263), the restart of a context (R51), and
the segment digest (R345-R348). -/

namespace Sys2Proof.Machine

/- Vats. -/

def State.vats (s : State) : List Vat := match s.image with
  | none => []
  | some im => im.vats

def State.binds (s : State) : List Bind := match s.image with
  | none => []
  | some im => im.binds

def State.vat? (s : State) (v : Nat) : Option Vat := s.vats.find? (fun e => decide (e.num = v))

/-- v is a or lies beneath it; fuel bounds the depth, a parent having a lower number (R243). -/
def State.under (s : State) (a : Nat) : Nat → Nat → Bool
  | 0, v => decide (v = a)
  | k + 1, v => decide (v = a) || match s.vat? v with
    | none => false
    | some e => if e.parent < v then s.under a k e.parent else false

def State.beneath (s : State) (v a : Nat) : Bool := s.under a 1024 v

/-- A leaf vat has contexts bound to it (R243). -/
def State.isLeaf (s : State) (v : Nat) : Bool := s.binds.any (fun b => decide (b.vat = v))

/-- The segments in ascending vat number (R245). -/
def State.segments (s : State) : List Nat :=
  let g := (s.vats.filter (fun v => v.segment)).map (fun v => v.num)
  if g = [] then ((s.vats.filter (fun v => s.isLeaf v.num)).map (fun v => v.num)) else g

/-- The segment of a vat (R245). -/
def State.segmentOf (s : State) (v : Nat) : Option Nat := s.segments.find? (fun g => s.beneath v g)

/-- Bindings beneath a vat. -/
def State.bindsOf (s : State) (v : Nat) : List Bind := s.binds.filter (fun b => s.beneath b.vat v)

/-- Logical cores of a vat, ascending (R243). -/
def State.coresOf (s : State) (v : Nat) : List Nat := (s.bindsOf v).foldl (fun l b => insSet b.lcore l) []

/-- The segment that holds a logical core. -/
def State.segmentOfCore (s : State) (l : Nat) : Option Nat :=
  match s.binds.find? (fun b => decide (b.lcore = l)) with
  | none => none
  | some b => s.segmentOf b.vat

/- Image bytes, read from the image area (R431). -/

def State.imageBytes (s : State) (o n : Nat) : List Byte := s.hbmBytes (s.imageArea + o) n

/-- Offset of the section of a type (R238). -/
def Image.sectionAt (im : Image) (ty : Nat) : Nat := match im.sections.find? (fun e => decide (e.1 = ty)) with
  | none => 0
  | some e => e.2.1

/- Restart (R51). -/

/-- mix64 (R116, R347). -/
def mix64 (x : W64) : W64 :=
  let x := (x ^^^ (x >>> 30)) * 0xBF58476D1CE4E5B9#64
  let x := (x ^^^ (x >>> 27)) * 0x94D049BB133111EB#64
  x ^^^ (x >>> 31)

/-- absorb (R347). -/
def absorb (l : W64 × W64) (w : W64) : W64 × W64 :=
  let a := mix64 (l.1 ^^^ w)
  (a, mix64 (l.2 + a))

/-- The three digest lanes at the start of a step (R347). -/
def startLanes (n l x : Nat) : List (W64 × W64) :=
  (List.range 3).map (fun k => (BitVec.ofNat 64 n, BitVec.ofNat 64 (16 * l + 4 * x + k)))

/-- Banks that a binding owns: array × 2 + bank (R239). -/
def Bind.owns (b : Bind) (k : Nat) : Bool := b.own.getD k false

/-- A context starts step n afresh (R51): registers, counters and vector registers clear, its data partition holds its image contents,
it stands at its entry point, and its lanes start. -/
def Ctx.restart (c : Ctx) (n : Nat) (x : Nat) : Ctx :=
  { c with g := [], pc := BitVec.ofNat 32 (4 * (c.bind.codeBase + c.bind.entry)), sc := [], v := [], vPoison := [], queues := [],
           taken := [], chains := [], stall := .none, stopped := false, running := true, step := n, live := 0, pushed := [], executed := 0,
           lanes := startLanes n c.bind.lcore x, slices := 0 }

/-- Restart context x of a core for step n (R51): with it, the banks it owns and, for the owner of the row engine, the mordant slots
clear (R94, R164), and a group of its earlier run leaves the engine and its buffers. -/
def Core.restart (c : Core) (x n : Nat) : Core :=
  let k := c.ctx x
  if !k.bound then c else
  let base := 4 * k.bind.dmemBase
  let c := c.setCtx x (k.restart n x)
  let c := { c with
    dmem := k.dmemInit.foldl (fun m e => Memory.setByte m e.1 e.2) (Memory.clear c.dmem base (4 * k.bind.dmemLen)),
    dmemPoison := k.dmemHits.foldl (fun l a => insSet a l) (poisonWrite c.dmemPoison base (4 * k.bind.dmemLen) false),
    banks := (List.range 4).map (fun j => if k.bind.owns j then Bank.empty else c.banks.getD j Bank.empty),
    mordant := if k.bind.owns 4 then [] else c.mordant,
    flight := c.flight.filter (fun f => decide (f.ctx ≠ x)),
    group := c.group.filter (fun g => decide (g.ctx ≠ x)),
    issued := if c.group.any (fun g => decide (g.ctx = x)) then [] else c.issued,
    nextGroup := c.nextGroup.filter (fun g => decide (g.ctx ≠ x)), turn := none }
  c

/-- RUN(n) at a core: every context of it that satisfies p restarts; the cast maxima of its step clear (R215, R244), and k is the swatch
sampling of the step (R339). -/
def Core.run (c : Core) (p : Bind → Bool) (n : Nat) (k : Option Nat) : Core :=
  (List.range 4).foldl (fun c x => if (c.ctx x).bound && p (c.ctx x).bind then c.restart x n else c)
    { c with castMax := [], swatchK := k }

/- Binding (R260 step 4, R263, R350). -/

/-- The bytes at `dest` that are loaded from n image bytes at offset o with a parity hit (R197). -/
def State.imageHits (s : State) (o n dest : Nat) : List Nat :=
  let a := s.imageArea + o
  ((List.range ((a + n + 63) / 64 - a / 64)).filter (fun k => s.hbmLineHit (a / 64 + k))).flatMap (fun k =>
    ((List.range 64).map (fun i => 64 * (a / 64 + k) + i)).filterMap (fun b => if a ≤ b ∧ b < a + n then some (dest + (b - a)) else none))

/-- The context of one binding record, loaded from the image. -/
def State.bindCtx (s : State) (im : Image) (b : Bind) : Ctx :=
  let o := im.sectionAt 2 + b.dmemOffset
  { Ctx.empty with bound := true, bind := b, ranges := (im.ranges.drop b.rangeFirst).take b.rangeCount,
                   dmemInit := Memory.write [] (4 * b.dmemBase) (s.imageBytes o (4 * b.dmemLen)),
                   dmemHits := s.imageHits o (4 * b.dmemLen) (4 * b.dmemBase) }

/-- Load one binding into a core: code, data partition and STATIC ranges; its other ranges are zero already. Bytes of the image that hit
are loaded with inverted parity (R197). -/
def State.loadBind (s : State) (im : Image) (c : Core) (b : Bind) : Core :=
  let k := s.bindCtx im b
  let o := im.sectionAt 1 + b.codeOffset
  let static := k.ranges.filter (fun r => decide (r.kind = 2))
  let cs := static.foldl (fun m r => Memory.write m r.start (s.imageBytes (im.sectionAt 2 + r.initOffset) r.length)) c.cs
  let marks := static.foldl (fun l r => (s.imageHits (im.sectionAt 2 + r.initOffset) r.length r.start).foldl
    (fun l a => poisonWrite l a 1 true) l) c.csPoison
  { c.setCtx b.ctx k with imem := Memory.write c.imem (4 * b.codeBase) (s.imageBytes o (4 * b.codeLen)),
                          imemPoison := (s.imageHits o (4 * b.codeLen) (4 * b.codeBase)).foldl (fun l a => insSet a l) c.imemPoison,
                          cs := cs, csPoison := marks,
                          dmem := k.dmemInit.foldl (fun m e => Memory.setByte m e.1 e.2) c.dmem,
                          dmemPoison := k.dmemHits.foldl (fun l a => insSet a l) c.dmemPoison }

/-- Bind physical core p to logical core l, with the bindings that satisfy q (R260, R350). -/
def State.bindCore (s : State) (p l : Nat) (q : Bind → Bool) : State :=
  match s.image with
  | none => s
  | some im =>
    let bs := im.binds.filter (fun b => decide (b.lcore = l) && q b)
    let c := bs.foldl (fun c b => s.loadBind im c b) { Core.empty with cycle := (s.core p).cycle }
    let s := s.setCore p c
    (s.put (kCore p 2) l).put (kCore p 4) (bs.foldl (fun m b => m ||| 2 ^ b.ctx) 0)

/-- Take every context off a core; its event counters stay (R76). -/
def State.clearCore (s : State) (p : Nat) : State :=
  ((s.setCore p Core.empty).put (kCore p 2) 0xFFFF).put (kCore p 4) 0

/-- The physical cores of the image's logical cores. -/
def State.activeCores (s : State) : List (Nat × Nat) :=
  (List.range s.imageLcores).filterMap (fun l => (s.lcore? l).map (fun p => (l, p)))

/-- RUN(n) to a vat, whose contexts stand on cores given as (logical, physical) (R244, R51); k is the swatch sampling of the step. -/
def State.runVat (s : State) (v n : Nat) (k : Option Nat) (cores : List (Nat × Nat)) : State :=
  s.driveVat v (.run n) (fun s => cores.foldl (fun t e => t.setCore e.2 ((t.core e.2).run (fun b => decide (s.vatHead b.vat = some (.run n))) n k)) s)

/-- RUN(n) to the whole image, at its root (R243). -/
def State.runAll (s : State) (n : Nat) : State := s.runVat 0 n (some (s.o 0x602000)) s.activeCores

/- Tokens and digests. -/

/-- A context has returned its token for step n. -/
def Ctx.returned (c : Ctx) (n : Nat) : Bool := c.bound && !c.running && !c.stopped && decide (c.step = n)

/-- Every context of the cores in ps that is bound to a vat beneath v has returned its token for n. -/
def State.allReturned (s : State) (ps : List Nat) (v n : Nat) : Bool :=
  ps.all (fun p => (s.core p).ctxs.all (fun c => !(c.bound && s.beneath c.bind.vat v) || c.returned n))

/-- The digest of a segment over cores given as (logical, physical), ascending (R348). -/
def State.digest (s : State) (n seg : Nat) (cores : List (Nat × Nat)) : W64 × W64 :=
  let d := cores.foldl (fun d e =>
    ((s.core e.2).ctxs.filter (fun c => c.bound && s.beneath c.bind.vat seg)).foldl
      (fun d c => c.lanes.foldl (fun d l => absorb (absorb d l.1) l.2) d) d) (BitVec.ofNat 64 n, BitVec.ofNat 64 seg)
  let hs := match s.image with
    | none => []
    | some im => im.histories
  hs.foldl (fun d h => cores.foldl (fun d e =>
    if SMap.has h.tensor (s.core e.2).castMax then
      absorb d (BitVec.ofNat 64 (h.tensor * 2 ^ 32 + (SMap.get 0 h.tensor (s.core e.2).castMax).toNat))
    else d) d) d

/-- The largest FP32 maxima of a segment's cores, merged into those of its step (R121, R215). -/
def State.mergeMaxima (s : State) (cores : List (Nat × Nat)) (m : SMap W32) : SMap W32 :=
  cores.foldl (fun m e => (s.core e.2).castMax.foldl (fun m t =>
    if SMap.has t.1 m ∧ t.2.toNat ≤ (SMap.get 0 t.1 m).toNat then m else SMap.ins t.1 t.2 m) m) m

end Sys2Proof.Machine
end

