-- ==== Sys2Proof/Machine/Num.lean ====
section
/-! DEFINITION. The eleven number formats (R103-R109), exact values, rounding in the four directions and by draw (R86, R115, R135),
and the casts with their flags and counts (R110-R114, R136). -/

namespace Sys2Proof.Machine

/-- An exact value: NaN (signalling or not), an infinity, or (-1)^neg × m × 2^e. -/
inductive Num where
  | nan (sig : Bool)
  | inf (neg : Bool)
  | fin (neg : Bool) (m : Nat) (e : Int)
  deriving DecidableEq, Repr, Inhabited

/-- A format (R103): total bits, exponent bits, mantissa bits, bias, infinity, NaN (0 none, 1 the all-ones code only, 2 as
IEEE), and integer. -/
structure Fmt where
  size : Nat
  ebits : Nat
  mbits : Nat
  bias : Nat
  hasInf : Bool
  nanKind : Nat
  integer : Bool
  deriving DecidableEq, Repr

/-- The formats by code; a code above 0xA is reserved and reads as INT4 here, where no check lets it through. -/
def fmtOf : Nat → Fmt
  | 0 => ⟨64, 11, 52, 1023, true, 2, false⟩
  | 1 => ⟨32, 8, 23, 127, true, 2, false⟩
  | 2 => ⟨16, 5, 10, 15, true, 2, false⟩
  | 3 => ⟨16, 8, 7, 127, true, 2, false⟩
  | 4 => ⟨8, 4, 3, 7, false, 1, false⟩
  | 5 => ⟨8, 5, 2, 15, true, 2, false⟩
  | 6 => ⟨6, 3, 2, 3, false, 0, false⟩
  | 7 => ⟨6, 2, 3, 1, false, 0, false⟩
  | 8 => ⟨4, 2, 1, 1, false, 0, false⟩
  | 9 => ⟨8, 0, 7, 0, false, 0, true⟩
  | _ => ⟨4, 0, 3, 0, false, 0, true⟩

/-- Format codes by name. -/
def fFP64 : Nat := 0
def fFP32 : Nat := 1
def fFP16 : Nat := 2
def fBF16 : Nat := 3
def fE4M3 : Nat := 4
def fE5M2 : Nat := 5
def fINT8 : Nat := 9
def fINT4 : Nat := 10

/-- Codes 0x0-0x3, which a vector register holds in their own lanes (R113). -/
def fmtIeee (c : Nat) : Bool := decide (c < 4)
def fmtReserved (c : Nat) : Bool := decide (10 < c)

/-- Exponent of the smallest subnormal. -/
def Fmt.emin (f : Fmt) : Int := 1 - (f.bias : Int) - (f.mbits : Int)

/-- The value of a code (R104, R105: bits above the format's are ignored). -/
def Fmt.decode (f : Fmt) (code : Nat) : Num :=
  let s := Nat.testBit code (f.size - 1)
  if f.integer then
    let v := signed f.size code
    .fin (decide (v < 0)) v.natAbs 0
  else
    let e := bits code f.mbits f.ebits
    let m := bits code 0 f.mbits
    if f.nanKind = 2 ∧ e = 2 ^ f.ebits - 1 then
      if m = 0 then .inf s else .nan (!Nat.testBit m (f.mbits - 1))
    else if f.nanKind = 1 ∧ e = 2 ^ f.ebits - 1 ∧ m = 2 ^ f.mbits - 1 then .nan false
    else if e = 0 then .fin s m f.emin
    else .fin s (2 ^ f.mbits + m) ((e : Int) - f.bias - f.mbits)

def decode (fmt code : Nat) : Num := (fmtOf fmt).decode code

/-- The largest finite magnitude (R103), as (m, e). -/
def Fmt.max (f : Fmt) : Nat × Int :=
  if f.integer then (2 ^ f.mbits - 1, 0)
  else if f.nanKind = 2 then (2 ^ (f.mbits + 1) - 1, (2 ^ f.ebits : Nat) - 2 - (f.bias : Int) - f.mbits)
  else (2 ^ (f.mbits + 1) - 1 - f.nanKind, (2 ^ f.ebits : Nat) - 1 - (f.bias : Int) - f.mbits)

/-- The canonical NaN (R109). -/
def Fmt.nanCode (f : Fmt) : Nat :=
  if f.nanKind = 1 then 2 ^ (f.size - 1) - 1 else (2 ^ (f.ebits + 1) - 1) * 2 ^ (f.mbits - 1)

def Fmt.signBit (f : Fmt) (neg : Bool) : Nat := if neg then 2 ^ (f.size - 1) else 0

def Fmt.infCode (f : Fmt) (neg : Bool) : Nat := f.signBit neg + (2 ^ f.ebits - 1) * 2 ^ f.mbits

/- Comparison of magnitudes m × 2^e. -/

/-- Exponent of the leading bit of m × 2^e, m not 0. -/
def magLog (m : Nat) (e : Int) : Int := (Nat.log2 m : Int) + e

/-- a × 2^ea < b × 2^eb; the leading bits decide first. -/
def magLt (a : Nat) (ea : Int) (b : Nat) (eb : Int) : Bool :=
  if b = 0 then false
  else if a = 0 then true
  else if magLog a ea < magLog b eb then true
  else if magLog b eb < magLog a ea then false
  else if ea ≤ eb then decide (a < b <<< (eb - ea).toNat) else decide (a <<< (ea - eb).toNat < b)

/-- a < b in the order −∞ < negative < −0 < +0 < positive < +∞ (R95); false when either is NaN. -/
def Num.less : Num → Num → Bool
  | .nan _, _ => false
  | _, .nan _ => false
  | .inf s, .inf t => s && !t
  | .inf s, .fin _ _ _ => s
  | .fin _ _ _, .inf t => !t
  | .fin s a ea, .fin t b eb =>
    if s != t then s else if s then magLt b eb a ea else magLt a ea b eb

def Num.isNan : Num → Bool
  | .nan _ => true
  | _ => false

def Num.isSig : Num → Bool
  | .nan s => s
  | _ => false

def Num.isFin : Num → Bool
  | .fin _ _ _ => true
  | _ => false

def Num.isZero : Num → Bool
  | .fin _ m _ => decide (m = 0)
  | _ => false

def Num.negate : Num → Num
  | .nan s => .nan s
  | .inf s => .inf (!s)
  | .fin s m e => .fin (!s) m e

/-- Magnitudes are equal values. -/
def magEq (a : Nat) (ea : Int) (b : Nat) (eb : Int) : Bool := !magLt a ea b eb && !magLt b eb a ea

/-- Equal values, the sign of zero apart; no NaN equals anything. -/
def Num.same : Num → Num → Bool
  | .inf s, .inf t => s == t
  | .fin s a ea, .fin t b eb => (decide (a = 0) && decide (b = 0)) || ((s == t) && magEq a ea b eb)
  | _, _ => false

/- Rounding. -/

/-- The rounding choices: RND (R67), and the stochastic draw (R115). -/
inductive RMode where
  | rne | zero | up | down | draw (r : Nat)
  deriving DecidableEq, Repr

/-- RND codes (R67). -/
def rmode : Nat → RMode
  | 0 => .rne
  | 1 => .zero
  | 2 => .up
  | _ => .down

/-- Round m × 2^e to a multiple k × 2^q: k, and whether anything was lost. Far below the spacing only a direction away from zero
gives 1. -/
def roundAt (mode : RMode) (neg : Bool) (m : Nat) (e q : Int) : Nat × Bool :=
  if q ≤ e then (m <<< (e - q).toNat, false)
  else if m = 0 then (0, false)
  else
    let sh := (q - e).toNat
    if Nat.log2 m + 30 < sh then
      (match mode with
       | .up => if neg then 0 else 1
       | .down => if neg then 1 else 0
       | _ => 0, true)
    else
    let k := m >>> sh
    let r := m % 2 ^ sh
    if r = 0 then (k, false) else
    let up := match mode with
      | .rne => decide (2 ^ sh < 2 * r ∨ (2 * r = 2 ^ sh ∧ k % 2 = 1))
      | .zero => false
      | .up => !neg
      | .down => neg
      | .draw d => decide (d < (r <<< 24) >>> sh)
    (if up then k + 1 else k, true)

/-- The spacing of the format at a magnitude. -/
def Fmt.quantum (f : Fmt) (m : Nat) (e : Int) : Int :=
  if f.integer then 0 else Max.max (magLog m e - f.mbits) f.emin

/-- Round a magnitude to the format's spacing, with no upper limit: (k, q, inexact). -/
def Fmt.round (f : Fmt) (mode : RMode) (neg : Bool) (m : Nat) (e : Int) : Nat × Int × Bool :=
  if m = 0 then (0, f.emin, false) else
  let q := f.quantum m e
  let r := roundAt mode neg m e q
  (r.1, q, r.2)

/-- k × 2^q exceeds the largest finite magnitude. -/
def Fmt.over (f : Fmt) (k : Nat) (q : Int) : Bool := magLt f.max.1 f.max.2 k q

/-- The code of ±k × 2^q as Fmt.round leaves it, not beyond the largest finite magnitude. -/
def Fmt.pack (f : Fmt) (neg : Bool) (k : Nat) (q : Int) : Nat :=
  if f.integer then twos f.size (if neg then -(k : Int) else k)
  else if k = 0 then f.signBit neg
  else
    let c := decide (k = 2 ^ (f.mbits + 1))
    let k := if c then 2 ^ f.mbits else k
    let q := if c then q + 1 else q
    if k < 2 ^ f.mbits then f.signBit neg + k
    else f.signBit neg + (q + f.mbits + f.bias).toNat * 2 ^ f.mbits + (k - 2 ^ f.mbits)

/-- The code of the largest finite magnitude. -/
def Fmt.maxCode (f : Fmt) (neg : Bool) : Nat := f.pack neg f.max.1 f.max.2

/- IEEE flags (R142). -/
def flInvalid : Nat := 16
def flDivZero : Nat := 8
def flOverflow : Nat := 4
def flUnderflow : Nat := 2
def flInexact : Nat := 1

def flagIf (b : Bool) (f : Nat) : Nat := if b then f else 0

/-- m × 2^e is below the smallest normal magnitude. -/
def Fmt.below (f : Fmt) (m : Nat) (e : Int) : Bool := magLt m e 1 (1 - (f.bias : Int))

/-- Tiny after rounding, as if the exponent had no lower limit (R136). -/
def Fmt.tiny (f : Fmt) (mode : RMode) (neg : Bool) (m : Nat) (e : Int) : Bool :=
  let q := magLog m e - f.mbits
  f.below (roundAt mode neg m e q).1 q

/-- Overflow under a rounding direction gives infinity or the largest finite value (R135: IEEE 754-2019). -/
def Fmt.overflowCode (f : Fmt) (mode : RMode) (neg : Bool) : Nat :=
  let toInf := match mode with
    | .zero => false
    | .up => !neg
    | .down => neg
    | _ => true
  if toInf then f.infCode neg else f.maxCode neg

/-- The code of an exact value in an IEEE format under one rounding, and the flags it raises (R135, R136). -/
def Fmt.finish (f : Fmt) (mode : RMode) (x : Num) : Nat × Nat :=
  match x with
  | .nan _ => (f.nanCode, 0)
  | .inf s => (f.infCode s, 0)
  | .fin s m e =>
    let r := f.round mode s m e
    if f.over r.1 r.2.1 then (f.overflowCode mode s, flOverflow + flInexact)
    else (f.pack s r.1 r.2.1,
          flagIf r.2.2 flInexact + flagIf (r.2.2 && f.tiny mode s m e) flUnderflow)

/-- rn32 of an exact value (R86). -/
def rn32 (x : Num) : W32 := BitVec.ofNat 32 ((fmtOf 1).finish .rne x).1

/-- The value of a binary32 code. -/
def val32 (w : W32) : Num := (fmtOf 1).decode w.toNat

def nan32 : W32 := 0x7FC00000
def one32 : W32 := 0x3F800000

/- Exact arithmetic. -/

/-- Exact product; 0 × ∞ is NaN. -/
def Num.mul : Num → Num → Num
  | .nan _, _ => .nan false
  | _, .nan _ => .nan false
  | .inf s, .inf t => .inf (s != t)
  | .inf s, .fin t m _ => if m = 0 then .nan false else .inf (s != t)
  | .fin s m _, .inf t => if m = 0 then .nan false else .inf (s != t)
  | .fin s a ea, .fin t b eb => .fin (s != t) (a * b) (ea + eb)

/-- Signed integer of m × 2^e in units of 2^u, u at most e. -/
def sInt (s : Bool) (m : Nat) (e u : Int) : Int := let k : Int := ((m <<< (e - u).toNat : Nat) : Int); if s then -k else k

/-- Exact sum; ∞ − ∞ is NaN, and an exact zero of opposite signs is +0, or −0 under rounding toward −∞. -/
def Num.add (down : Bool) : Num → Num → Num
  | .nan _, _ => .nan false
  | _, .nan _ => .nan false
  | .inf s, .inf t => if s = t then .inf s else .nan false
  | .inf s, .fin _ _ _ => .inf s
  | .fin _ _ _, .inf t => .inf t
  | .fin s a ea, .fin t b eb =>
    if a = 0 ∧ b = 0 then .fin (if s = t then s else down) 0 0
    else
      let u := min ea eb
      let v := sInt s a ea u + sInt t b eb u
      if v = 0 then .fin down 0 0 else .fin (decide (v < 0)) v.natAbs u

/-- x × 2^k. -/
def Num.scale (k : Int) : Num → Num
  | .fin s m e => .fin s m (e + k)
  | x => x

/-- A quotient to more bits than any format keeps, the last a sticky bit; both finite, b not 0. -/
def divMag (a : Nat) (ea : Int) (b : Nat) (eb : Int) : Nat × Int :=
  let sh := 66 + Nat.log2 b - Nat.log2 a
  let n := a <<< sh
  (2 * (n / b) + (if n % b = 0 then 0 else 1), ea - eb - sh - 1)

/-- Quotient of values; 0/0 and ∞/∞ are NaN, and a finite non-zero value over zero is ∞. -/
def Num.div : Num → Num → Num
  | .nan _, _ => .nan false
  | _, .nan _ => .nan false
  | .inf _, .inf _ => .nan false
  | .inf s, .fin t _ _ => .inf (s != t)
  | .fin s _ _, .inf t => .fin (s != t) 0 0
  | .fin s a ea, .fin t b eb =>
    if b = 0 then (if a = 0 then .nan false else .inf (s != t))
    else if a = 0 then .fin (s != t) 0 0
    else let r := divMag a ea b eb; .fin (s != t) r.1 r.2

/-- Integer square root, bit by bit from bit k − 1. -/
def isqrt (n : Nat) : Nat → Nat → Nat
  | 0, r => r
  | k + 1, r => if (r + 2 ^ k) * (r + 2 ^ k) ≤ n then isqrt n k (r + 2 ^ k) else isqrt n k r

/-- Square root, to more bits than any format keeps with a sticky bit; −0 gives −0, a negative value NaN. -/
def Num.sqrt : Num → Num
  | .nan _ => .nan false
  | .inf s => if s then .nan false else .inf false
  | .fin s m e =>
    if m = 0 then .fin s 0 0 else if s then .nan false else
    let odd := e % 2 = 1
    let m := if odd then 2 * m else m
    let e := if odd then e - 1 else e
    let sh := (136 - Nat.log2 m) / 2
    let n := m <<< (2 * sh)
    let r := isqrt n 72 0
    .fin false (2 * r + (if r * r = n then 0 else 1)) (e / 2 - sh - 1)

/- binary32 steps under rn32 (R86). -/
def add32 (a b : W32) : W32 := rn32 (Num.add false (val32 a) (val32 b))
def sub32 (a b : W32) : W32 := rn32 (Num.add false (val32 a) (val32 b).negate)
def mul32 (a b : W32) : W32 := rn32 ((val32 a).mul (val32 b))
def div32 (a b : W32) : W32 := rn32 ((val32 a).div (val32 b))
def sqrt32 (a : W32) : W32 := rn32 (val32 a).sqrt
def fma32 (a b c : W32) : W32 := rn32 (Num.add false ((val32 a).mul (val32 b)) (val32 c))
def neg32 (a : W32) : W32 := a ^^^ 0x80000000

/-- The binary32 code of an integer, rounded. -/
def int32 (v : Int) : W32 := rn32 (.fin (decide (v < 0)) v.natAbs 0)

/- Casts (R110-R115). -/

/-- A cast's result: the code, the flags of R136, and what it counts (R111). -/
structure CastR where
  code : Nat
  flags : Nat
  nanLost : Nat
  saturated : Nat
  overInf : Nat
  deriving DecidableEq, Repr

/-- Flags of a cast of a finite value (R135, R136) to format f, with the exact value, the delivered code and whether it overflowed. -/
def castFlags (f : Fmt) (mode : RMode) (s : Bool) (m : Nat) (e : Int) (code : Nat) (inexact past : Bool) : Nat :=
  let y := f.decode code
  let differs := inexact || past
  if f.integer then flagIf past flInvalid
  else if f.nanKind = 2 ∧ f.size ≠ 8 then
    match mode with
    | .draw _ => flagIf differs flInexact + flagIf past flOverflow + flagIf (differs && f.below m e && decide (m ≠ 0)) flUnderflow
    | _ => (f.finish mode (.fin s m e)).2
  else
    let small := match y with
      | .fin _ k q => f.below k q
      | _ => false
    flagIf differs flInexact + flagIf past flOverflow + flagIf (differs && small) flUnderflow

/-- The code of a finite value beyond the largest finite one (R111). -/
def Fmt.clip (f : Fmt) (s : Bool) : Nat :=
  if f.integer then (if s then 2 ^ f.mbits else 2 ^ f.mbits - 1)
  else if f.nanKind = 2 ∧ f.size ≠ 8 then f.infCode s else f.maxCode s

/-- A rounded magnitude that does not fit: an integer format reaches one further below zero. -/
def Fmt.beyond (f : Fmt) (s : Bool) (k : Nat) (q : Int) : Bool :=
  if f.integer then decide ((if s then 2 ^ f.mbits else 2 ^ f.mbits - 1) < k) else f.over k q

/-- The cast of a value to a format (R110, R111, R136). -/
def castNum (fmt : Nat) (mode : RMode) (x : Num) : CastR :=
  let f := fmtOf fmt
  match x with
  | .nan sig =>
    if f.nanKind = 0 then ⟨0, flInvalid, 1, 0, 0⟩ else ⟨f.nanCode, flagIf sig flInvalid, 0, 0, 0⟩
  | .inf s =>
    if f.hasInf then ⟨f.infCode s, 0, 0, 0, 0⟩
    else if f.nanKind = 1 then ⟨f.nanCode, flInvalid, 0, 0, 0⟩
    else ⟨f.clip s, flInvalid, 0, 0, 0⟩
  | .fin s m e =>
    let r := f.round mode s m e
    let past := f.beyond s r.1 r.2.1
    let code := if past then f.clip s else f.pack s r.1 r.2.1
    let toInf := f.nanKind = 2 ∧ f.size ≠ 8
    ⟨code, castFlags f mode s m e code r.2.2 past, 0, if past ∧ ¬ toInf then 1 else 0, if past ∧ toInf then 1 else 0⟩

/-- The binary32 lane that holds the value of a code (R113). -/
def widen (fmt code : Nat) : W32 := rn32 (decode fmt code)

/-- mix of R116: the 24-bit draw for step n, tensor tn and element index i. -/
def draw (n tn i : W64) : Nat :=
  let x := n ^^^ (tn * 0x9E3779B97F4A7C15#64) ^^^ (i * 0xBF58476D1CE4E5B9#64)
  let x := (x ^^^ (x >>> 30)) * 0xBF58476D1CE4E5B9#64
  let x := (x ^^^ (x >>> 27)) * 0x94D049BB133111EB#64
  ((x ^^^ (x >>> 31)) >>> 40).toNat

/- Scaling (R119-R130). -/

/-- Significand of a is above that of b: both non-zero, in normal form. -/
def sigAbove (a b : Nat) : Bool := decide (b <<< Nat.log2 a < a <<< Nat.log2 b)

/-- choose_exponent (R120): the exponent, and whether it was clamped. -/
def chooseExponent (a m : W32) (fmt : Nat) : Int × Bool :=
  match val32 (mul32 a m) with
  | .fin _ t e =>
    if t = 0 then (0, false) else
    let (fm, fe) := (fmtOf fmt).max
    let x := magLog fm fe - magLog t e - (if sigAbove t fm then 1 else 0)
    if x < -63 then (-63, true) else if 63 < x then (63, true) else (x, false)
  | _ => (-63, false)

/-- 2^e as a binary32 code. -/
def pow32 (e : Int) : W32 := rn32 (.fin false 1 e)

/-- v = rn32(x × 2^e) (R119). -/
def scaled (x : Num) (e : Int) : W32 := rn32 (x.scale e)

/-- emax of an element format under block scaling (R128): the exponent of the largest normal binade. -/
def blockEmax (fmt : Nat) : Int := magLog (fmtOf fmt).max.1 (fmtOf fmt).max.2

/-- The largest magnitude of finite values. -/
def maxMag : List Num → Nat × Int
  | [] => (0, 0)
  | .fin _ m e :: t => let r := maxMag t; if magLt r.1 r.2 m e then (m, e) else r
  | _ :: t => maxMag t

/-- block_cast (R128, R129): the scale byte, and each element's cast; the rounding of element i is `mode i`. -/
def blockCast (fmt : Nat) (mode : Nat → RMode) (v : List Num) : Nat × List CastR :=
  if v.any (fun x => !x.isFin) then (0xFF, v.map (fun _ => ⟨0, 0, 0, 0, 0⟩))
  else
    let (m, e) := maxMag v
    let x : Int := if m = 0 then -127 else min 127 (max (-127) (magLog m e - blockEmax fmt))
    ((x + 127).toNat, (List.range v.length).map (fun i => castNum fmt (mode i) ((v.getD i (.fin false 0 0)).scale (-x))))

/- The remainder tensor (R131-R134). -/

/-- split_rem: the BF16 half and the 16-bit remainder. -/
def splitRem (w : W32) : Nat × Nat :=
  match val32 w with
  | .nan _ => (0x7FC0, 0)
  | .inf s => ((fmtOf 3).infCode s, 0)
  | .fin s m e =>
    if m = 0 then ((fmtOf 3).signBit s, 0) else
    let v : Int := if s then -(m : Int) else m
    let lo := v / 65536
    let d := v % 65536
    let h := if d < 32768 then lo else lo + 1
    let r := if d < 32768 then d else d - 65536
    let neg := if h = 0 then s else decide (h < 0)
    (((fmtOf 3).finish .rne (.fin neg h.natAbs (e + 16))).1, twos 16 r)

/-- join: the FP32 value of a pair. -/
def joinRem (h r : Nat) : W32 :=
  let rv := signed 16 r
  match decode 3 h with
  | .nan _ => nan32
  | x =>
    if rv = 0 then rn32 x else
    let (s, m, e) : Bool × Nat × Int := match x with
      | .fin s m e => (s, m, e)
      | .inf s => (s, 1, 128)
      | .nan _ => (false, 0, 0)
    let down := m = 2 ^ Nat.log2 m ∧ ((rv < 0) ↔ s = false)
    let ex := if m = 0 then -126 else max (-126) (magLog m e - (if down then 1 else 0))
    rn32 (Num.add false (.fin s m e) (.fin (decide (rv < 0)) rv.natAbs (ex - 23)))

end Sys2Proof.Machine
end

