-- ==== Sys2Proof/Machine/Operands.lean ====
section
/-! DEFINITION. The operand forms of the core: queue entries (R54, R66), bundles and their slots (R67), array and row descriptors
(R83, R156), and the timing of every operation (R69). -/

namespace Sys2Proof.Machine

/- Queue entries: the common header (R54). -/

/-- n bytes of an entry from byte o. -/
def entry (e : Line) (o n : Nat) : Nat := bits e.toNat (8 * o) (8 * n)
def entBudget (e : Line) : Nat := entry e 4 4
def entWaitVal (e : Line) : Nat := entry e 2 2
def entWaitCtr (e : Line) : Nat := bits e.toNat 12 4
def entWaitEn (e : Line) : Bool := e.getLsbD 11
def entSigCtr (e : Line) : Nat := bits e.toNat 7 4
def entSigEn (e : Line) : Bool := e.getLsbD 6

/-- A wait for v on a counter holding c (R55). -/
def scSatisfied (c v : Nat) : Bool := decide ((c + 65536 - v % 65536) % 65536 < 32768)

/-- The bytes of an entry from o to its end are zero: reserved. -/
def entZero (e : Line) (o n : Nat) : Bool := decide (entry e o n = 0)

/- The body of a queue-2 entry (R66). -/
def entGroupAddr (e : Line) : Nat := entry e 8 4
def entGroupCount (e : Line) : Nat := entry e 12 2 + 1
def entDescAddr (e : Line) : Nat := entry e 16 4
def entVbase (e : Line) : Nat := entry e 20 2

/-- Encoding faults of a queue-2 entry that its head check finds (R50, R66, R529), the ranges apart. -/
def groupEntryBad (e : Line) : Bool :=
  decide (entry e 12 2 ≥ 512) || !entZero e 14 2 || decide (entVbase e ≥ 16384) || !entZero e 22 42 ||
  decide (entGroupAddr e % 16 ≠ 0) || decide (entDescAddr e % 32 ≠ 0)

/- Bundles (R67). -/

abbrev Bundle := BitVec 128

def bnGap (b : Bundle) : Nat := bits b.toNat 120 8
def bnLast (b : Bundle) : Bool := b.getLsbD 119
def bnA (b : Bundle) : Nat := bits b.toNat 84 28
def bnB (b : Bundle) : Nat := bits b.toNat 56 28
def bnV (b : Bundle) : Nat := bits b.toNat 24 32
def bnW (b : Bundle) : Nat := bits b.toNat 0 24

def fin (n v : Nat) (h : 0 < n) : Fin n := ⟨v % n, Nat.mod_lt _ h⟩
def fin2 (v : Nat) : Fin 2 := fin 2 v (by decide)
def fin16 (v : Nat) : Fin 16 := fin 16 v (by decide)
def fin32 (v : Nat) : Fin 32 := fin 32 v (by decide)

/-- ACC (R67). -/
def accOf : Nat → Acc
  | 0 => .start
  | 1 => .continue_
  | 2 => .finish
  | _ => .whole

/-- The operation of an array slot; none for NOP and the reserved codes. -/
def arraySlot (arr : Fin 2) (w : Nat) : Option SlotOp :=
  let a : AArgs := { arr := arr, bank := fin2 (bits w 23 1), desc := fin16 (bits w 19 4), nslice := bits w 8 11 + 1,
                     acc := accOf (bits w 6 2) }
  match bits w 24 4 with
  | 1 => some (.array .mma a)
  | 2 => some (.array .max a)
  | 3 => some (.array .min a)
  | 4 => some (.drain arr a.bank a.desc)
  | _ => none

/-- A reserved encoding or non-zero reserved field of an array slot. -/
def arraySlotBad (w : Nat) : Bool :=
  let op := bits w 24 4
  decide (4 < op) || decide (bits w 0 6 ≠ 0) || (decide (op = 0) && decide (w ≠ 0)) ||
  (decide (op = 4) && decide (bits w 6 13 ≠ 0))

/-- The arithmetic vector codes (R67). -/
def vecArith (op : Nat) : Bool := decide (op ∈ [1, 2, 3, 4, 5, 6, 8, 9, 13])

/-- The operation of the vector slot; none for NOP and the reserved codes. -/
def vectorSlot (w : Nat) : Option SlotOp :=
  let op := bits w 26 6
  let vd := fin32 (bits w 21 5)
  if vecArith op then
    some (.vec op { vd := vd, va := fin32 (bits w 16 5), vb := fin32 (bits w 11 5), vc := fin32 (bits w 6 5),
                    width := BitVec.ofNat 2 (bits w 4 2), rnd := BitVec.ofNat 2 (bits w 2 2), half := Nat.testBit w 1 })
  else if op = 7 then
    some (.cast vd (fin32 (bits w 16 5)) (BitVec.ofNat 4 (bits w 12 4)) (BitVec.ofNat 4 (bits w 8 4)) (Nat.testBit w 7))
  else if op = 10 then some (.vload vd (BitVec.ofNat 14 (bits w 4 14)) (BitVec.ofNat 4 w))
  else if op = 11 then some (.vstore vd (BitVec.ofNat 14 (bits w 4 14)) (BitVec.ofNat 4 w))
  else if op = 12 then
    some (.vbank vd (fin2 (bits w 20 1)) (fin2 (bits w 19 1)) (fin 64 (bits w 13 6) (by decide)))
  else none

/-- A reserved encoding or non-zero reserved field of the vector slot (R67, R143); an UPDATE whose VC + 1 is no register is one. -/
def vectorSlotBad (w : Nat) : Bool :=
  let op := bits w 26 6
  decide (13 < op) || (decide (op = 0) && decide (w ≠ 0)) ||
  (vecArith op && (decide (bits w 4 2 = 3) || Nat.testBit w 0 || (Nat.testBit w 1 && decide (bits w 4 2 ≠ 2) && decide (op ≠ 13)))) ||
  (decide (op = 13) && decide (bits w 6 5 = 31)) ||
  (decide (op = 7) && (decide (bits w 0 7 ≠ 0) || fmtReserved (bits w 12 4) || fmtReserved (bits w 8 4))) ||
  (decide (op = 10 ∨ op = 11) && (decide (bits w 18 3 ≠ 0) || fmtReserved (bits w 0 4))) || (decide (op = 12) && decide (bits w 0 13 ≠ 0))

/-- The operation of the row slot. -/
def rowSlot (w : Nat) : Option SlotOp :=
  let op := bits w 20 4
  if 1 ≤ op ∧ op ≤ 6 then some (.row op (fin16 (bits w 16 4)) (bits w 0 16 + 1)) else none

def rowSlotBad (w : Nat) : Bool := decide (6 < bits w 20 4) || (decide (bits w 20 4 = 0) && decide (w ≠ 0))

/-- The operations of a bundle, in slot order (R68). -/
def bundleOps (b : Bundle) : List SlotOp :=
  (arraySlot 0 (bnA b)).toList ++ (arraySlot 1 (bnB b)).toList ++ (vectorSlot (bnV b)).toList ++ (rowSlot (bnW b)).toList

/-- A reserved encoding or non-zero reserved field in a bundle (R529). -/
def bundleBad (b : Bundle) : Bool :=
  decide (bits b.toNat 112 7 ≠ 0) || arraySlotBad (bnA b) || arraySlotBad (bnB b) || vectorSlotBad (bnV b) || rowSlotBad (bnW b)

/- Array descriptors (R83). -/

abbrev Desc := BitVec 256

def dF (d : Desc) (lo n : Nat) : Nat := bits d.toNat lo n
def adAddr (d : Desc) (right : Bool) : Nat := 128 * dF d (if right then 16 else 0) 16
def adStride (d : Desc) (right : Bool) : Int := 128 * signed 16 (dF d (if right then 48 else 32) 16)
def adBs (d : Desc) (right : Bool) : Nat := 64 * dF d (if right then 80 else 64) 16
def adPre (d : Desc) : Nat := 64 * dF d 96 16
def adOut (d : Desc) : Nat := 64 * dF d 112 16
def adOutStride (d : Desc) : Nat := 64 * dF d 128 16
def adFmt (d : Desc) (right : Bool) : Nat := dF d (if right then 152 else 156) 4
def adOutFmt (d : Desc) : Nat := dF d 148 4
def adT (d : Desc) (right : Bool) : Bool := d.getLsbD (if right then 146 else 147)
def adMx (d : Desc) (right : Bool) : Bool := d.getLsbD (if right then 144 else 145)
def adKlast (d : Desc) : Nat := dF d 168 8
def adMvalid (d : Desc) : Nat := dF d 162 6
def adNvalid (d : Desc) : Nat := dF d 186 6
def adPreload (d : Desc) : Nat := dF d 184 2
def adPreFmt (d : Desc) : Nat := dF d 182 2
def adRaw (d : Desc) : Bool := d.getLsbD 181
def adInScale (d : Desc) : W32 := BitVec.ofNat 32 (dF d 192 32)
def adOutScale (d : Desc) : W32 := BitVec.ofNat 32 (dF d 224 32)

/-- Width of one operand format (R77). -/
def fmtWidth (f : Nat) : Nat := if f ≤ 3 then 64 else if f = 8 ∨ f = 10 then 256 else 128

/-- Bits that an element takes in core store (R80, R105). -/
def fmtBits (f : Nat) : Nat :=
  if f = 0 then 64 else if f = 1 then 32 else if f ≤ 3 then 16 else if f = 8 ∨ f = 10 then 4 else 8

/-- Width of an operation (R78). -/
def adWidth (d : Desc) : Nat := min (fmtWidth (adFmt d false)) (fmtWidth (adFmt d true))
def adSplit (d : Desc) : Bool := decide (adFmt d false = 1 ∨ adFmt d true = 1)
def fmtInt (f : Nat) : Bool := decide (f = 9 ∨ f = 10)
def adInteger (d : Desc) : Bool := fmtInt (adFmt d false) && fmtInt (adFmt d true)

/-- Bits of a container (R80), and bytes of a container row. -/
def adCont (d : Desc) (right : Bool) : Nat := adWidth d / 64 * fmtBits (adFmt d right)
def adRow (d : Desc) (right : Bool) : Nat := 8 * adCont d right

/-- Address of slice s of an operand (R83). -/
def adSlice (d : Desc) (right : Bool) (s : Nat) : Int := (adAddr d right : Int) + s * adStride d right

/-- Bytes of a value read through PRE_FMT, and its format code. -/
def preBytes (d : Desc) : Nat := if adPreFmt d = 0 then 4 else 2
def preCode (d : Desc) : Nat := if adPreFmt d = 0 then 1 else if adPreFmt d = 1 then 3 else 2

/-- Rules of R83 and R101 that the descriptor alone decides; `operands` for an operation that reads operands. -/
def arrayDescBad (d : Desc) (kind : Option RedKind) : Bool :=
  decide (dF d 160 2 ≠ 0) || decide (dF d 176 5 ≠ 0) ||
  decide (adOutFmt d ∉ [1, 2, 3, 4, 5]) || (adRaw d && decide (adOutFmt d ≠ 1)) ||
  decide (adPreload d = 3) || decide (adPreFmt d = 3) ||
  (match kind with
   | none => fmtReserved (adFmt d false) || fmtReserved (adFmt d true)
   | some k =>
     [false, true].any (fun r => decide (adFmt d r = 0 ∨ 10 < adFmt d r) || (adMx d r && decide (adFmt d r ∉ [4, 5, 6, 7, 8]))) ||
     (fmtInt (adFmt d false) != fmtInt (adFmt d true)) || decide (adWidth d ≤ adKlast d) ||
     (decide (k ≠ .mma) && (adSplit d || decide (adPreload d ≠ 0))))

/- Row descriptors (R156). -/

def rdIn (d : Desc) : Nat := 64 * dF d 0 16
def rdAux (d : Desc) : Nat := 64 * dF d 16 16
def rdOut (d : Desc) : Nat := 64 * dF d 32 16
def rdInStride (d : Desc) : Nat := 64 * dF d 48 16
def rdAuxStride (d : Desc) : Nat := 64 * dF d 64 16
def rdOutStride (d : Desc) : Nat := 64 * dF d 80 16
def rdN (d : Desc) : Nat := dF d 96 16 + 1
def rdInFmt (d : Desc) : Nat := dF d 124 4
def rdAuxFmt (d : Desc) : Nat := dF d 120 4
def rdOutFmt (d : Desc) : Nat := dF d 116 4
def rdCausal (d : Desc) : Bool := d.getLsbD 115
def rdLayer (d : Desc) : Nat := dF d 128 16
def rdMb (d : Desc) : Nat := dF d 144 16
def rdMslot (d : Desc) : Nat := dF d 160 16
def rdDiag (d : Desc) : Int := signed 16 (dF d 176 16)
def rdScale (d : Desc) : W32 := BitVec.ofNat 32 (dF d 192 32)
def rdEps (d : Desc) : W32 := BitVec.ofNat 32 (dF d 224 32)

/-- Chunks of a row (R157). -/
def rdChunks (d : Desc) : Nat := (rdN d + 63) / 64

/-- PASSES (R69). -/
def rowPasses (op : Nat) : Nat := if op = 1 ∨ op = 3 then 3 else 2

/-- A backward operation. -/
def rowBack (op : Nat) : Bool := decide (op % 2 = 0)

/-- KIND of the mordant key (R162). -/
def rowKind (op : Nat) : Nat := (op + 1) / 2

/-- Rules of R171 that a row descriptor and its operation decide. -/
def rowDescBad (d : Desc) (op rows : Nat) : Bool :=
  [rdInFmt d, rdAuxFmt d, rdOutFmt d].any (fun f => decide (f ∉ [1, 2, 3])) || decide (dF d 112 3 ≠ 0) ||
  (rdCausal d && decide (2 < op)) ||
  (match val32 (rdScale d) with
   | .fin _ m _ => decide (m = 0)
   | _ => true) ||
  (match val32 (rdEps d) with
   | .fin s m _ => s && decide (m ≠ 0)
   | _ => true) || decide (65535 < rdMslot d + rows - 1)

/- Timing (R69). -/

/-- The unit of an operation: arrays 0-1, drain paths 2-3, vector unit 4, row engine 5. -/
def SlotOp.unit : SlotOp → Nat
  | .array _ a => a.arr.val
  | .drain arr _ _ => 2 + arr.val
  | .row _ _ _ => 5
  | _ => 4

/-- The descriptor that an operation names. -/
def SlotOp.desc : SlotOp → Option (Fin 16)
  | .array _ a => some a.desc
  | .drain _ _ d => some d
  | .row _ d _ => some d
  | _ => none

/-- Occupancy of an operation (R69). -/
def SlotOp.occupancy (op : SlotOp) (d : Desc) : Nat :=
  match op with
  | .array _ a => (if adSplit d then 384 else 64) * a.nslice
  | .drain _ _ _ => 64
  | .vec o v => if o = 13 then 4 else if o = 8 ∨ o = 9 then (if v.width = 1 then 16 else 8) else 1
  | .row o _ rows => rows * rowPasses o * rdChunks d
  | _ => 1

/-- Offset of the landing of a vector operation (R69). -/
def vecLatency (op : Nat) (width : BitVec 2) : Nat :=
  if op = 13 then 20
  else if op = 8 ∨ op = 9 then (if width = 1 then 30 else 16)
  else if op = 1 ∨ op = 2 then (if width = 1 then 7 else 5)
  else 4

def accFinishes : Acc → Bool
  | .finish => true
  | .whole => true
  | _ => false

def accOpens : Acc → Bool
  | .start => true
  | .whole => true
  | _ => false

/-- Offset of an operation's last landing, or 0 for one that lands nothing (R69). -/
def SlotOp.landing (op : SlotOp) (d : Desc) : Nat :=
  match op with
  | .array _ a => if accFinishes a.acc then op.occupancy d + 24 else 0
  | .drain _ _ _ => 72
  | .vec o v => vecLatency o v.width
  | .cast _ _ _ _ _ => 4
  | .vload _ _ _ => 6
  | .vstore _ _ _ => 4
  | .vbank _ _ _ _ => 4
  | .row _ _ _ => op.occupancy d + 20

/-- Address of a VLOAD or VSTORE (R67). -/
def vecAddr (vbase : Nat) (offset : BitVec 14) : Nat := (vbase + offset.toNat) * 256

/-- Bytes that a VLOAD or VSTORE moves in a memory format (R67, R105). -/
def vecMemBytes (fmt : Nat) : Nat := if fmt < 4 then 256 else if fmt = 8 ∨ fmt = 10 then 32 else 64

/- Layout descriptors (R203-R205). -/

abbrev LDesc := Line

def ldF (d : LDesc) (lo n : Nat) : Nat := bits d.toNat lo n
def ldBase (d : LDesc) : Nat := ldF d 0 48
def ldSpace (d : LDesc) : Nat := ldF d 53 3
def ldFmt (d : LDesc) : Nat := ldF d 48 4
def ldIdx (d : LDesc) : Bool := d.getLsbD 59
def ldNdim (d : LDesc) : Nat := ldF d 56 3
/-- Elements in dimension k. -/
def ldN (d : LDesc) (k : Nat) : Nat := ldF d (64 + 32 * k) 32 + 1
/-- STRIDE of dimension k, 1-4. -/
def ldStride (d : LDesc) (k : Nat) : Int := signed 32 (ldF d (224 + 32 * (k - 1)) 32)

/-- Spaces. -/
def spCore : Nat := 0
def spBase : Nat := 1
def spHbm : Nat := 2

/-- Bits of an element of a descriptor (R204). -/
def ldBits (d : LDesc) : Nat := if ldIdx d then 32 else fmtBits (ldFmt d)

/-- A descriptor with a reserved or misplaced value (R203, R236). -/
def ldBad (d : LDesc) : Bool :=
  decide (ldBase d % 64 ≠ 0) || decide (2 < ldSpace d) || decide (ldF d 52 1 ≠ 0) || decide (ldF d 60 4 ≠ 0) ||
  decide (4 < ldNdim d) || decide (ldF d 352 160 ≠ 0) ||
  (List.range 5).any (fun k => decide (ldNdim d < k) && decide (ldN d k ≠ 1)) ||
  (if ldIdx d then decide (ldFmt d ≠ 0) || decide (ldSpace d ≠ 0) else fmtReserved (ldFmt d))

/-- Elements of a descriptor. -/
def ldCount (d : LDesc) : Nat := ldN d 0 * ldN d 1 * ldN d 2 * ldN d 3 * ldN d 4

/-- Outer indices (i1 … i4) of row r in canonical order (R205). -/
def ldRowIx (d : LDesc) (r : Nat) : List Nat :=
  [r % ldN d 1, r / ldN d 1 % ldN d 2, r / (ldN d 1 * ldN d 2) % ldN d 3, r / (ldN d 1 * ldN d 2 * ldN d 3)]

/-- Rows of a descriptor. -/
def ldRows (d : LDesc) : Nat := ldN d 1 * ldN d 2 * ldN d 3 * ldN d 4

/-- Byte address of a row of a descriptor under a step (R204). -/
def ldRowAddr (d : LDesc) (step : Int) (ix : List Nat) : Int :=
  (ldBase d : Int) + 64 * step +
  64 * ((ix.getD 0 0 : Int) * ldStride d 1 + (ix.getD 1 0 : Int) * ldStride d 2 + (ix.getD 2 0 : Int) * ldStride d 3 +
        (ix.getD 3 0 : Int) * ldStride d 4)

/-- Bytes that the elements of a row take. -/
def ldRowBytes (d : LDesc) : Nat := (ldN d 0 * ldBits d + 7) / 8

/- Load and store entries (R208). -/

def lsMemStep (e : Line) : Int := signed 32 (entry e 8 4)
def lsCsStep (e : Line) : Int := signed 32 (entry e 12 4)
def lsMdesc (e : Line) : Nat := entry e 16 4
def lsCdesc (e : Line) : Nat := entry e 20 4
def lsDecl (e : Line) : Nat := entry e 24 4
def lsIdesc (e : Line) : Nat := entry e 28 4
def lsKind (e : Line) : Nat := bits e.toNat 260 4
def lsDeliver (e : Line) : Bool := e.getLsbD 271
def lsPerm (e : Line) (d : Nat) : Nat := bits e.toNat (272 + 3 * d) 3
def lsBsdesc (e : Line) : Nat := entry e 36 4
def lsCbsdesc (e : Line) : Nat := entry e 40 4
def lsIndexBase (e : Line) : Nat := entry e 44 8

/-- DECL, CHAIN or stream fields that name nothing. -/
def noneField : Nat := 0xFFFFFFFF

/-- KIND codes. -/
def lkCopy : Nat := 0
def lkAmax : Nat := 1
def lkGather : Nat := 2
def lkScatter : Nat := 3
def lkScatterAdd : Nat := 4
def lkStash : Nat := 5

def lsIndexed (e : Line) : Bool := decide (2 ≤ lsKind e ∧ lsKind e ≤ 4)

/-- PERM is a permutation of 0-4 (R210). -/
def permOk (e : Line) : Bool := (List.range 5).all (fun k => (List.range 5).any (fun d => decide (lsPerm e d = k)))

/-- Encoding faults of a queue-0 or queue-1 entry at the head (R50, R208). -/
def lsEntryBad (queue : Nat) (e : Line) : Bool :=
  let k := lsKind e
  !(decide (k = 0 ∨ k = 5) || (decide (queue = 0) && decide (k = 1 ∨ k = 2)) || (decide (queue = 1) && decide (k = 3 ∨ k = 4))) ||
  decide (bits e.toNat 256 4 ≠ 0) || decide (bits e.toNat 264 7 ≠ 0) || e.getLsbD 287 || !entZero e 52 12 || !permOk e ||
  (lsDeliver e && !(decide (k = 5) && decide (queue = 0))) || (!lsIndexed e && decide (lsIdesc e ≠ 0)) ||
  (decide (k = 1) && decide (lsCdesc e ≠ 0)) || (decide (k = 5) && decide (lsMdesc e ≠ 0))

/- Stream entries (R229). -/

def stLocalStep (e : Line) : Int := signed 32 (entry e 8 4)
def stOutStep (e : Line) : Int := signed 32 (entry e 12 4)
def stIn (e : Line) : Nat := entry e 16 4
def stOut (e : Line) : Nat := entry e 20 4
def stLocal (e : Line) : Nat := entry e 24 4
def stOutAddr (e : Line) : Nat := entry e 28 4
def stCount (e : Line) : Nat := entry e 32 4 + 1
def stOp (e : Line) : Nat := bits e.toNat 292 4
def stRole (e : Line) : Nat := bits e.toNat 290 2
def stFwd (e : Line) : Bool := e.getLsbD 289
def stChain (e : Line) : Nat := entry e 40 4

/-- Encoding faults of a stream-port entry at the head (R50, R229). -/
def stEntryBad (e : Line) : Bool :=
  decide (2 < stOp e) || (decide (stOp e ≠ 2) && decide (stRole e ≠ 0)) || (stFwd e && decide (stOp e ≠ 1)) ||
  e.getLsbD 288 || !entZero e 37 3 || !entZero e 44 20 || decide (stLocal e % 64 ≠ 0) || decide (stOutAddr e % 64 ≠ 0)

/-- Faults that the head check finds in an entry by itself (R50, R54). -/
def entryBad (queue : Nat) (e : Line) : Bool :=
  decide (entBudget e = 0) || decide (bits e.toNat 0 6 ≠ 0) ||
  (if queue = 2 then groupEntryBad e else if queue ≤ 1 then lsEntryBad queue e else stEntryBad e)

end Sys2Proof.Machine
end

