-- ==== Sys2Proof/Machine/Lanes.lean ====
section
/-! DEFINITION. The vector unit's arithmetic on register contents (R113, R114, R135, R136, R166-R168): one value and one set of flags
per lane. A register is a list of 256 bytes. -/

namespace Sys2Proof.Machine

/-- What a vector operation produces: bytes, flags, and counts of R142 in the order NAN_LOST, SATURATED, OVERFLOW_INF. -/
structure VRes where
  bytes : List Byte
  flags : Nat
  nanLost : Nat
  saturated : Nat
  overInf : Nat
  deriving DecidableEq, Repr

/-- Bytes of a lane of a WIDTH, and its format code with HALF (R67). -/
def laneBytes (width : BitVec 2) : Nat := if width = 0 then 4 else if width = 1 then 8 else 2
def laneFmt (width : BitVec 2) (half : Bool) : Nat := if width = 0 then 1 else if width = 1 then 0 else if half then 3 else 2

/-- The codes of a register's lanes of n bytes. -/
def lanes (n : Nat) (r : List Byte) : List Nat := (List.range (256 / n)).map (fun i => fieldAt r (i * n) n)

/-- INVALID of an operation: a signalling operand, or a NaN that its operands do not hold (R135). -/
def invalidOf (ops : List Num) (y : Num) : Bool :=
  ops.any Num.isSig || (y.isNan && !ops.any Num.isNan)

/-- Whether fusedMultiplyAdd of zero, infinity and a quiet NaN raises INVALID: IEEE 754-2019 leaves it to the implementation. -/
def fmaQuiet (a b c : Num) : Bool :=
  c.isNan && !a.isNan && !b.isNan && (a.mul b).isNan && Config.fmaQuietInvalid

/-- The greater or lesser of two values, NaN-propagating (R135). -/
def pick (max : Bool) (a b : Num) : Num :=
  if a.isNan ∨ b.isNan then .nan false else if a.less b = max then b else a

/-- The exact result of an arithmetic operation and the flags that are not those of rounding (R135). -/
def laneOp (op : Nat) (mode : RMode) (a b c : Num) : Num × Nat :=
  let down := decide (mode = .down)
  match op with
  | 1 => let y := Num.add down (a.mul b) c
         (y, flagIf (invalidOf [a, b, c] y || fmaQuiet a b c) flInvalid)
  | 2 => let y := a.mul b
         (y, flagIf (invalidOf [a, b] y) flInvalid)
  | 3 => let y := Num.add down a b
         (y, flagIf (invalidOf [a, b] y) flInvalid)
  | 4 => let y := Num.add down a b.negate
         (y, flagIf (invalidOf [a, b] y) flInvalid)
  | 5 => (pick true a b, flagIf (a.isSig || b.isSig) flInvalid)
  | 6 => (pick false a b, flagIf (a.isSig || b.isSig) flInvalid)
  | 8 => let y := a.div b
         (y, flagIf (invalidOf [a, b] y) flInvalid + flagIf (a.isFin && !a.isZero && b.isZero) flDivZero)
  | _ => let y := a.sqrt
         (y, flagIf (invalidOf [a] y) flInvalid)

/-- One lane: the code and every flag. -/
def laneResult (op fmt : Nat) (mode : RMode) (a b c : Nat) : Nat × Nat :=
  let y := laneOp op mode (decode fmt a) (decode fmt b) (decode fmt c)
  let r := (fmtOf fmt).finish mode y.1
  (r.1, r.2 ||| y.2)

/-- An arithmetic vector operation over whole registers (R67). -/
def vecArithmetic (op : Nat) (width : BitVec 2) (rnd : BitVec 2) (half : Bool) (va vb vc : List Byte) : VRes :=
  let n := laneBytes width
  let rs := ((lanes n va).zip ((lanes n vb).zip (lanes n vc))).map
    (fun e => laneResult op (laneFmt width half) (rmode rnd.toNat) e.1 e.2.1 e.2.2)
  { bytes := rs.flatMap (fun r => leBytes n r.1), flags := rs.foldl (fun f r => f ||| r.2) 0,
    nanLost := 0, saturated := 0, overInf := 0 }

/-- Bytes of a lane that holds a format in a register (R113). -/
def formBytes (fmt : Nat) : Nat := if fmt = 0 then 8 else if fmt = 2 ∨ fmt = 3 then 2 else 4

/-- The code that a lane of the register holds for a format: its own, or binary32 (R113). -/
def formFmt (fmt : Nat) : Nat := if fmt < 4 then fmt else 1

/-- Lanes that a CAST processes (R114). -/
def castLanes (sfmt tfmt : Nat) : Nat :=
  if sfmt = 0 ∨ tfmt = 0 then 32
  else if (sfmt = 2 ∨ sfmt = 3) ∧ (tfmt = 2 ∨ tfmt = 3) then 128 else 64

/-- The rounding of element i under the seed record of v31 in step n (R117). -/
def seedMode (sr : Bool) (n : Nat) (seed : List Byte) (i : Nat) : RMode :=
  if sr then .draw (draw (BitVec.ofNat 64 n) (BitVec.ofNat 64 (fieldAt seed 0 4)) (BitVec.ofNat 64 (fieldAt seed 4 8 + i)))
  else .rne

/-- The lane that holds a cast's result: the code itself, or the binary32 value of it (R113). -/
def castLane (tfmt : Nat) (x : Num) (r : CastR) : Nat :=
  if tfmt < 4 then r.code
  else if x.isNan ∧ (fmtOf tfmt).nanKind ≠ 0 then nan32.toNat
  else (widen tfmt r.code).toNat

/-- CAST (R113, R114, R136). -/
def vecCast (sfmt tfmt : Nat) (sr : Bool) (n : Nat) (va seed : List Byte) : VRes :=
  let sb := formBytes sfmt
  let tb := formBytes tfmt
  let rs := (List.range (castLanes sfmt tfmt)).map (fun i =>
    let x := decode (formFmt sfmt) (fieldAt va (i * sb) sb)
    let r := castNum tfmt (seedMode sr n seed i) x
    (castLane tfmt x r, r, flagIf x.isSig flInvalid))
  { bytes := bytesAt (rs.flatMap (fun r => leBytes tb r.1)) 0 256,
    flags := rs.foldl (fun f r => f ||| r.2.1.flags ||| r.2.2) 0,
    nanLost := rs.foldl (fun k r => k + r.2.1.nanLost) 0, saturated := rs.foldl (fun k r => k + r.2.1.saturated) 0,
    overInf := rs.foldl (fun k r => k + r.2.1.overInf) 0 }

/-- The codes of 64 elements in memory (R105): two to a byte in the 4-bit formats. -/
def narrowCodes (fmt : Nat) (mem : List Byte) : List Nat :=
  (List.range 64).map (fun i => if fmtBits fmt = 4 then bits (mem.getD (i / 2) 0).toNat (4 * (i % 2)) 4
                                else (mem.getD i 0).toNat)

/-- The memory bytes of 64 codes. -/
def packCodes (fmt : Nat) (codes : List Nat) : List Byte :=
  if fmtBits fmt = 4 then
    (List.range 32).map (fun i => BitVec.ofNat 8 (codes.getD (2 * i) 0 + 16 * codes.getD (2 * i + 1) 0))
  else codes.map (fun c => BitVec.ofNat 8 c)

/-- VLOAD (R67, R166): formats of the register's own lanes move unchanged; a narrower one widens exactly to FP32. -/
def vecLoad (fmt : Nat) (mem : List Byte) : VRes :=
  if fmt < 4 then { bytes := mem, flags := 0, nanLost := 0, saturated := 0, overInf := 0 }
  else
    let xs := (narrowCodes fmt mem).map (decode fmt)
    { bytes := xs.flatMap (fun x => leBytes 4 (rn32 x).toNat), flags := flagIf (xs.any Num.isSig) flInvalid,
      nanLost := 0, saturated := 0, overInf := 0 }

/-- VSTORE (R67): VLOAD reversed, rounding to nearest even, with the flags of the cast that it makes (R110, R136). -/
def vecStore (fmt : Nat) (reg : List Byte) : VRes :=
  if fmt < 4 then { bytes := reg, flags := 0, nanLost := 0, saturated := 0, overInf := 0 }
  else
    let xs := (lanes 4 reg).map (decode 1)
    let rs := xs.map (castNum fmt .rne)
    { bytes := packCodes fmt (rs.map (fun r => r.code)),
      flags := rs.foldl (fun f r => f ||| r.flags) (flagIf (xs.any Num.isSig) flInvalid),
      nanLost := rs.foldl (fun k r => k + r.nanLost) 0, saturated := rs.foldl (fun k r => k + r.saturated) 0,
      overInf := rs.foldl (fun k r => k + r.overInf) 0 }

/- UPDATE (R166-R169). -/

/-- Fields of the update record (R167). -/
def urTensor (r : List Byte) : Nat := fieldAt r 0 4
def urBase (r : List Byte) : Nat := fieldAt r 4 8
def urAlgo (r : List Byte) : Nat := bits (fieldAt r 12 1) 6 2
def urForm (r : List Byte) : Bool := Nat.testBit (fieldAt r 12 1) 5
def urSr (r : List Byte) : Bool := Nat.testBit (fieldAt r 12 1) 4
def urKeep (r : List Byte) : Bool := Nat.testBit (fieldAt r 12 1) 3
def urWord (r : List Byte) (o : Nat) : W32 := BitVec.ofNat 32 (fieldAt r o 4)

/-- A record that traps (R169). -/
def updateTraps (r : List Byte) : Bool :=
  decide (urAlgo r = 3) || (urSr r && !urForm r) || decide (bits (fieldAt r 12 1) 0 3 ≠ 0) || decide (fieldAt r 13 3 ≠ 0)

/-- A flagged binary32 step under rn32: the code, and the flags so far with its own. -/
def fStep (op : Nat) (a b c : W32) (f : Nat) : W32 × Nat :=
  let r := laneResult op 1 .rne a.toNat b.toNat c.toNat
  (BitVec.ofNat 32 r.1, f ||| r.2)

/-- One lane of an update: h, r, m, v, with flags, whether it was kept, and the counts of its cast. -/
structure ULane where
  h : Nat
  r : Nat
  m : W32
  v : W32
  flags : Nat
  kept : Bool
  cast : Option CastR
  deriving DecidableEq, Repr

/-- u, m' and v' of R168. -/
def updateStep (rec : List Byte) (g m v : W32) (f : Nat) : W32 × W32 × W32 × Nat :=
  let beta1 := urWord rec 20; let beta2 := urWord rec 24
  if urAlgo rec = 0 then
    let (k1, f) := fStep 4 one32 beta1 0 f
    let (t1, f) := fStep 2 k1 g 0 f
    let (m', f) := fStep 1 beta1 m t1 f
    let (k2, f) := fStep 4 one32 beta2 0 f
    let (gg, f) := fStep 2 g g 0 f
    let (t2, f) := fStep 2 k2 gg 0 f
    let (v', f) := fStep 1 beta2 v t2 f
    let (vb, f) := fStep 2 v' (urWord rec 40) 0 f
    let (sq, f) := fStep 9 vb 0 0 f
    let (den, f) := fStep 3 sq (urWord rec 28) 0 f
    let (mb, f) := fStep 2 m' (urWord rec 36) 0 f
    let (u, f) := fStep 8 mb den 0 f
    (u, m', v', f)
  else if urAlgo rec = 1 then
    let (m', f) := fStep 1 beta1 m g f
    (m', m', v, f)
  else (g, m, v, f)

/-- One lane of UPDATE in step n (R168); i counts lanes of the selected half. -/
def updateLane (rec : List Byte) (n i h r : Nat) (grad m v : W32) : ULane :=
  let w := if urForm rec then widen 3 h else joinRem h r
  let f0 := flagIf (decode 3 h).isSig flInvalid
  let (g, f) := fStep 2 grad (urWord rec 44) 0 f0
  if urKeep rec ∧ ¬ (val32 g).isFin then { h := h, r := r, m := m, v := v, flags := f, kept := true, cast := none }
  else
    let (u, m', v', f) := updateStep rec g m v f
    let (t, f) := fStep 1 (urWord rec 32) w u f
    let (w', f) := fStep 1 (neg32 (urWord rec 16)) t w f
    if !urForm rec then
      let p := splitRem w'
      { h := p.1, r := p.2, m := m', v := v', flags := f, kept := false, cast := none }
    else
      let mode := if urSr rec then
          RMode.draw (draw (BitVec.ofNat 64 n) (BitVec.ofNat 64 (urTensor rec)) (BitVec.ofNat 64 (urBase rec + i)))
        else .rne
      let c := castNum 3 mode (val32 w')
      { h := c.code, r := r, m := m', v := v', flags := f ||| c.flags, kept := false, cast := some c }

/-- The lanes of an UPDATE of a half: registers h, r, gradient, m, v. -/
def updateLanes (rec : List Byte) (n : Nat) (half : Bool) (vd va vb vc vc1 : List Byte) : List ULane :=
  (List.range 64).map (fun i =>
    let k := 2 * ((if half then 64 else 0) + i)
    updateLane rec n i (fieldAt vd k 2) (fieldAt va k 2) (urWord vb (4 * i)) (urWord vc (4 * i)) (urWord vc1 (4 * i)))

/- The row engine (R158-R161). -/

/-- The six coefficients and L2E of exp_r (R159), the binary32 values nearest to log2 e and (ln 2)^n / n!. -/
def l2e : W32 := 0x3FB8AA3B
def expCoeffs : List W32 := [0x3AAEC3FF, 0x3C1D955B, 0x3D635847, 0x3E75FDF0, 0x3F317218, 0x3F800000]

/-- The integer nearest to a value, ties to even. -/
def nearestInt (x : Num) : Int :=
  match x with
  | .fin s m e => let k := (roundAt .rne s m e 0).1; if s then -(k : Int) else k
  | _ => 0

/-- exp_r (R159). -/
def expR (z : W32) : W32 :=
  match val32 z with
  | .nan _ => nan32
  | .inf true => 0
  | _ =>
    let y := mul32 z l2e
    match val32 y with
    | .inf s => if s then 0 else 0x7F800000
    | x =>
      let k := nearestInt x
      let f := rn32 (Num.add false x (.fin (decide (0 < k)) k.natAbs 0))
      let p := expCoeffs.foldl (fun p c => fma32 p f c) 0x39218489
      rn32 ((val32 p).scale k)

/-- The sum of one chunk: a pairwise tree over 64 leaves (R158). -/
def chunkSum (c : List W32) : W32 := (treeAdd 6 (c ++ List.replicate (64 - c.length) 0)).headD 0
where
  /-- n levels of adjacent additions. -/
  treeAdd : Nat → List W32 → List W32
    | 0, l => l
    | n + 1, l => treeAdd n (pairs l)
  pairs : List W32 → List W32
    | a :: b :: t => add32 a b :: pairs t
    | l => l

/-- rowsum over the chunks of a row (R158). -/
def rowSum (cs : List (List W32)) : W32 := cs.foldl (fun a c => add32 a (chunkSum c)) 0

/-- The row maximum: NaN if any element is NaN. -/
def rowMax (l : List W32) : W32 :=
  l.foldl (fun m x => if (val32 m).isNan then m else if (val32 x).isNan then nan32 else if (val32 m).less (val32 x) then x else m)
    0xFF800000

/-- Mean of a sum over n elements. -/
def mean (s : W32) (n : Nat) : W32 := div32 s (int32 n)

/-- 1 / sqrt(x + eps), each step rounded. -/
def rstd (x eps : W32) : W32 := div32 one32 (sqrt32 (add32 x eps))

/-- z of a softmax element (R160): −∞ where CAUSAL masks element i of row j. -/
def softmaxZ (d : Desc) (j i : Nat) (x : W32) : W32 :=
  if rdCausal d ∧ (j : Int) + rdDiag d < (i : Int) then 0xFF800000 else mul32 x (rdScale d)

/-- Element values of chunk c with their indices. -/
def chunkIx (c : Nat) (l : List W32) : List (Nat × W32) := l.zipIdx.map (fun e => (64 * c + e.2, e.1))

/-- z of every element of the chunks of a row. -/
def zs (d : Desc) (j : Nat) (xs : List (List W32)) : List (List W32) :=
  xs.zipIdx.map (fun e => (chunkIx e.2 e.1).map (fun p => softmaxZ d j p.1 p.2))

/-- What a forward row forms at the end of pass p from its chunks xs and the statistics so far (R160). -/
def rowForward (op : Nat) (d : Desc) (j p : Nat) (xs : List (List W32)) (st : List W32) : List W32 :=
  let s0 := st.getD 0 0
  let n := rdN d
  if op = 1 then
    if p = 0 then [rowMax (zs d j xs).flatten]
    else if p = 1 then
      if s0 = 0xFF800000 then [s0, 0]
      else if (val32 s0).isNan ∨ s0 = 0x7F800000 then [s0, nan32]
      else [s0, rowSum ((zs d j xs).map (fun c => c.map (fun z => expR (sub32 z s0))))]
    else st
  else if op = 3 then
    if p = 0 then [mean (rowSum xs) n]
    else if p = 1 then
      let var := mean (rowSum (xs.map (fun c => c.map (fun x => mul32 (sub32 x s0) (sub32 x s0))))) n
      [s0, rstd var (rdEps d)]
    else st
  else
    if p = 0 then [rstd (mean (rowSum (xs.map (fun c => c.map (fun x => mul32 x x)))) n) (rdEps d), 0] else st

/-- The output of a forward row's element in the last pass. -/
def rowForwardOut (op : Nat) (d : Desc) (j : Nat) (st : List W32) (i : Nat) (x : W32) : W32 :=
  let s0 := st.getD 0 0
  let s1 := st.getD 1 0
  if op = 1 then
    if s0 = 0xFF800000 then 0
    else if (val32 s0).isNan ∨ s0 = 0x7F800000 then nan32
    else mul32 (expR (sub32 (softmaxZ d j i x) s0)) (div32 one32 s1)
  else if op = 3 then mul32 (sub32 x s0) s1
  else mul32 x s0

/-- xh of the normalisations (R161). -/
def xhat (op : Nat) (w0 w1 x : W32) : W32 := if op = 4 then mul32 (sub32 x w0) w1 else mul32 x w0

/-- y of SOFTMAX_B, recomputed from the stored statistics. -/
def softmaxY (d : Desc) (j i : Nat) (w0 w1 x : W32) : W32 :=
  mul32 (expR (sub32 (softmaxZ d j i x) w0)) (div32 one32 w1)

/-- What a backward row forms at the end of pass 0 (R161); w0, w1 are its slot's words. -/
def rowBackward (op : Nat) (d : Desc) (j : Nat) (w0 w1 : W32) (xs gs : List (List W32)) : List W32 :=
  let n := rdN d
  let pairs := (xs.zip gs).zipIdx.map (fun e => ((chunkIx e.2 e.1.1).zip e.1.2))
  if op = 2 then [rowSum (pairs.map (fun c => c.map (fun e => mul32 (softmaxY d j e.1.1 w0 w1 e.1.2) e.2)))]
  else
    let b := mean (rowSum (pairs.map (fun c => c.map (fun e => mul32 e.2 (xhat op w0 w1 e.1.2))))) n
    if op = 4 then [mean (rowSum gs) n, b] else [b]

/-- The output of a backward row's element in the last pass (R161). -/
def rowBackwardOut (op : Nat) (d : Desc) (j : Nat) (w0 w1 : W32) (st : List W32) (i : Nat) (x g : W32) : W32 :=
  let s0 := st.getD 0 0
  if op = 2 then
    if w0 = 0xFF800000 ∨ (rdCausal d ∧ (j : Int) + rdDiag d < (i : Int)) then 0
    else mul32 (mul32 (softmaxY d j i w0 w1 x) (sub32 g s0)) (rdScale d)
  else
    let xh := xhat op w0 w1 x
    if op = 4 then mul32 (fma32 (neg32 xh) (st.getD 1 0) (sub32 g s0)) w1
    else mul32 (fma32 (neg32 xh) s0 g) w0

end Sys2Proof.Machine
end

