-- ==== Sys2Proof/Machine/Tiles.lean ====
section
/-! DEFINITION. The arithmetic of the matrix arrays (R86-R98): slice sums, split passes, the carry stack, scale and preload, and
the maximum and minimum with index. A tile lists its non-zero words by row × 64 + column. -/

namespace Sys2Proof.Machine

/- Tiles. -/

/-- The tile of a function of the cell. -/
def tileOf (f : Nat → W32) : Tile := (List.range 4096).filterMap (fun k => if f k = 0 then none else some (k, f k))

/-- Cell by cell over two tiles; f must give 0 where both hold 0. -/
def tileZip (f : W32 → W32 → W32) : Nat → Tile → Tile → Tile
  | 0, _, _ => []
  | _ + 1, [], [] => []
  | n + 1, (k, a) :: s, [] => let v := f a 0; if v = 0 then tileZip f n s [] else (k, v) :: tileZip f n s []
  | n + 1, [], (k, b) :: t => let v := f 0 b; if v = 0 then tileZip f n [] t else (k, v) :: tileZip f n [] t
  | n + 1, (i, a) :: s, (j, b) :: t =>
    if i < j then let v := f a 0; if v = 0 then tileZip f n s ((j, b) :: t) else (i, v) :: tileZip f n s ((j, b) :: t)
    else if j < i then let v := f 0 b; if v = 0 then tileZip f n ((i, a) :: s) t else (j, v) :: tileZip f n ((i, a) :: s) t
    else let v := f a b; if v = 0 then tileZip f n s t else (i, v) :: tileZip f n s t

/-- The values of a tile for the cells k, k + 1, …; n of them. -/
def tileList : Nat → Nat → Tile → List W32
  | _, 0, _ => []
  | k, n + 1, [] => 0 :: tileList (k + 1) n []
  | k, n + 1, (j, v) :: t => if j = k then v :: tileList (k + 1) n t else 0 :: tileList (k + 1) n ((j, v) :: t)

/-- List a tile from the values of its cells, from cell k on. -/
def tileFrom : Nat → List W32 → Tile
  | _, [] => []
  | k, v :: t => if v = 0 then tileFrom (k + 1) t else (k, v) :: tileFrom (k + 1) t

/-- Apply f to every cell. -/
def tileMap (f : Nat → W32 → W32) (t : Tile) : Tile :=
  tileFrom 0 ((tileList 0 4096 t).zipIdx.map (fun e => f e.2 e.1))

/-- Tile addition: rn32 sums, or integers modulo 2^32 (R88). -/
def tileAdd (integer : Bool) (a b : Tile) : Tile :=
  tileZip (if integer then fun x y => x + y else add32) 8192 a b

/- Operands of a slice. -/

/-- The element codes of operand row h over a slice, lowest K first: unit j holds container h (R80, R81), each container taking
`cb` bytes of the unit. -/
def rowCodes (units : List (List Byte)) (cb per ebits h : Nat) : List Nat :=
  units.flatMap (fun u => let c := fieldAt u (h * cb) cb
                          (List.range per).map (fun i => bits c (i * ebits) ebits))

/-- Bytes that a container takes in a read unit: a 4-bit container takes a whole byte there. -/
def unitCont (d : Desc) (right : Bool) : Nat := max 1 (adCont d right / 8)

/-- The element codes of one row of a slice. -/
def sliceRow (d : Desc) (right : Bool) (units : List (List Byte)) (h : Nat) : List Nat :=
  rowCodes units (unitCont d right) (adWidth d / 64) (fmtBits (adFmt d right)) h

/-- Scale byte of row h and block b (R82); 127, which is 2^0, without block scaling. -/
def scaleByte (d : Desc) (right : Bool) (table : List Byte) (h b : Nat) : Nat :=
  if adMx d right then (table.getD (h * (adWidth d / 32) + b) 0).toNat else 127

/-- Whether K position j of slice s counts (R87). -/
def validK (d : Desc) (s nslice j : Nat) : Bool := decide (s + 1 < nslice) || decide (j ≤ adKlast d)

/-- The three BF16 pieces of an exact value (R97). -/
def pieces (x : Num) : Num × Num × Num :=
  match x with
  | .fin s m e =>
    let big := !magLt m e 511 119
    let x1 := if big then decode 3 ((fmtOf 3).maxCode s) else decode 3 (castNum 3 .rne x).code
    let r1 := Num.add false x x1.negate
    let x2 := decode 3 (castNum 3 .rne r1).code
    let r2 := Num.add false r1 x2.negate
    (x1, x2, decode 3 (castNum 3 .rne r2).code)
  | _ => (x, .fin false 0 0, .fin false 0 0)

/-- Piece k (1-3) of an operand value; k = 0 takes the value whole. -/
def piece (k : Nat) (x : Num) : Num :=
  if k = 0 then x else if k = 1 then (pieces x).1 else if k = 2 then (pieces x).2.1 else (pieces x).2.2

/-- The pieces of pass p (R98). -/
def passPieces : Nat → Nat × Nat
  | 0 => (3, 1)
  | 1 => (2, 2)
  | 2 => (1, 3)
  | 3 => (2, 1)
  | 4 => (1, 2)
  | _ => (1, 1)

/-- Adjacent pairs added (R87). -/
def pairUp : List W32 → List W32
  | a :: b :: t => add32 a b :: pairUp t
  | l => l

/-- n levels of the tree. -/
def treeUp : Nat → List W32 → List W32
  | 0, l => l
  | n + 1, l => treeUp n (pairUp l)

/-- The scaling of one 32-leaf node (R87). -/
def scaleNode (valid : Bool) (bl br : Nat) (x : W32) : W32 :=
  if valid ∧ (bl = 255 ∨ br = 255) then nan32 else rn32 ((val32 x).scale ((bl : Int) - 127 + (br - 127)))

/-- The slice sum of one cell (R87): leaves by position, with the scale bytes of each block. -/
def cellSum (leaves : List W32) (valid : Nat → Bool) (bl br : Nat → Nat) : W32 :=
  let nodes := treeUp 5 leaves
  let nodes := nodes.zipIdx.map (fun e => scaleNode (valid e.2) (bl e.2) (br e.2) e.1)
  (treeUp 3 nodes).headD 0

/-- Products of one cell: masked positions give +0. -/
def leaves (d : Desc) (s nslice : Nat) (l r : List Num) : List W32 :=
  ((l.zip r).zipIdx).map (fun e => if validK d s nslice e.2 then rn32 (e.1.1.mul e.1.2) else 0)

/-- A slice's data: operand units and scale tables, as read. -/
structure SliceIn where
  left : List (List Byte)
  right : List (List Byte)
  leftBs : List Byte
  rightBs : List Byte
  deriving DecidableEq, Repr

/-- A cell of a slice counts (R87). -/
def validCell (d : Desc) (k : Nat) : Bool := decide (k / 64 ≤ adMvalid d) && decide (k % 64 ≤ adNvalid d)

/-- The decoded rows of an operand, up to the last valid row, each value through one piece. -/
def sliceNums (d : Desc) (right : Bool) (units : List (List Byte)) (pc : Nat) : List (List Num) :=
  (List.range ((if right then adNvalid d else adMvalid d) + 1)).map
    (fun h => (sliceRow d right units h).map (fun c => piece pc (decode (adFmt d right) c)))

/-- The tile of slice sums of slice s: of one pair of pieces, or whole with pieces 0, 0 (R87, R98). -/
def sliceTile (d : Desc) (s nslice : Nat) (x : SliceIn) (pl pr : Nat) : Tile :=
  let l := sliceNums d false x.left pl
  let r := sliceNums d true x.right pr
  tileFrom 0 (l.zipIdx.flatMap (fun a =>
    let cells := r.zipIdx.map (fun b =>
      cellSum (leaves d s nslice a.1 b.1) (fun k => validK d s nslice (32 * k)) (scaleByte d false x.leftBs a.2)
        (scaleByte d true x.rightBs b.2))
    cells ++ List.replicate (64 - cells.length) 0))

/-- The integer slice sums (R88), modulo 2^32. -/
def sliceInt (d : Desc) (s nslice : Nat) (x : SliceIn) : Tile :=
  let row := fun (right : Bool) (u : List (List Byte)) (h : Nat) =>
    (sliceRow d right u h).map (fun c => signed (fmtBits (adFmt d right)) c)
  tileFrom 0 ((List.range (adMvalid d + 1)).flatMap (fun m =>
    let l := row false x.left m
    let cells := (List.range (adNvalid d + 1)).map (fun n =>
      let r := row true x.right n
      BitVec.ofInt 32 (((l.zip r).zipIdx).foldl (fun (t : Int) e => if validK d s nslice e.2 then t + e.1.1 * e.1.2 else t) 0))
    cells ++ List.replicate (64 - cells.length) 0))

/-- The six pass tiles added in pass order (R98). -/
def addPasses : List Tile → Tile
  | [] => []
  | p :: t => t.foldl (tileAdd false) p

/- The carry stack (R89). Level k is occupied where listed. -/

/-- A bank's reduction as START opens it. -/
def openRed (kind : RedKind) (integer : Bool) : Red :=
  { kind := kind, integer := integer, levels := [], group := none, cands := [], kBase := 0, poison := false }

/-- insert: x meets level j; k levels are left. -/
def insertGo (integer : Bool) (levels : SMap Tile) (x : Tile) (j : Nat) : Nat → SMap Tile × Option Tile
  | 0 => (levels, some x)
  | k + 1 =>
    if SMap.has j levels then insertGo integer (SMap.del j levels) (tileAdd integer (SMap.get [] j levels) x) (j + 1) k
    else (SMap.ins j x levels, none)

/-- insert(bank, x) (R89). -/
def Red.insert (r : Red) (x : Tile) : Red :=
  match insertGo r.integer r.levels x 0 10 with
  | (l, none) => { r with levels := l }
  | (l, some x) => { r with levels := l, group := some (match r.group with
    | none => x
    | some g => tileAdd r.integer g x) }

/-- collapse(bank) (R89): highest level first, then the group. -/
def Red.collapse (r : Red) : Tile :=
  let c := r.levels.reverse.foldl (fun (c : Option Tile) e => match c with
    | none => some e.2
    | some c => some (tileAdd r.integer c e.2)) none
  match r.group, c with
  | none, none => []
  | none, some c => c
  | some g, none => g
  | some g, some c => tileAdd r.integer g c

/-- A value of the preload rows as read (R91). -/
def preValue (d : Desc) (rows : List (List Byte)) (k : Nat) : W32 :=
  let row := if adPreload d = 1 then 0 else k / 64
  widen (preCode d) (fieldAt (rows.getD row []) (k % 64 * preBytes d) (preBytes d))

/-- The landed tile of an MMA (R89, R91): collapse, IN_SCALE, preload. -/
def Red.result (r : Red) (d : Desc) (pre : List (List Byte)) : Tile :=
  tileMap (fun k c =>
    let c := if r.integer then int32 c.toInt else c
    let y := mul32 c (adInScale d)
    if adPreload d = 0 then y else add32 y (preValue d pre k)) r.collapse

/- Maximum and minimum with index (R95). -/

/-- Whether candidate c beats the running winner w (R95): of NaNs, and of equal candidates, the lower index, which counts modulo 2^32. -/
def candBeats (kind : RedKind) (integer : Bool) (c w : Cand) : Bool :=
  let first := decide (c.index.toNat < w.index.toNat)
  if w.nan then c.nan && first
  else if c.nan then true
  else
    let lt := fun (x y : Cand) => if integer then decide (x.value < y.value) else (val32 x.bits).less (val32 y.bits)
    if lt c w then decide (kind = .min) else if lt w c then decide (kind ≠ .min) else first

/-- The candidate of one position (R95). -/
def candidate (integer : Bool) (l r : Num) (lv rv : Int) (bl br index : Nat) : Cand :=
  if integer then { value := lv * rv, bits := 0, index := BitVec.ofNat 32 index, nan := false }
  else
    let c := if bl = 255 ∨ br = 255 then nan32 else rn32 ((l.mul r).scale ((bl : Int) - 127 + (br - 127)))
    { value := 0, bits := c, index := BitVec.ofNat 32 index, nan := (val32 c).isNan }

/-- Meet the candidates of one slice. -/
def Red.compare (red : Red) (d : Desc) (s nslice : Nat) (x : SliceIn) : Red :=
  let w := adWidth d
  let cells := (List.range (adMvalid d + 1)).flatMap (fun m => (List.range (adNvalid d + 1)).map (fun n => (m, n)))
  let cands := cells.foldl (fun (cs : SMap Cand) mn =>
    let l := sliceRow d false x.left mn.1
    let r := sliceRow d true x.right mn.2
    let k := mn.1 * 64 + mn.2
    let win := ((l.zip r).zipIdx).foldl (fun (o : Option Cand) e =>
      if !validK d s nslice e.2 then o else
      let c := candidate red.integer (decode (adFmt d false) e.1.1) (decode (adFmt d true) e.1.2)
        (signed (fmtBits (adFmt d false)) e.1.1) (signed (fmtBits (adFmt d true)) e.1.2)
        (scaleByte d false x.leftBs mn.1 (e.2 / 32)) (scaleByte d true x.rightBs mn.2 (e.2 / 32)) (red.kBase + e.2)
      match o with
      | none => some c
      | some w => if candBeats red.kind red.integer c w then some c else some w)
      (if SMap.has k cs then some (SMap.get default k cs) else none)
    match win with
    | none => cs
    | some c => SMap.ins k c cs) red.cands
  { red with cands := cands, kBase := (red.kBase + w) % 2 ^ 32 }

/-- The landed values of a MAX or MIN; a cell with no candidate holds −∞ or +∞. -/
def Red.winners (r : Red) : Tile :=
  tileOf (fun k =>
    if SMap.has k r.cands then
      let c := SMap.get default k r.cands
      if r.integer then int32 c.value else c.bits
    else match r.kind with
      | .min => 0x7F800000
      | _ => 0xFF800000)

/-- The landed indices (R96). -/
def Red.indices (r : Red) : Tile :=
  tileOf (fun k => if SMap.has k r.cands then (SMap.get default k r.cands).index else 0xFFFFFFFF)

/-- The reduction that an operation meets on its bank (R90): one of another kind or arithmetic is discarded, START and WHOLE open
afresh, and CONTINUE or FINISH on a bank with none opens one. -/
def redFor (old : Option Red) (kind : RedKind) (integer : Bool) (opens : Bool) : Red :=
  match old with
  | none => openRed kind integer
  | some r => if opens ∨ r.kind ≠ kind ∨ r.integer ≠ integer then openRed kind integer else r

/- Swatches (R339-R343). -/

/-- Slice c of context x on logical core l is sampled in step n under k. -/
def swatchSlice (n l x k c : Nat) : Bool :=
  let off := draw (BitVec.ofNat 64 n) 0xFFFFFFF0 (BitVec.ofNat 64 (4 * l + x)) % 2 ^ k
  decide ((c + off) % 2 ^ k = 0)

/-- |x| of a binary32 code. -/
def abs32 (x : W32) : W32 := x &&& 0x7FFFFFFF

/-- e of one cell (R341). -/
def cellError (ya yv s : W32) : W32 :=
  match val32 ya, val32 yv with
  | .nan _, .nan _ => 0
  | .inf a, .inf b => if a = b then 0 else 0x7F800000
  | .fin _ a _, .fin _ b _ =>
    if abs32 s = 0 then (if a = 0 ∧ b = 0 then 0 else 0x7F800000)
    else div32 (abs32 (sub32 ya yv)) (rn32 ((val32 s).scale (-24)))
  | _, _ => 0x7F800000

/-- An operand value under its block scale, rounded. -/
def scaledElem (x : Num) (b : Nat) : W32 := if b = 255 then nan32 else rn32 (x.scale ((b : Int) - 127))

/-- yv and s of one cell of a swatch. -/
def swatchCell (w : Swatch) (m n : Nat) : W32 × W32 :=
  let d := w.desc
  let l := sliceRow d false w.left m
  let r := sliceRow d true w.right n
  ((l.zip r).zipIdx).foldl (fun (a : W32 × W32) e =>
    if !validK d w.slice w.nslice e.2 then a else
    let x := scaledElem (decode (adFmt d false) e.1.1) (scaleByte d false w.leftBs m (e.2 / 32))
    let y := scaledElem (decode (adFmt d true) e.1.2) (scaleByte d true w.rightBs n (e.2 / 32))
    (fma32 x y a.1, fma32 (abs32 x) (abs32 y) a.2)) (0, 0)

/-- An integer cell is exact: E is 0 where the sums agree. -/
def swatchIntCell (w : Swatch) (m n : Nat) : W32 :=
  let t := sliceInt w.desc w.slice w.nslice { left := w.left, right := w.right, leftBs := [], rightBs := [] }
  SMap.get 0 (64 * m + n) t

/-- The greater of two non-negative codes. -/
def maxCode (a b : W32) : W32 := if a.toNat < b.toNat then b else a

/-- The disagreement E of a swatch (R341). -/
def Swatch.error (w : Swatch) : W32 :=
  (List.range 4096).foldl (fun e k =>
    if !validCell w.desc k then e else
    let ya := SMap.get 0 k w.sums
    if adInteger w.desc then (if ya = swatchIntCell w (k / 64) (k % 64) then e else 0x7F800000)
    else let c := swatchCell w (k / 64) (k % 64)
         maxCode e (cellError ya c.1 c.2)) 0

/-- The bucket of a disagreement (R342). -/
def errorBucket (e : W32) : Nat :=
  match val32 e with
  | .fin _ m x => if m = 0 then 0 else let l := magLog m x; if l < 0 then 1 else if 15 ≤ l then 17 else (l + 2).toNat
  | _ => 17

end Sys2Proof.Machine
end

