-- ==== Sys2Proof/Machine/Bundles.lean ====
section
/-! DEFINITION. The bundle engine's run of a core cycle by cycle (R63-R75): operations in flight with their reads, the landings, and
the run-time checks of a bundle (R529). -/

namespace Sys2Proof.Machine

/-- What a core's cycle tells the module: a poisoned byte consumed by a context (R198), a counter to advance, IEEE flags landed
(R136), a trap of a context, a swatch captured for a step (R340). -/
inductive Eff where
  | consume (x : Nat)
  | count (key n : Nat)
  | flags (bits : Nat)
  | trap (x : Nat)
  | captured (step : Nat)
  deriving DecidableEq, Repr

/-- A core and what it tells. -/
abbrev CoreEff := Core × List Eff

/- Core store and registers. -/

def Core.csBytes (c : Core) (a n : Nat) : List Byte := Memory.bytes c.cs a n

/-- Some byte of [a, a + n) of core store has inverted parity (R197). -/
def Core.csHit (c : Core) (a n : Nat) : Bool := c.csPoison.any (fun k => decide (a ≤ k ∧ k < a + n))

/-- Inverted-parity marks after a write: a poisoned write inverts whole 64 B units, a clean one leaves its bytes sound (R197). -/
def Core.csWrite (c : Core) (a : Nat) (bytes : List Byte) (poison : Bool) : Core :=
  let marks := if poison then
      ((List.range (64 * ((a + bytes.length + 63) / 64 - a / 64))).map (fun k => a / 64 * 64 + k)).foldl (fun l k => insSet k l) c.csPoison
    else c.csPoison.filter (fun k => decide (k < a ∨ a + bytes.length ≤ k))
  { c with cs := Memory.write c.cs a bytes, csPoison := if bytes = [] then c.csPoison else marks }

/-- Key of byte o of vector register r. -/
def vkey (r o : Nat) : Nat := 256 * r + o

def Ctx.vreg (k : Ctx) (r : Nat) : List Byte := Memory.bytes k.v (vkey r 0) 256
def Ctx.vHit (k : Ctx) (r : Nat) : Bool := k.vPoison.any (fun u => decide (u / 4 = r))

/-- Write bytes of a register; a poison bit covers each 64 B it touches, and a clean
write of a whole 64 B clears its bit (R197). -/
def Ctx.setVreg (k : Ctx) (r first : Nat) (bytes : List Byte) (poison : Bool) : Ctx :=
  let units := (List.range ((first + bytes.length + 63) / 64 - first / 64)).map (fun u => 4 * r + first / 64 + u)
  { k with v := Memory.write k.v (vkey r first) bytes,
           vPoison := if poison then units.foldl (fun l u => insSet u l) k.vPoison
                      else k.vPoison.filter (fun u => decide (u < 4 * r ∨ 64 * (u - 4 * r) < first ∨ first + bytes.length < 64 * (u - 4 * r) + 64)) }

def Core.bank (c : Core) (arr bank : Nat) : Bank := c.banks.getD (2 * arr + bank) Bank.empty
def Core.setBank (c : Core) (arr bank : Nat) (b : Bank) : Core := { c with banks := c.banks.set (2 * arr + bank) b }

/-- Update context x. -/
def Core.updCtx (c : Core) (x : Nat) (f : Ctx → Ctx) : Core := c.setCtx x (f (c.ctx x))

/- Landings (R70-R72). -/

/-- Apply one landing. -/
def Core.land (c : Core) (w : Landing) : CoreEff :=
  match w with
  | .vreg x r first bytes poison => (c.updCtx x (fun k => k.setVreg r first bytes poison), [])
  | .cs a bytes poison => (c.csWrite a bytes poison, [])
  | .bank arr b vals poison => (c.setBank arr b { c.bank arr b with vals := vals, poison := poison }, [])
  | .mordant slot m => ({ c with mordant := SMap.ins slot m c.mordant }, [])
  | .flags f => (c, [.flags f])

/-- A write that waits for its cycle, in place by issue order. -/
def insPend (w : PendWrite) : List PendWrite → List PendWrite
  | [] => [w]
  | e :: t => if e.order ≤ w.order then e :: insPend w t else w :: e :: t

def Core.pendAt (c : Core) (cycle order : Nat) (w : Landing) : Core :=
  { c with pend := insPend { at_ := cycle, order := order, what := w } c.pend }

/-- Land every write due in the core's cycle, earlier-issued first (R71). -/
def Core.landDue (c : Core) : CoreEff :=
  let due := c.pend.filter (fun w => decide (w.at_ ≤ c.cycle))
  due.foldl (fun (a : CoreEff) w => let r := a.1.land w.what
                                    (r.1, a.2 ++ r.2)) ({ c with pend := c.pend.filter (fun w => decide (c.cycle < w.at_)) }, [])

/- Reads of the operations in flight, at the core's cycle. -/

def ReadAcc.empty : ReadAcc :=
  { left := [], right := [], leftBs := [], rightBs := [], pre := [], poison := false, passes := [], stats := [], missed := false,
    xs := [], gs := [] }

/-- Address of an operand's container (h, j) and its byte count in the unit (R80, R81). -/
def contAddr (base rowB cont h j : Nat) : Nat := base + h * rowB + j * cont / 8

/-- One container as bytes of a unit; a 4-bit one takes the low or the high half of its byte. -/
def Core.container (c : Core) (base rowB cont h j : Nat) : List Byte :=
  if cont = 4 then
    [BitVec.ofNat 8 (bits (Memory.byte c.cs (base + h * rowB + j / 2)).toNat (4 * (j % 2)) 4)]
  else c.csBytes (contAddr base rowB cont h j) (cont / 8)

/-- Unit j of a grid: container row j, or with the transpose flag container column j (R81), with its parity. -/
def Core.unit (c : Core) (d : Desc) (right : Bool) (base j : Nat) : List Byte × Bool :=
  let rowB := adRow d right
  let cont := adCont d right
  if adT d right then
    ((List.range 64).flatMap (fun h => c.container base rowB cont h j),
     (List.range 64).any (fun h => c.csHit (contAddr base rowB cont h j) (max 1 (cont / 8))))
  else
    ((List.range 64).flatMap (fun h => c.container base rowB cont j h), c.csHit (base + j * rowB) rowB)

/-- Scale table of slice s of an operand (R82). -/
def Core.scaleTable (c : Core) (d : Desc) (right : Bool) (s : Nat) : List Byte × Bool :=
  let n := 2 * adWidth d
  let a := adBs d right + s * n
  if adMx d right then (c.csBytes a n, c.csHit a n) else ([], false)

/-- A hit that context x consumes. -/
def hitEff (x : Nat) (hit : Bool) : List Eff := if hit then [.consume x] else []

/-- The base of slice s as a natural; the checks of R529 let no slice lie below 0. -/
def sliceBase (d : Desc) (right : Bool) (s : Nat) : Nat := (adSlice d right s).toNat

/-- An array operation reads unit j of slice s (R84); `first` for unit 0 and `pre` where the preload is read. -/
def Core.readUnits (c : Core) (x : Nat) (d : Desc) (acc : ReadAcc) (s j : Nat) (pre : Bool) : ReadAcc × List Eff :=
  let l := c.unit d false (sliceBase d false s) j
  let r := c.unit d true (sliceBase d true s) j
  let acc := if j = 0 then { acc with left := [], right := [], leftBs := (c.scaleTable d false s).1,
                                      rightBs := (c.scaleTable d true s).1 } else acc
  let bsHit := decide (j = 0) && ((c.scaleTable d false s).2 || (c.scaleTable d true s).2)
  let pb := 64 * preBytes d
  let usePre := pre && (decide (adPreload d = 2) || (decide (adPreload d = 1) && decide (j = 0)))
  let pa := adPre d + j * pb
  let acc := { acc with left := acc.left ++ [l.1], right := acc.right ++ [r.1],
                        pre := if usePre then acc.pre ++ [c.csBytes pa pb] else acc.pre,
                        poison := acc.poison || l.2 || r.2 || bsHit || (usePre && c.csHit pa pb) }
  (acc, hitEff x l.2 ++ hitEff x r.2 ++ hitEff x bsHit ++ hitEff x (usePre && c.csHit pa pb))

def ReadAcc.slice (a : ReadAcc) : SliceIn := { left := a.left, right := a.right, leftBs := a.leftBs, rightBs := a.rightBs }

/-- Capture a swatch slice, or skip it with both buffers full (R339, R340). -/
def Core.capture (c : Core) (f : Flight) (a : AArgs) (s : Nat) (acc : ReadAcc) (sums : Tile) : CoreEff :=
  match c.swatchK with
  | none => (c, [])
  | some k =>
    if !swatchSlice f.step (c.ctx f.ctx).bind.lcore f.ctx k (f.slice0 + s) then (c, [])
    else if 2 ≤ c.swatches.length then (c, [.count 0x602302 1])
    else ({ c with swatches := c.swatches ++ [{ step := f.step, ctx := f.ctx, desc := f.desc, nslice := a.nslice, slice := s,
                                                left := acc.left, right := acc.right, leftBs := acc.leftBs,
                                                rightBs := acc.rightBs, sums := sums }] }, [.captured f.step])

/-- A finished reduction's landings (R69, R96). -/
def Core.landReduction (c : Core) (f : Flight) (a : AArgs) (red : Red) (acc : ReadAcc) : Core :=
  let due := f.t + f.op.occupancy f.desc + 24
  let p := red.poison
  match red.kind with
  | .mma => c.pendAt due f.order (.bank a.arr.val a.bank.val (red.result f.desc acc.pre) p)
  | _ => (c.pendAt due f.order (.bank a.arr.val a.bank.val red.winners p)).pendAt due f.order
           (.bank a.arr.val (1 - a.bank.val) red.indices p)

/-- Slice s of an array operation is whole: it enters the bank's reduction (R89, R90, R95), and the last one of a FINISH or WHOLE
lands. An operation that goes on with a poisoned reduction consumes its carry levels (R102). -/
def Core.sliceDone (c : Core) (f : Flight) (kind : RedKind) (a : AArgs) (s : Nat) (acc : ReadAcc) (sums : Tile) : Core × List Eff :=
  let d := f.desc
  let b := c.bank a.arr.val a.bank.val
  let old := redFor b.red kind (adInteger d) (decide (s = 0) && accOpens a.acc)
  let es := hitEff f.ctx (decide (s = 0) && old.poison)
  let red := old
  let red := match kind with
    | .mma => red.insert sums
    | _ => red.compare d s a.nslice acc.slice
  let red := { red with poison := old.poison || acc.poison || f.poison }
  let last := decide (s + 1 = a.nslice) && accFinishes a.acc
  let c := c.setBank a.arr.val a.bank.val { b with red := if last then none else some red }
  (if last then c.landReduction f a red acc else c, es)

/-- The accumulator of an operation after a slice: poison carries on with its reduction. -/
def ReadAcc.next (a : ReadAcc) : ReadAcc := { ReadAcc.empty with pre := a.pre }

/-- An array operation's read in its cycle i from t + 2 (R84). -/
def Core.readArray (c : Core) (f : Flight) (kind : RedKind) (a : AArgs) (i : Nat) : Core × ReadAcc × List Eff :=
  let d := f.desc
  let j := i % 64
  let per := if adSplit d then 384 else 64
  let s := i / per
  let pass := i % per / 64
  let final := decide (s + 1 = a.nslice) && accFinishes a.acc && decide (pass = per / 64 - 1)
  let (acc, es) := c.readUnits f.ctx d f.acc s j final
  if j ≠ 63 then (c, acc, es)
  else if adSplit d then
    let acc := { acc with passes := acc.passes ++ [sliceTile d s a.nslice acc.slice (passPieces pass).1 (passPieces pass).2] }
    if pass ≠ 5 then (c, acc, es) else
      let r := c.sliceDone f kind a s acc (addPasses acc.passes)
      (r.1, acc.next, es ++ r.2)
  else
    let sums := if kind ≠ .mma then [] else if adInteger d then sliceInt d s a.nslice acc.slice
                else sliceTile d s a.nslice acc.slice 0 0
    let (c, e2) := if kind = .mma then c.capture f a s acc sums else (c, [])
    let r := c.sliceDone f kind a s acc sums
    (r.1, acc.next, es ++ e2 ++ r.2)

/-- The bytes of one drained row (R93), with the counts of its casts. -/
def drainRow (d : Desc) (vals : Tile) (h : Nat) : List Byte × List Eff :=
  let ws := tileList (64 * h) (adNvalid d + 1) (vals.filter (fun e => decide (64 * h ≤ e.1)))
  if adRaw d then (ws.flatMap (fun w => leBytes 4 w.toNat), [])
  else
    let rs := ws.map (fun w => castNum (adOutFmt d) .rne (val32 (mul32 w (adOutScale d))))
    (rs.flatMap (fun r => leBytes (fmtBits (adOutFmt d) / 8) r.code),
     [.count 0x603002 (rs.foldl (fun k r => k + r.saturated) 0), .count 0x603003 (rs.foldl (fun k r => k + r.overInf) 0)])

/-- DRAIN reads bank row h (R69, R93). -/
def Core.readDrain (c : Core) (f : Flight) (arr bank h : Nat) : Core × List Eff :=
  let b := c.bank arr bank
  let d := f.desc
  if adMvalid d < h then (c, [])
  else
    let (bytes, es) := drainRow d b.vals h
    (c.pendAt (f.t + 9 + h) f.order (.cs (adOut d + h * adOutStride d) bytes (b.poison || f.poison)), es ++ hitEff f.ctx b.poison)

/-- Counts of a vector operation's casts. -/
def VRes.effs (r : VRes) : List Eff := [.count 0x603001 r.nanLost, .count 0x603002 r.saturated, .count 0x603003 r.overInf]

/-- Land a vector result in a register with its flags (R136). -/
def Core.landVec (c : Core) (f : Flight) (vd lat : Nat) (r : VRes) (poison : Bool) : Core × List Eff :=
  let due := f.t + lat
  let c := c.pendAt due f.order (.vreg f.ctx vd 0 r.bytes (poison || f.poison))
  (if r.flags = 0 then c else c.pendAt due f.order (.flags r.flags), r.effs)

/-- Registers that an arithmetic operation reads (R67). -/
def vecSources (op : Nat) (v : VArgs) : List Nat :=
  if op = 1 then [v.va.val, v.vb.val, v.vc.val] else if op = 9 then [v.va.val] else [v.va.val, v.vb.val]

/-- UPDATE's reads: v31 and VD at t + 1, VA, VB, then VC and VC + 1 at t + 4, when it computes (R166). A record that may not run
traps at its read (R169). Where registers that it writes coincide, which write stands is free. -/
def Core.readUpdate (c : Core) (f : Flight) (v : VArgs) (i : Nat) : Core × ReadAcc × List Eff :=
  let k := c.ctx f.ctx
  let get := fun (acc : ReadAcc) (rs : List Nat) =>
    ({ acc with left := acc.left ++ rs.map k.vreg, poison := acc.poison || rs.any k.vHit },
     hitEff f.ctx (rs.any k.vHit))
  if f.acc.missed then (c, f.acc, [])
  else if i = 0 then
    let (acc, es) := get f.acc [31, v.vd.val]
    if updateTraps (acc.left.getD 0 []) then (c, { acc with missed := true }, es ++ [.trap f.ctx]) else (c, acc, es)
  else if i = 1 then let r := get f.acc [v.va.val]; (c, r.1, r.2)
  else if i = 2 then let r := get f.acc [v.vb.val]; (c, r.1, r.2)
  else
    let (acc, es) := get f.acc [v.vc.val, v.vc.val + 1]
    let rec_ := acc.left.getD 0 []
    let ls := updateLanes rec_ f.step v.half (acc.left.getD 1 []) (acc.left.getD 2 []) (acc.left.getD 3 []) (acc.left.getD 4 [])
      (acc.left.getD 5 [])
    let first := if v.half then 128 else 0
    let due := f.t + 20
    let puts : List (Nat × Nat × List Byte) :=
      [(v.vd.val, first, ls.flatMap (fun l => leBytes 2 l.h))] ++
      (if urForm rec_ then [] else [(v.va.val, first, ls.flatMap (fun l => leBytes 2 l.r))]) ++
      (if urAlgo rec_ ≤ 1 then [(v.vc.val, 0, ls.flatMap (fun l => leBytes 4 l.m.toNat))] else []) ++
      (if urAlgo rec_ = 0 then [(v.vc.val + 1, 0, ls.flatMap (fun l => leBytes 4 l.v.toNat))] else [])
    let puts := if (puts.map (fun e => e.1)).Nodup then puts else puts.rotateLeft (Config.updateOrder f.order)
    let c := puts.foldl (fun (c : Core) e => c.pendAt due f.order (.vreg f.ctx e.1 e.2.1 e.2.2 (acc.poison || f.poison))) c
    let fl := ls.foldl (fun a l => a ||| l.flags) 0
    let c := if fl = 0 then c else c.pendAt due f.order (.flags fl)
    (c, acc, es ++ [.count 0x603006 (ls.filter (fun l => l.kept)).length,
                    .count 0x603003 (ls.foldl (fun a l => a + (match l.cast with
                      | none => 0
                      | some r => r.overInf)) 0)])

/-- A vector operation reads in its cycle i from t + 1 (R69). -/
def Core.readVec (c : Core) (f : Flight) (i : Nat) : Core × ReadAcc × List Eff :=
  let k := c.ctx f.ctx
  match f.op with
  | .vec op v =>
    if op = 13 then c.readUpdate f v i
    else
      let hit := (vecSources op v).any k.vHit
      let r := c.landVec f v.vd.val (vecLatency op v.width)
        (vecArithmetic op v.width v.rnd v.half (k.vreg v.va.val) (k.vreg v.vb.val) (k.vreg v.vc.val)) hit
      (r.1, f.acc, r.2 ++ hitEff f.ctx hit)
  | .cast vd va sfmt tfmt sr =>
    let hit := k.vHit va.val || (sr && k.vHit 31)
    let r := c.landVec f vd.val 4 (vecCast sfmt.toNat tfmt.toNat sr f.step (k.vreg va.val) (k.vreg 31)) hit
    (r.1, f.acc, r.2 ++ hitEff f.ctx hit)
  | .vload vd offset mfmt =>
    let a := vecAddr f.vbase offset
    let n := vecMemBytes mfmt.toNat
    let hit := c.csHit a n
    let r := c.landVec f vd.val 6 (vecLoad mfmt.toNat (c.csBytes a n)) hit
    (r.1, f.acc, r.2 ++ hitEff f.ctx hit)
  | .vstore vs offset mfmt =>
    let r := vecStore mfmt.toNat (k.vreg vs.val)
    let hit := k.vHit vs.val
    let c := c.pendAt (f.t + 4) f.order (.cs (vecAddr f.vbase offset) r.bytes (hit || f.poison))
    (if r.flags = 0 then c else c.pendAt (f.t + 4) f.order (.flags r.flags), f.acc, r.effs ++ hitEff f.ctx hit)
  | .vbank vd arr bank row =>
    let b := c.bank arr.val bank.val
    let ws := tileList (64 * row.val) 64 (b.vals.filter (fun e => decide (64 * row.val ≤ e.1)))
    let c := c.pendAt (f.t + 4) f.order (.vreg f.ctx vd.val 0 (ws.flatMap (fun w => leBytes 4 w.toNat)) (b.poison || f.poison))
    (c, f.acc, hitEff f.ctx b.poison)
  | _ => (c, f.acc, [])

/-- Elements of a row chunk: n of them in a format, widened to FP32 (R158). -/
def chunkValues (fmt : Nat) (bytes : List Byte) (n : Nat) : List W32 :=
  let w := fmtBits fmt / 8
  (List.range n).map (fun i => widen fmt (fieldAt bytes (i * w) w))

/-- Elements of chunk ch of a row of N. -/
def chunkLen (n ch : Nat) : Nat := min 64 (n - 64 * ch)

/-- The bytes of an output chunk (R158), with the counts of its casts. -/
def outChunk (fmt : Nat) (ys : List W32) : List Byte × List Eff :=
  let rs := ys.map (fun y => castNum fmt .rne (val32 y))
  (rs.flatMap (fun r => leBytes (fmtBits fmt / 8) r.code), [.count 0x603003 (rs.foldl (fun k r => k + r.overInf) 0)])

/-- The row engine's lookup of row j's slot (R163): the accumulator with the slot's words, or a miss. -/
def Core.rowSlotRead (c : Core) (f : Flight) (op j : Nat) : ReadAcc × List Eff :=
  let d := f.desc
  let slot := rdMslot d + j
  let m := SMap.get default slot c.mordant
  if SMap.has slot c.mordant ∧ m.layer = rdLayer d ∧ m.mb = rdMb d ∧ m.kind = rowKind op then
    ({ ReadAcc.empty with stats := [m.w0, m.w1], poison := m.poison }, hitEff f.ctx m.poison)
  else ({ ReadAcc.empty with missed := true }, [.count 0x603008 1, .trap f.ctx])

/-- Row j's slot in its landing cycle (R162). -/
def mordantOf (d : Desc) (op : Nat) (st : List W32) (poison : Bool) : Mordant :=
  { layer := rdLayer d, mb := rdMb d, kind := rowKind op, w0 := st.getD 0 0, w1 := st.getD 1 0, poison := poison }

/-- Where output chunk ch of row j goes: address and bytes. -/
def rowOutSpan (d : Desc) (j ch : Nat) : Nat × Nat :=
  let w := fmtBits (rdOutFmt d) / 8
  (rdOut d + j * rdOutStride d + 64 * ch * w, chunkLen (rdN d) ch * w)

/-- A hit first met in a row's last pass poisons the chunks of the row that have been read before: those still to land, and those that have
landed, whose units read as hits (R165). -/
def Core.poisonChunks (c : Core) (f : Flight) (j ch : Nat) : Core :=
  (List.range ch).foldl (fun (c : Core) k =>
    let a := rowOutSpan f.desc j k
    let mine := fun (w : PendWrite) => decide (w.order = f.order) && (match w.what with
      | .cs b _ _ => decide (b = a.1)
      | _ => false)
    if c.pend.any mine then
      { c with pend := c.pend.map (fun w => match w.what with
          | .cs b bytes _ => if mine w then { w with what := .cs b bytes true } else w
          | _ => w) }
    else { c with csPoison := poisonWrite c.csPoison a.1 a.2 true }) c

/-- Land output chunk ch of row j, and with the last one the row's slot (R157, R162). -/
def Core.rowLand (c : Core) (f : Flight) (op j ch : Nat) (acc : ReadAcc) (ys : List W32) : Core × List Eff :=
  let d := f.desc
  let due := c.cycle + 20
  let poison := acc.poison || f.poison
  let (bytes, es) := outChunk (rdOutFmt d) ys
  let c := c.pendAt due f.order (.cs (rowOutSpan d j ch).1 bytes poison)
  if ch + 1 = rdChunks d ∧ !rowBack op then
    (c.pendAt due f.order (.mordant (rdMslot d + j) (mordantOf d op acc.stats poison)), es)
  else (c, es)

/-- The row engine reads chunk ch of row j in pass p (R157): the element values of a pass are those of its own reads. -/
def Core.readRow (c : Core) (f : Flight) (op i : Nat) : Core × ReadAcc × List Eff :=
  let d := f.desc
  let C := rdChunks d
  let P := rowPasses op
  let j := i / (P * C)
  let p := i % (P * C) / C
  let ch := i % C
  let start := i % (P * C) = 0
  let (acc, e0) := if f.acc.missed then (f.acc, [])
    else if start then (if rowBack op then c.rowSlotRead f op j else (ReadAcc.empty, []))
    else (f.acc, [])
  if acc.missed then (c, acc, e0) else
  let n := chunkLen (rdN d) ch
  let xb := fmtBits (rdInFmt d) / 8
  let gb := fmtBits (rdAuxFmt d) / 8
  let xa := rdIn d + j * rdInStride d + 64 * ch * xb
  let ga := rdAux d + j * rdAuxStride d + 64 * ch * gb
  let x := chunkValues (rdInFmt d) (c.csBytes xa (n * xb)) n
  let g := if rowBack op then chunkValues (rdAuxFmt d) (c.csBytes ga (n * gb)) n else []
  let hx := c.csHit xa (n * xb)
  let hg := rowBack op && c.csHit ga (n * gb)
  let es := e0 ++ hitEff f.ctx hx ++ hitEff f.ctx hg
  let c := if p + 1 = P ∧ acc.poison = false ∧ (hx || hg) then c.poisonChunks f j ch else c
  let acc := { acc with poison := acc.poison || hx || hg }
  let w0 := acc.stats.getD 0 0
  let w1 := acc.stats.getD 1 0
  if p + 1 = P then
    let ys := if rowBack op then
        ((chunkIx ch x).zip g).map (fun e => rowBackwardOut op d j w0 w1 (acc.stats.drop 2) e.1.1 e.1.2 e.2)
      else (chunkIx ch x).map (fun e => rowForwardOut op d j acc.stats e.1 e.2)
    let r := c.rowLand f op j ch acc ys
    (r.1, acc, es ++ r.2)
  else
    let acc := { acc with xs := acc.xs ++ [x], gs := acc.gs ++ [g] }
    if ch + 1 = C then
      let st := if rowBack op then w0 :: w1 :: rowBackward op d j w0 w1 acc.xs acc.gs
                else rowForward op d j p acc.xs acc.stats
      (c, { acc with stats := st, xs := [], gs := [] }, es)
    else (c, acc, es)

/-- Cycles from issue to the first read, and the count of read cycles. -/
def Flight.firstRead (f : Flight) : Nat := match f.op with
  | .array _ _ => 2
  | _ => 1

def Flight.reads (f : Flight) : Nat := f.op.occupancy f.desc

/-- The read cycles of a vector operation that is not an UPDATE number one. -/
def Flight.readCycles (f : Flight) : Nat := match f.op with
  | .vec 13 _ => 4
  | .vec _ _ => 1
  | _ => f.reads

/-- An operation in flight meets the core's cycle; it leaves when its last read is past. -/
def Core.flightRead (c : Core) (f : Flight) : Core × Option Flight × List Eff :=
  if c.cycle < f.t + f.firstRead then (c, some f, [])
  else
    let i := c.cycle - f.t - f.firstRead
    if f.readCycles ≤ i then (c, none, [])
    else
      let (c, acc, es) := match f.op with
        | .array kind a => c.readArray f kind a i
        | .drain arr bank _ => let r := c.readDrain f arr.val bank.val i; (r.1, f.acc, r.2)
        | .row op _ _ => c.readRow f op i
        | _ => c.readVec f i
      (c, if i + 1 = f.readCycles then none else some { f with acc := acc }, es)

/-- Reads of every operation in flight in the core's cycle, in issue order. -/
def Core.readDue (c : Core) : CoreEff :=
  c.flight.foldl (fun (a : CoreEff) f =>
    let r := a.1.flightRead f
    ({ r.1 with flight := r.1.flight ++ r.2.1.toList }, a.2 ++ r.2.2)) ({ c with flight := [] }, [])

/-- One CLK_CORE cycle: landings, then reads (R70). -/
def Core.tick (c : Core) : CoreEff :=
  let a := ({ c with cycle := c.cycle + 1 } : Core).landDue
  let b := a.1.readDue
  (b.1, a.2 ++ b.2)

/- Issue. -/

/-- The descriptor of the running group that an operation names. -/
def Group.descOf (g : Group) (op : SlotOp) : Desc := match op.desc with
  | none => 0
  | some i => g.descs.getD i.val 0

/-- The bundle that issued last, or the descriptor that an operation names, was read with a parity hit. -/
def Group.opHit (g : Group) (op : SlotOp) : Bool := g.hitBundles.contains (g.next - 1) || match op.desc with
  | none => false
  | some i => g.hitDescs.contains i.val

/-- Issue an operation of a group in the core's cycle: its unit is occupied, its slices numbered (R339), and it flies. -/
def Core.issueOp (c : Core) (op : SlotOp) (g : Group) : Core :=
  let x := g.ctx
  let d := g.descOf op
  let k := c.ctx x
  let counts := match op with
    | .array .mma a => if adSplit d then 0 else a.nslice
    | _ => 0
  let f : Flight := { op := op, t := c.cycle, order := c.order, ctx := x, step := k.step, desc := d, vbase := entVbase g.entry,
                      slice0 := k.slices, poison := g.opHit op, acc := .empty }
  { c.updCtx x (fun k => { k with slices := k.slices + counts }) with
    order := c.order + 1, flight := c.flight ++ [f],
    busy := SMap.ins op.unit (c.cycle + op.occupancy d) c.busy }

/-- Issue whatever the bundle of this cycle has left to issue. -/
def Core.flushIssued (c : Core) : Core :=
  match c.group with
  | none => { c with issued := [] }
  | some g => c.issued.foldl (fun c op => c.issueOp op g) { c with issued := [] }

/- The module and a core's cycles. -/

/-- Advance VEC_FLAGS and its companion (R142). -/
def State.vecFlags (s : State) (p f : Nat) : State :=
  let s := s.put (kCore p 0x0A) (s.o (kCore p 0x0A) ||| f)
  if f / 2 = 0 then s else s.bump32 (kCore p 0x0B) 1

end Sys2Proof.Machine
end

