-- ==== Sys2Proof/Machine/GroupCheck.lean ====
section
/-! DEFINITION. The checks of a bundle group that its own content decides (R74, R101, R174, R202), for the core as it runs (R529) and
for the verifier (R264). Cycles count from the group's start. -/

namespace Sys2Proof.Machine

/-- What a context may use (R61, R239, R240). -/
structure Scope where
  own : List Bool
  ranges : List Range
  fp64 : Bool
  deriving DecidableEq, Repr

def Range.holds (r : Range) (a n : Nat) : Bool := decide (r.start ≤ a ∧ a + n ≤ r.start + r.length)

/-- [a, a + n) lies in a range of the context. -/
def Scope.reads (c : Scope) (a n : Nat) : Bool := c.ranges.any (fun r => r.holds a n)

/-- [a, a + n) lies in a range of one kind. -/
def Scope.inKind (c : Scope) (k a n : Nat) : Bool := c.ranges.any (fun r => decide (r.kind = k) && r.holds a n)

def rgStaging : Nat := 0
def rgWork : Nat := 1
def rgStatic : Nat := 2
def rgCells : Nat := 3

/-- Bytes of a core-store bank (R174). -/
def csBank : Nat := 0x28000

/-- [a, a + n) lies in one bank of core store. -/
def oneBank (a n : Nat) : Bool := decide (a / csBank = (a + n - 1) / csBank ∧ a + n ≤ 16 * csBank)

/-- Bank number of the accumulators: A0, A1, B0, B1. -/
def accBank (arr bank : Fin 2) : Nat := 2 * arr.val + bank.val

/-- A write of [a, a + n) by a command or bundle: in a range of the kind that its maker may write, or within bytes 24-31 of a 32 B descriptor
in a STATIC range (R61, R240). -/
def Scope.writes (c : Scope) (k a n : Nat) : Bool :=
  c.inKind k a n || (c.inKind rgStatic a n && decide (24 ≤ a % 32 ∧ a % 32 + n ≤ 32))

/-- A grid unit that an array reads: its grid's base, its number, bytes of a container row, bits of a container, transpose flag, whether a
paired read may take it, and its format. -/
structure GridUnit where
  base : Nat
  unit : Nat
  row : Nat
  cont : Nat
  t : Bool
  pair : Bool
  fmt : Nat
  deriving DecidableEq, Repr

/-- A compute access of a cycle: bank, write, slot (0 A, 1 B, 2 vector, 3 row, 4 drain), and what it delivers. -/
structure Touch where
  bank : Nat
  write : Bool
  slot : Nat
  addr : Nat
  size : Nat
  grid : Option GridUnit
  deriving DecidableEq, Repr

/-- The same unit of core store, from whichever grid: one container row, or the containers of one column (R81, R84). -/
def GridUnit.same (g h : GridUnit) : Bool :=
  decide (g.row = h.row) && (if g.t || h.t then
    g.t && h.t && decide (g.cont = h.cont ∧ 8 * g.base + g.unit * g.cont = 8 * h.base + h.unit * h.cont)
  else decide (g.base + g.unit * g.row = h.base + h.unit * h.row))

/-- Two reads that the core store delivers as one: a unit that both arrays read (R84), or a paired read (R145). -/
def Touch.shares (x y : Touch) : Bool :=
  decide (x.slot + y.slot = 1) && decide (x.size = y.size) &&
  (match x.grid, y.grid with
   | some g, some h => g.same h || (decide (g.base = h.base ∧ g.unit = h.unit ∧ g.fmt = h.fmt) && g.t != h.t && g.pair && h.pair)
   | none, none => decide (x.addr = y.addr)
   | _, _ => false)

/-- Grid accesses of an array operation in its cycle i from the first read. -/
def arrayAccess (d : Desc) (a : AArgs) (i : Nat) : List Touch :=
  let per := if adSplit d then 384 else 64
  if a.nslice * per ≤ i then [] else
  let s := i / per
  let j := i % 64
  let final := decide (s + 1 = a.nslice) && accFinishes a.acc && decide (i % per / 64 = per / 64 - 1)
  let slot := a.arr.val
  let grid := fun (r : Bool) =>
    let b := sliceBase d r s
    { bank := b / csBank, write := false, slot := slot, addr := b + j * adRow d r, size := adRow d r,
      grid := some { base := b, unit := j, row := adRow d r, cont := adCont d r, t := adT d r,
                     pair := decide (adWidth d = 64) && !adMx d r, fmt := adFmt d r } : Touch }
  let table := fun (r : Bool) =>
    if adMx d r && decide (j = 0) then
      let n := 2 * adWidth d
      let b := adBs d r + s * n
      [{ bank := b / csBank, write := false, slot := slot, addr := b, size := n, grid := none : Touch }]
    else []
  let pb := 64 * preBytes d
  let pre := if final && (decide (adPreload d = 2) || (decide (adPreload d = 1) && decide (j = 0))) then
      let b := adPre d + j * pb
      [{ bank := b / csBank, write := false, slot := slot, addr := b, size := pb, grid := none : Touch }]
    else []
  [grid false, grid true] ++ table false ++ table true ++ pre

/-- Accesses of an operation issued at cycle t, in cycle c (R69, R157). -/
def opAccess (op : SlotOp) (d : Desc) (vbase t c : Nat) : List Touch :=
  if c < t then [] else
  let o := c - t
  let one := fun (w : Bool) (slot a n : Nat) => [{ bank := a / csBank, write := w, slot := slot, addr := a, size := n, grid := none : Touch }]
  match op with
  | .array _ a => if o < 2 then [] else arrayAccess d a (o - 2)
  | .drain _ _ _ =>
    if o < 9 ∨ 72 < o ∨ adMvalid d < o - 9 then []
    else one true 4 (adOut d + (o - 9) * adOutStride d) ((adNvalid d + 1) * (fmtBits (if adRaw d then 1 else adOutFmt d) / 8))
  | .vload _ off f => if o = 1 then one false 2 (vecAddr vbase off) (vecMemBytes f.toNat) else []
  | .vstore _ off f => if o = 4 then one true 2 (vecAddr vbase off) (vecMemBytes f.toNat) else []
  | .row ro _ rows =>
    let C := rdChunks d
    let P := rowPasses ro
    let rd := if o < 1 ∨ rows * P * C ≤ o - 1 then [] else
      let i := o - 1
      let j := i / (P * C)
      let ch := i % C
      let n := chunkLen (rdN d) ch
      let chunk := fun (base fmt : Nat) => one false 3 (base + 64 * ch * (fmtBits fmt / 8)) (n * (fmtBits fmt / 8))
      chunk (rdIn d + j * rdInStride d) (rdInFmt d) ++
      (if rowBack ro then chunk (rdAux d + j * rdAuxStride d) (rdAuxFmt d) else [])
    let wr := if o < 21 ∨ rows * P * C ≤ o - 21 then [] else
      let i := o - 21
      let j := i / (P * C)
      let ch := i % C
      if i % (P * C) / C + 1 = P then
        let w := fmtBits (rdOutFmt d) / 8
        one true 3 (rdOut d + j * rdOutStride d + 64 * ch * w) (chunkLen (rdN d) ch * w)
      else []
    rd ++ wr
  | _ => []

/-- Drop the first access that shares with a read. -/
def dropShared (a : Touch) : List Touch → List Touch
  | [] => []
  | b :: t => if !a.write && !b.write && a.shares b then t else b :: dropShared a t

/-- Count accesses, a shared pair once; fuel is their number. -/
def countAccess : Nat → List Touch → Nat
  | 0, _ => 0
  | _ + 1, [] => 0
  | n + 1, a :: t => 1 + countAccess n (dropShared a t)

/-- More than one read or one write of one bank in a cycle (R74, R174). -/
def portsOver (l : List Touch) : Bool :=
  l.any (fun a => decide (1 < countAccess l.length (l.filter (fun b => decide (b.bank = a.bank) && (b.write == a.write)))))

/-- An operation of a group with its issue cycle and descriptor. -/
structure OpAt where
  op : SlotOp
  t : Nat
  desc : Desc
  k : Nat
  deriving DecidableEq, Repr

/-- Issue cycle of bundle k (R64). -/
def bundleCycle (bs : List Bundle) (k : Nat) : Nat := (bs.take k).foldl (fun t b => t + bnGap b + 1) 0

/-- The operations of bundles 0 … k, in issue order. -/
def opsTo (bs : List Bundle) (descs : List Desc) (k : Nat) : List OpAt :=
  (List.range (k + 1)).flatMap (fun i => (bundleOps (bs.getD i 0)).map (fun op =>
    { op := op, t := bundleCycle bs i, k := i, desc := match op.desc with
      | none => 0
      | some n => descs.getD n.val 0 }))

/-- The last cycle, from issue, in which an operation makes a core-store access. -/
def OpAt.reach (o : OpAt) : Nat := match o.op with
  | .array _ _ => o.op.occupancy o.desc + 2
  | .row _ _ _ => o.op.occupancy o.desc + 21
  | .drain _ _ _ => 73
  | _ => 5

/-- Bundle k's accesses meet those of the bundles before it beyond a port (R529). -/
def portsBad (ops : List OpAt) (vbase k : Nat) : Bool :=
  let mine := ops.filter (fun o => decide (o.k = k))
  mine.any (fun o => (List.range o.reach).any (fun i =>
    let c := o.t + i
    portsOver ((ops.filter (fun p => decide (p.t ≤ c ∧ c < p.t + p.reach))).flatMap (fun p => opAccess p.op p.desc vbase p.t c))))

/-- Some operation of bundle k is issued while its unit or drain path is occupied (R74). -/
def unitsBad (ops : List OpAt) (k : Nat) : Bool :=
  (ops.filter (fun o => decide (o.k = k))).any (fun o => ops.any (fun p =>
    decide (p.k < k ∧ p.op.unit = o.op.unit ∧ o.t < p.t + p.op.occupancy p.desc)))

/-- The reduction state of a bank after operations: none before any, open or closed (R74). -/
def bankState (ops : List OpAt) (b : Nat) : Option Bool :=
  ops.foldl (fun st o => match o.op with
    | .array _ a => if accBank a.arr a.bank = b then some (!accFinishes a.acc) else st
    | _ => st) none

/-- A reduction-state fault of bundle k (R74). -/
def reductionBad (ops : List OpAt) (k : Nat) : Bool :=
  (ops.filter (fun o => decide (o.k = k))).any (fun o => match o.op with
    | .array _ a => match bankState (ops.filter (fun p => decide (p.k < k))) (accBank a.arr a.bank) with
      | none => false
      | some open_ => if accOpens a.acc then open_ else !open_
    | _ => false)

/-- A bank or the row engine that the context does not own (R61, R96). -/
def ownBad (c : Scope) (op : SlotOp) : Bool :=
  match op with
  | .array k a => !c.own.getD (accBank a.arr a.bank) false ||
                  (decide (k ≠ .mma) && !c.own.getD (2 * a.arr.val + (1 - a.bank.val)) false)
  | .drain arr bank _ => !c.own.getD (accBank arr bank) false
  | .vbank _ arr bank _ => !c.own.getD (accBank arr bank) false
  | .row _ _ _ => !c.own.getD 4 false
  | _ => false

/-- An operation that needs FP64 lanes (R74, R143). -/
def needsFp64 (op : SlotOp) : Bool :=
  match op with
  | .vec _ v => decide (v.width = 1)
  | .cast _ _ s t _ => decide (s = 0 ∨ t = 0)
  | .vload _ _ f => decide (f = 0)
  | .vstore _ _ f => decide (f = 0)
  | _ => false

/-- A descriptor fault (R83, R101, R156, R171). -/
def descBad (op : SlotOp) (d : Desc) : Bool :=
  match op with
  | .array k _ => arrayDescBad d (some k)
  | .drain _ _ _ => arrayDescBad d none
  | .row o _ rows => rowDescBad d o rows
  | _ => false

/-- Address ranges of an operation: (address, bytes, written) (R74, R202). Negative slice addresses give 2^32, outside core store. -/
def opSpans (op : SlotOp) (d : Desc) (vbase : Nat) : List (Nat × Nat × Bool) :=
  match op with
  | .array _ a =>
    let grids := (List.range a.nslice).flatMap (fun s => [false, true].flatMap (fun r =>
      let b := adSlice d r s
      let g := (if b < 0 then 2 ^ 32 else b.toNat, 64 * adRow d r, false)
      if adMx d r then [g, (adBs d r + s * (2 * adWidth d), 2 * adWidth d, false)] else [g]))
    let pre := if accFinishes a.acc ∧ adPreload d ≠ 0 then
        [(adPre d, (if adPreload d = 1 then 1 else 64) * 64 * preBytes d, false)] else []
    grids ++ pre
  | .drain _ _ _ =>
    let n := (adNvalid d + 1) * (fmtBits (if adRaw d then 1 else adOutFmt d) / 8)
    (List.range (adMvalid d + 1)).map (fun h => (adOut d + h * adOutStride d, n, true))
  | .vload _ off f => [(vecAddr vbase off, vecMemBytes f.toNat, false)]
  | .vstore _ off f => [(vecAddr vbase off, vecMemBytes f.toNat, true)]
  | _ => []

/-- Ranges of a row operation, row by row and then chunk by chunk for the bank rule. -/
def rowSpans (op : Nat) (d : Desc) (rows : Nat) : List (Nat × Nat × Bool) :=
  (List.range rows).flatMap (fun j =>
    let span := fun (base fmt : Nat) (w : Bool) => (base, rdN d * (fmtBits fmt / 8), w)
    [span (rdIn d + j * rdInStride d) (rdInFmt d) false, span (rdOut d + j * rdOutStride d) (rdOutFmt d) true] ++
    (if rowBack op then [span (rdAux d + j * rdAuxStride d) (rdAuxFmt d) false] else []))

/-- Every chunk of a row lies in one bank (R202). -/
def chunksBad (a bytes per : Nat) : Bool :=
  (List.range ((bytes + per - 1) / per)).any (fun c => !oneBank (a + c * per) (min per (bytes - c * per)))

/-- An address outside the context's ranges (R74, R240). -/
def rangeBad (c : Scope) (op : SlotOp) (d : Desc) (vbase : Nat) : Bool :=
  let spans := match op with
    | .row o _ rows => rowSpans o d rows
    | _ => opSpans op d vbase
  spans.any (fun e => !(if e.2.2 then c.writes rgWork e.1 e.2.1 else c.reads e.1 e.2.1))

/-- A grid, table, preload, drain row or row chunk that crosses a bank (R202). -/
def crossBad (op : SlotOp) (d : Desc) (vbase : Nat) : Bool :=
  match op with
  | .row o _ rows => (rowSpans o d rows).any (fun e => chunksBad e.1 e.2.1 (64 * (e.2.1 / rdN d)))
  | .vload _ _ _ => false
  | .vstore _ _ _ => false
  | _ => (opSpans op d vbase).any (fun e => !oneBank e.1 e.2.1)

/-- Bundle k may not issue (R529). `n` is the group's count of bundles. -/
def bundleTraps (c : Scope) (bs : List Bundle) (descs : List Desc) (vbase k : Nat) : Bool :=
  let b := bs.getD k 0
  if bundleBad b || (bnLast b != decide (k + 1 = bs.length)) then true
  else
    let ops := opsTo bs descs k
    let mine := ops.filter (fun o => decide (o.k = k))
    mine.any (fun o => descBad o.op o.desc || ownBad c o.op || (needsFp64 o.op && !c.fp64) || rangeBad c o.op o.desc vbase ||
                       crossBad o.op o.desc vbase) ||
    unitsBad ops k || reductionBad ops k || portsBad ops vbase k

end Sys2Proof.Machine
end

