-- ==== Sys2Proof/Machine/Endpoints.lean ====
section
/-! DEFINITION. The units that the journal holds, and the books of a local rerun (R19, R226, R400). -/

namespace Sys2Proof.Machine

/-- Units of a stream that the journal holds for step n. -/
def State.journaled (s : State) (n num : Nat) : List SUnit :=
  match s.ledger.units.find? (fun u => decide (u.1 = n ∧ u.2.1 = num)) with
  | none => []
  | some u => u.2.2

def State.setJournaled (s : State) (n num : Nat) (l : List SUnit) : State :=
  { s with ledger := { s.ledger with
      units := s.ledger.units.filter (fun u => decide (¬ (u.1 = n ∧ u.2.1 = num))) ++ [(n, num, l)] } }

/-- A stream's book when step n is to run again (R226, R400). A stream from the torus keeps what is on its way, and its receiver reads the
units of the step that came already from the journal; one to the torus keeps its credits; any other is set afresh (DEDUCED). -/
def State.rerunBook (s : State) (n : Nat) (d : StreamD) (b : Stream) : Stream :=
  if epType d.src = epTorus then
    { b with share := [], again := if d.journal then s.journaled n d.num else [], sentStep := 0 }
  else if epType d.dst = epTorus then { b with sentStep := 0 }
  else s.newBook d.num d

/-- The credits of units that leave the share of a stream from the torus go back, since the journal holds them. -/
def State.returnShare (s : State) (d : StreamD) (b : Stream) : State :=
  if epType d.src = epTorus ∧ b.share ≠ [] then
    s.sendFlit ftCredit d.cls (epCoord d.src) d.num (leBytes 2 b.share.length) 0 0
  else s

/-- Set the streams for a rerun of step n; a journaled stream whose source sends again starts its journal anew. -/
def State.rerunStreams (s : State) (n : Nat) : State :=
  match s.image with
  | none => s
  | some im => im.streams.foldl (fun t d =>
      match t.streams.find? (fun b => decide (b.num = d.num)) with
      | none => t
      | some b =>
        let t := t.returnShare d b
        let t := if d.journal ∧ epType d.src ≠ epTorus then t.setJournaled n d.num [] else t
        { t with streams := t.streams.map (fun c => if c.num = d.num then t.rerunBook n d b else c) }) s

end Sys2Proof.Machine
end

