-- ==== Sys2Proof/Machine/Recovery.lean ====
section
/-! DEFINITION. Suspect marks and their check by replay (R337-R356), fencing and proving of cores (R403-R407), and local recovery
from incidents (R397-R402). -/

namespace Sys2Proof.Machine

/- Suspect marks (R337). -/

/-- The counter of 0x5021 that a mark's cause advances (R369): the hits of a scrub or a hub read are parity's too. -/
def MarkCause.counter : MarkCause → Nat
  | .parity => 0x502101
  | .swatch => 0x502102
  | .timeout => 0x502103
  | .host => 0x502104
  | .audit => 0x502105
  | .scrub => 0x502101

/-- The spares of a die that are eligible for logical core l, busy or free (R349): SPARE or in REPLAY, fit, of the generation of the
core that runs l. -/
def State.spares (s : State) (l : Nat) : List Nat :=
  let gen := match s.lcore? l with
    | none => 1
    | some p => s.arithGen (coreDie p)
  (List.range s.grade.cores).filter (fun p =>
    decide (coreDie p = lcoreDie l) && decide (s.coreState p = csSpare ∨ s.coreState p = csReplay) &&
    !s.proving.unfit.contains p && decide (s.arithGen (coreDie p) = gen))

/-- Assign to each logical core, ascending, the lowest-numbered allowed spare not yet taken (R350). -/
def assignCores (free : Nat → List Nat) : List Nat → List Nat → Option (List (Nat × Nat))
  | _, [] => some []
  | taken, l :: t =>
    match (free l).find? (fun p => !taken.contains p) with
    | none => none
    | some p => (assignCores free (p :: taken) t).map (fun r => (l, p) :: r)

/-- A segment has matching spares beside the cores in `out` (R349, R355). -/
def State.hasSpares (s : State) (seg : Nat) (out : List Nat) : Bool := (assignCores s.spares out (s.coresOf seg)).isSome

/-- Put a replay in the queue, ordered by step and then vat (R350). -/
def insReplay (r : Replay) : List Replay → List Replay
  | [] => [r]
  | e :: t => if e.n < r.n ∨ (e.n = r.n ∧ e.vat ≤ r.vat) then e :: insReplay r t else r :: e :: t

def newReplay (n vat : Nat) (w : Which) : Replay :=
  { n := n, vat := vat, which := w, cores := [], running := false, poisoned := false, read := [], met := none }

/-- A replay as it waits to start, again after it was voided. -/
def Replay.rewind (r : Replay) : Replay := newReplay r.n r.vat r.which

/-- The verdict so far of a segment of step n. -/
def State.setVerdict (s : State) (n vat : Nat) (v : Verdict) : State :=
  { s with ledger := { s.ledger with
      verdicts := s.ledger.verdicts.filter (fun e => decide (¬ (e.1 = n ∧ e.2.1 = vat))) ++ [(n, vat, v)] } }

def State.verdict? (s : State) (n vat : Nat) : Option Verdict :=
  (s.ledger.verdicts.find? (fun e => decide (e.1 = n ∧ e.2.1 = vat))).map (fun e => e.2.2)

/-- A segment whose check cannot decide (R353, R355). -/
def State.undecided (s : State) (n vat : Nat) : State := (s.setVerdict n vat .undecided).bump64 0x50210A 1

/-- Send a marked segment of step n to be checked: its first replay, or no matching spares (R349, R353). A segment under check already
stays there. -/
def State.checkSegment (s : State) (n vat : Nat) : State :=
  if (s.verdict? n vat).isSome then s
  else if s.hasSpares vat [] then
    let s := s.setVerdict n vat .waiting
    { s with ledger := { s.ledger with queue := insReplay (newReplay n vat .first) s.ledger.queue } }
  else s.setVerdict n vat .undecided

/-- The outcome of a step under check (R354), once it is decided. -/
inductive CheckOutcome where
  | open_ | discard | unverified (vat : Nat) | keep
  deriving DecidableEq, Repr

/-- Form the outcome of step n from its segments' verdicts (R354). -/
def State.checkOutcome (s : State) (n : Nat) : CheckOutcome :=
  let vs := (s.ledger.verdicts.filter (fun e => decide (e.1 = n))).map (fun e => e.2)
  if vs.any (fun v => decide (v.2 = .discard)) then .discard
  else if vs.any (fun v => match v.2 with
      | .waiting => true
      | .second _ _ => true
      | _ => false) then .open_
  else match vs.find? (fun v => decide (v.2 = .undecided)) with
    | some v => .unverified v.1
    | none => .keep

/-- The step leaves CHECKING ready (R354). -/
def State.keepStep (s : State) (n : Nat) (un : Option Nat) : State :=
  let s := s.updStep n (fun r => { r with st := .provisional, marks := [], unverified := match un with
    | none => r.unverified
    | some v => some v })
  { s with ledger := { s.ledger with verdicts := s.ledger.verdicts.filter (fun v => decide (v.1 ≠ n)) } }.sendReady

/-- The check discards step n and every later one, and the module sends a halt wave (R22, R354). -/
def State.failCheck (s : State) (n cause : Nat) : State :=
  let s := (s.dropReplays (fun r => decide (r.n = n))).bump64 0x502108 1
  (s.discardWhere (fun r => decide (n ≤ r.n)) cause).haltWave cause

/-- Act on the outcome of step n's check. -/
def State.settleCheck (s : State) (n : Nat) : State :=
  match s.step? n with
  | none => s
  | some r =>
    if r.st ≠ .checking then s else
    match s.checkOutcome n with
    | .open_ => s
    | .discard => s.failCheck n 3
    | .unverified v => if s.o kUnverifiedPolicy = 0 then s.failCheck n 4 else s.keepStep n (some v)
    | .keep => s.keepStep n none

/-- A PROVISIONAL step with a mark enters CHECKING, and its marked segments are checked (R21, R337). -/
def State.enterCheck (s : State) (n : Nat) : State :=
  match s.step? n with
  | none => s
  | some r =>
    if r.marks = [] ∨ (r.st ≠ .provisional ∧ r.st ≠ .checking) then s else
    let s := s.setStepSt n .checking
    (r.marks.foldl (fun t m => t.checkSegment n m.1) s).settleCheck n

/-- Mark segments of step n (R337). Marks on a RUNNING step, or on one returned to PENDING by a local rerun, wait; on a FIXED or
DISCARDED step they have no effect. -/
def State.mark (s : State) (n : Nat) (segs : List Nat) (cause : MarkCause) : State :=
  match s.step? n with
  | none => s
  | some r =>
    if !r.open_ || segs.isEmpty then s else
    let s := s.bump64 cause.counter 1
    let s := s.updStep n (fun r => { r with marks := r.marks ++ (segs.map (fun v => (v, cause))) })
    s.enterCheck n

/-- Mark the segment of a core for the step it runs; a core in REPLAY leaves its replay undecided instead (R198, R355). -/
def State.consumePoison (s : State) (p x : Nat) : State :=
  let s := (s.put (kCore p 5) (s.o (kCore p 5) ||| 2)).bump32 (kCore p 7) 1
  let c := (s.core p).ctx x
  if s.coreState p = csReplay then
    { s with ledger := { s.ledger with queue := s.ledger.queue.map (fun r =>
        if r.running ∧ r.cores.any (fun e => decide (e.2 = p)) then { r with poisoned := true } else r) } }
  else match s.segmentOf c.bind.vat with
    | none => s
    | some g => s.mark c.step [g] .parity

/- Suspect marks on cores, fencing and proving (R403-R407). -/

/-- Place a suspect mark on a core (R403): SUSPECT_MARKS over the last 24 h, at most 255. -/
def State.suspectCore (s : State) (p : Nat) : State := s.put (kCore p 0x0F) (min 255 (s.o (kCore p 0x0F) + 1))

/-- Isolate a core as FENCED, or RETIRED when FENCE_COUNT reaches RETIRE_FENCES (R403, R404). -/
def State.isolate (s : State) (p : Nat) : State :=
  let former := s.o (kCore p 2)
  let s := s.clearCore p
  let n := min 15 (s.o (kCore p 0x10) + 1)
  let s := ((s.put (kCore p 0x10) n).put (kCore p 0x13) 0).setCoreState p csFenced
  let s := { s with proving := { s.proving with active := s.proving.active.filter (fun e => decide (e.1 ≠ p)) } }
  let s := s.raise 0x0201 p former
  if s.o 0xC01003 ≤ n then (s.setCoreState p csRetired).raise 0x0202 p 0 else s

/-- The logical number that a physical core holds. -/
def State.numberOf (s : State) (p : Nat) : Option Nat :=
  (List.range s.grade.lcores).find? (fun l => decide (s.lcore? l = some p))

/-- Give logical number l to the lowest-numbered fit SPARE of its die, or to no core (R250). -/
def State.remap (s : State) (p l : Nat) : State :=
  let spare := (List.range s.grade.cores).find? (fun q =>
    decide (coreDie q = lcoreDie l ∧ s.coreState q = csSpare) && !s.proving.unfit.contains q)
  let s := s.setLcore l spare
  let s := if spare.isSome then s.bump32 0x202100 1 else s
  let s := { s with proving := { s.proving with remap := s.proving.remap ++ [(p, l)] } }
  match spare with
  | none => s
  | some q => s.setCoreState q csActive

/-- Fence a core (R404): it is reset and isolated, and a logical number it holds moves; the remap completes later (R405). -/
def State.fence (s : State) (p : Nat) : State :=
  if s.coreState p = csRetired then s else
  match s.numberOf p with
  | none => s.isolate p
  | some l => (s.isolate p).remap p l

/-- A core is reset and shows the logical number that it holds, which only a fence takes from it (R76, R250). -/
def State.resetShown (s : State) (p : Nat) : State :=
  let s := s.clearCore p
  match s.numberOf p with
  | none => s
  | some l => s.put (kCore p 2) l

/-- Begin a proving of core p from its state (R403). The core is reset (R408). -/
def State.prove (s : State) (p : Nat) : State :=
  (s.resetShown p).beginProving p

/-- Core p, whose periodic proving is due, is proved now (R407, R488): it is SPARE or FENCED, no other core of its die is being proved, and the
host has not put the proving off. A core that a replay holds waits; one in another state is due no more. -/
def State.proveIfDue (s : State) (p : Nat) : State :=
  if s.coreState p = csSpare ∨ s.coreState p = csFenced then
    if !s.hubUp || s.obit kBgDefer 3 || s.proving.active.any (fun e => decide (coreDie e.1 = coreDie p)) then s
    else { s with proving := { s.proving with pass := true } }.prove p
  else if s.coreState p = csReplay then s
  else { s with proving := { s.proving with due := delSet p s.proving.due } }

/-- The cores whose proving is due, in ascending order (R407). -/
def State.proveDue (s : State) : State := s.proving.due.foldl State.proveIfDue s

/-- End a replay's hold on its cores: SPARE, or PROVING when marked suspect or due (R356, R403, R407). -/
def State.releaseCores (s : State) (ps : List Nat) : State :=
  (ps.foldl (fun t p =>
    if t.coreState p ≠ csReplay then t else
    let t := (t.clearCore p).setCoreState p csSpare
    if p ∈ t.proving.marked then t.prove p else t) s).proveDue

/-- Mark cores suspect after a check (R353): first-replay spares go to proving, original cores are proved at the rollback. -/
def State.suspectCores (s : State) (ps : List Nat) : State :=
  ps.foldl (fun t p =>
    let t := t.suspectCore p
    if t.coreState p = csSpare then t.prove p
    else if t.coreState p = csActive then { t with proving := { t.proving with marked := insSet p t.proving.marked } }
    else if t.coreState p = csReplay then { t with proving := { t.proving with marked := insSet p t.proving.marked } }
    else t) s

/- Local recovery (R401, R402). -/

/-- The first step that is not FIXED. -/
def State.firstUnfixed (s : State) : Nat := s.lastFixed + 1

/-- The image has a stream with the expansion site. -/
def State.hasExpansionStreams (s : State) : Bool := match s.image with
  | none => false
  | some im => im.streams.any (fun d => decide (d.src.toNat / 2 ^ 28 = 2 ∨ d.dst.toNat / 2 ^ 28 = 2))

/-- STREAM_RESET(n) to the partner, n the first step that is not FIXED (R290, R291, R401). -/
def State.streamReset (s : State) : State :=
  if s.hasExpansionStreams then (s.bump32 0x730007 1).emit (.sideband .expansion 5 s.firstUnfixed) else s

/-- Local recovery is complete (R32, R33, R401): RUNNING, or STOPPING with a stop pending; steps run on. -/
def State.recovered (s : State) : State :=
  let s := { s with ledger := { s.ledger with recovery := none } }
  if s.mstate ≠ .recovering then s
  else if s.steps.stopPending then (s.setM .stopping).checkStop
  else (s.setM .running).issue

/-- Abandon the RUNNING steps into PENDING for a local rerun (R21, R400, R401). Each keeps what its run has met: the incident, for step n, or nothing. -/
def State.rerunSteps (s : State) (i : Option (Incident × Nat)) : State :=
  let runs := s.steps.list.filter (fun r => decide (r.st = .running))
  let s := s.abandon (fun _ => true)
  let s := runs.foldl (fun t r =>
    ((t.onWritten r.n Gran.drop).updStep r.n (fun r => { r with
      st := .pending, reruns := r.reruns + 1, tokens := [], digests := [], maxima := [], chosen := [], swatchOwing := [], passedTorus := false,
      met := match i with
        | none => none
        | some i => if i.2 = r.n then some i.1 else none })).bump64 0x504303 1) s
  ((runs.foldl (fun t r => t.rerunStreams r.n) s).dropSwatches (fun n => runs.any (fun r => decide (r.n = n)))).setM .recovering

/-- A RUNNING step has passed a unit to the torus: an incident is not covered (R399). -/
def State.passedOut (s : State) : Bool := s.steps.list.any (fun r => decide (r.st = .running) && r.passedTorus)

/-- What is lost outside the module's cores is covered (R399, R402): no RUNNING step has passed a unit to the torus, and none has reached the
limit of reruns. -/
def State.covers (s : State) : Bool :=
  !s.passedOut && s.steps.list.all (fun r => decide (r.st = .running → r.reruns < s.o 0x504500))

/-- Local recovery without a suspect (R291, R411): the RUNNING steps run again once their vats have stopped and every reset is over. -/
def State.rerunLocal (s : State) : State :=
  let s := s.rerunSteps none
  match s.ledger.recovery with
  | some _ => s
  | none => { s with ledger := { s.ledger with recovery := some { incident := none, step := s.firstUnfixed, suspects := [],
                                                                  quiesced := false, proved := true } } }

/-- A halt wave with cause PROGRAM (R401, R402): AUTO_RESUME is written 0. -/
def State.programFault (s : State) (i : Incident) : State :=
  (((s.put kAutoResume 0).bump32 0x504305 1).raise 0x0203 i.p (i.ctx + i.queue * 4)).haltWave 2

/-- Two incidents are of the same kind in the same context at the same command (R401). -/
def Incident.same (i j : Incident) : Bool :=
  decide (i.kind = j.kind ∧ i.lcore = j.lcore ∧ i.ctx = j.ctx ∧ i.queue = j.queue ∧ i.count = j.count)

/-- An incident in a step's own run (R397-R402). The suspects are (core, context) pairs. While the hub is in reset their cores are marked, and
proved in the rollback that follows its return (R412; log 126). -/
def State.stepIncident (s : State) (i : Incident) (n : Nat) (suspects : List (Nat × Nat)) : State :=
  let segs := suspects.foldl (fun l e => match s.segmentOf ((s.core e.1).ctx e.2).bind.vat with
    | none => l
    | some g => insSet g l) []
  match s.step? n with
  | none => s
  | some r =>
    let s := (s.bump64 0x504301 1).mark n segs .timeout
    if !s.hubUp then s.markCores (suspects.map (fun e => e.1))
    else if r.met.any (fun j => i.same j) then (s.markCores (suspects.map (fun e => e.1))).programFault i
    else if s.passedOut then (s.markCores (suspects.map (fun e => e.1))).haltWave 1
    else if s.o 0x504500 ≤ r.reruns then (s.markCores (suspects.map (fun e => e.1))).haltWave 1
    else
      let s := ((s.bump64 0x504302 1).suspectCore i.p).rerunSteps (some (i, n))
      let s := s.streamReset
      { s with ledger := { s.ledger with recovery := some { incident := some i, step := n, suspects := suspects,
                                                            quiesced := false, proved := false } } }

/-- Cores that a replay must not use: those of the first replay of its segment. -/
def State.usedFirst (s : State) (r : Replay) : List Nat :=
  if r.which ≠ .second then [] else match s.verdict? r.n r.vat with
    | some (.second _ ps) => ps
    | _ => []

/-- A waiting replay can no longer have the spares that it needs (R349): not beside its first replay's cores, nor with those in PROVING. -/
def State.sparesGone (s : State) (r : Replay) : Bool :=
  let back := fun (l : Nat) => s.spares l ++ (List.range s.grade.cores).filter (fun p =>
    decide (coreDie p = lcoreDie l) && s.proving.active.any (fun e => decide (e.1 = p ∧ e.2 = csSpare)))
  (assignCores back (s.usedFirst r) (s.coresOf r.vat)).isNone

/-- A waiting replay of a check without matching spares leaves its segment undecided (R353, R355). -/
def State.settleSpares (s : State) (r : Replay) : State :=
  if r.which = .suspect ∨ !s.sparesGone r then s
  else
    let s := { s with ledger := { s.ledger with queue := s.ledger.queue.filter (fun e => decide (¬ (e.n = r.n ∧ e.vat = r.vat))) } }
    (if r.which = .second then s.undecided r.n r.vat else s.setVerdict r.n r.vat .undecided).settleCheck r.n

/-- A timeout on a spare voids its replay: the spare is fenced, and the replay waits for other spares (R40, R353). -/
def State.voidReplay (s : State) (p : Nat) : State :=
  match s.ledger.queue.find? (fun r => r.running && r.cores.any (fun e => decide (e.2 = p))) with
  | none => s.fence p
  | some r =>
    let others := (r.cores.map (fun e => e.2)).filter (fun q => decide (q ≠ p))
    let s := { s with ledger := { s.ledger with queue := s.ledger.queue.map (fun e =>
      if e = r then r.rewind else e) } }
    (((s.dropBooks r).releaseCores others).fence p).settleSpares r.rewind

/-- Which running replay a core serves. -/
def State.replayOf (s : State) (p : Nat) : Option Replay :=
  s.ledger.queue.find? (fun r => r.running && r.cores.any (fun e => decide (e.2 = p)))

/-- An incident on a core (R397, R398): in a replay it voids it, but a suspect's replay keeps the first for its judgement (R401); in a step's
own run it is recovered or halts the job. -/
def State.incident (s : State) (i : Incident) (suspects : List (Nat × Nat)) : State :=
  if s.coreState i.p = csReplay then
    match s.replayOf i.p with
    | none => s
    | some r =>
      if r.which = .suspect then { s with ledger := { s.ledger with queue := s.ledger.queue.map (fun e =>
        if e = r then { r with met := some (r.met.getD i) } else e) } }
      else if s.hubUp then s.voidReplay i.p else s.markCores [i.p]
  else s.stepIncident i ((s.core i.p).ctx i.ctx).step suspects

/-- A group of context x issues no further bundle; what it has issued lands (R50, R400). -/
def Group.stopFor (g : Group) (x : Nat) : Group := if g.ctx = x then { g with trapped := true } else g

/-- A trap of a context (R50): it stops, STATUS.TRAP is set, its group issues no more, and the module handles it as a command timeout
of that context. `queue` is 5 for the control core. -/
def State.trap (s : State) (p x queue count : Nat) : State :=
  let c := s.core p
  let k := c.ctx x
  let c := { c.setCtx x { k with running := false, stopped := true } with
             group := c.group.map (fun g => g.stopFor x) }
  let s := (s.setCore p c).put (kCore p 5) (s.o (kCore p 5) ||| 4)
  (s.bump32 (kCore p 8) 1).incident { kind := .trap, p := p, lcore := k.bind.lcore, ctx := x, queue := queue, count := count } [(p, x)]

/-- A parity hit in a context's control state (R197): the context stops with its group, STATUS.PARITY is set, and it is handled as a timeout
of it. -/
def State.controlHit (s : State) (p x : Nat) : State :=
  let c := s.core p
  let k := c.ctx x
  let c := { c.setCtx x { k with running := false, stopped := true } with group := c.group.map (fun g => g.stopFor x) }
  let s := (s.setCore p c).put (kCore p 5) (s.o (kCore p 5) ||| 2)
  (s.bump32 (kCore p 7) 1).incident { kind := .control, p := p, lcore := k.bind.lcore, ctx := x, queue := 5, count := k.executed } [(p, x)]

end Sys2Proof.Machine
end

