-- ==== Sys2Proof/Machine/CoreRun.lean ====
section
/-! DEFINITION. Shared operations of a running core: what its cycles tell the module, queues with their head checks (R50-R54), the
choice of the next command (R60), and completion (R52, R55). -/

namespace Sys2Proof.Machine

/-- Engine numbers are queue numbers (R52); 5 is the control core (R59, R401). -/
def qLoad : Nat := 0
def qStore : Nat := 1
def qBundle : Nat := 2
def qControl : Nat := 5

/- Cycles. -/

/-- The command of a queue that a context runs. -/
def Ctx.current (k : Ctx) (q : Nat) : Option (Line × Nat) := if SMap.has q k.taken then some (SMap.get default q k.taken) else none

def Ctx.queue (k : Ctx) (q : Nat) : List Line := SMap.get [] q k.queues

/-- Position of the head of a queue among the entries pushed to it (R401). -/
def Ctx.headPos (k : Ctx) (q : Nat) : Nat := SMap.get 0 q k.pushed + 1 - (k.queue q).length

/-- Position of the running command, or of the head where none runs. -/
def Ctx.cmdPos (k : Ctx) (q : Nat) : Nat := if (k.current q).isSome then k.headPos q - 1 else k.headPos q

/-- What a cycle of core p tells the module. -/
def State.eff (p : Nat) (s : State) (e : Eff) : State :=
  match e with
  | .consume x => s.consumePoison p x
  | .count key n => if n = 0 then s else s.bump64 key n
  | .flags f => s.vecFlags p f
  | .trap x => s.trap p x qBundle (((s.core p).ctx x).cmdPos qBundle)
  | .captured n => s.updStep n (fun r => { r with swatchOwing := insSet p r.swatchOwing })

def State.effs (s : State) (p : Nat) (es : List Eff) : State := es.foldl (State.eff p) s

/-- One cycle of core p. -/
def State.tick (s : State) (p : Nat) : State :=
  let r := (s.core p).tick
  (s.setCore p r.1).effs p r.2

/-- n cycles. -/
def State.ticks (s : State) (p : Nat) : Nat → State
  | 0 => s
  | n + 1 => (s.tick p).ticks p n

/-- Issue what the bundle of this cycle has left, then let n cycles pass. -/
def State.advance (s : State) (p n : Nat) : State := (s.setCore p (s.core p).flushIssued).ticks p n

/-- Cycles until every write has landed, and for the operations that land nothing, where `all`, until their occupancy ends (R50, R63). -/
def Core.settleCycles (c : Core) (all : Bool) : Nat :=
  let pend := c.pend.foldl (fun m w => max m (w.at_ - c.cycle)) 0
  c.flight.foldl (fun m f =>
    let l := f.op.landing f.desc
    if l ≠ 0 then max m (f.t + l - c.cycle) else if all then max m (f.t + f.op.occupancy f.desc - c.cycle) else m) pend

/-- Let a core's issued operations land. -/
def State.settle (s : State) (p : Nat) (all : Bool) : State :=
  let s := s.setCore p (s.core p).flushIssued
  s.ticks p ((s.core p).settleCycles all)

/- Contexts. -/

/-- What context x of core p may use. -/
def State.scope (s : State) (k : Ctx) : Scope := { own := k.bind.own, ranges := k.ranges, fp64 := s.grade.fp64 }

/-- The context runs engine commands: bound, and not stopped by a trap or ABANDON. -/
def Ctx.alive (k : Ctx) : Bool := k.bound && !k.stopped

/-- The control core takes an instruction of the context: it runs, and no PUSH, WAITSC or STEPEND holds it (R53, R55, R51). -/
def Ctx.steps (k : Ctx) : Bool := k.alive && k.running && decide (k.stall = .none)

/-- The module runs cores: it is powered, out of reset, and has an image. -/
def State.coresRun (s : State) (p : Nat) : Bool :=
  decide (s.mstate ∉ [MState.off, .boot]) && !s.power.rstAsserted && s.image.isSome && s.dieUp (coreDie p) &&
  decide (s.coreState p = csActive ∨ s.coreState p = csReplay)

/-- An event of core p: p names a core of the grade, or the command is ill-formed. -/
def State.onCore (s : State) (p : Nat) (f : Core → Out) : Out :=
  if s.grade.cores ≤ p then .refused .illFormed
  else if s.coresRun p then f (s.core p) else .next s

def State.setCtx (s : State) (p x : Nat) (k : Ctx) : State := s.setCore p ((s.core p).setCtx x k)

/- Registers and counters (R45, R55). -/

def Ctx.reg (k : Ctx) (r : Fin 32) : W32 := if r.val = 0 then 0 else SMap.get 0 r.val k.g
def Ctx.setReg (k : Ctx) (r : Fin 32) (v : W32) : Ctx := if r.val = 0 then k else { k with g := SMap.put 0 r.val v k.g }
def Ctx.counter (k : Ctx) (c : Nat) : W16 := SMap.get 0 c k.sc
def Ctx.bump (k : Ctx) (c : Nat) : Ctx := { k with sc := SMap.put 0 c (k.counter c + 1) k.sc }

/- Queues. -/

/-- The head of a queue has its wait satisfied (R54, R55). -/
def Ctx.headReady (k : Ctx) (q : Nat) : Bool :=
  match k.queue q with
  | [] => false
  | e :: _ => !entWaitEn e || scSatisfied (k.counter (entWaitCtr e)).toNat (entWaitVal e)

/-- The bundles and the descriptor table of a queue-2 entry lie in STATIC ranges that the context lists (R529). -/
def groupInStatic (c : Scope) (e : Line) : Bool :=
  c.inKind rgStatic (entGroupAddr e) (16 * entGroupCount e) && c.inKind rgStatic (entDescAddr e) 512

/-- The check of an entry that reaches the head of its queue (R50, R529): a bad one traps and is never started. -/
def State.headCheck (s : State) (p x q : Nat) : State :=
  let k := (s.core p).ctx x
  match k.queue q with
  | [] => s
  | e :: _ =>
    if entryBad q e || (decide (q = qBundle) && !groupInStatic (s.scope k) e) then s.trap p x q (k.headPos q) else s

/-- The context whose command an engine starts next (R60): the first with a ready head after the one it last served. -/
def Core.nextFor (c : Core) (q : Nat) : Option Nat :=
  let last := SMap.get 3 q c.lastServed
  ((List.range 4).map (fun i => (last + 1 + i) % 4)).find? (fun x => (c.ctx x).alive && (c.ctx x).headReady q)

/-- The context whose group starts at the bundle engine's boundary (R60): the one chosen there, while its head still stands with its wait
satisfied; else the first whose head is ready. -/
def Core.groupTurn (c : Core) : Option Nat :=
  match c.turn with
  | some x => if (c.ctx x).alive && (c.ctx x).headReady qBundle then some x else c.nextFor qBundle
  | none => c.nextFor qBundle

/-- The context whose instruction the control core takes next (R59): the first that is not stalled or stopped after the one it last served. -/
def Core.nextControl (c : Core) : Option Nat :=
  let last := SMap.get 3 qControl c.lastServed
  ((List.range 4).map (fun i => (last + 1 + i) % 4)).find? (fun x => (c.ctx x).steps)

/-- The engine is free: it has not halted, and it runs no command of a context; a stopped context's command has stopped (R50, R400). -/
def Core.engineFree (c : Core) (q : Nat) : Bool :=
  !c.halted.contains q && c.ctxs.all (fun k => k.stopped || (k.current q).isNone)

/-- The engine takes the head of context x's queue: the next entry reaches the head. -/
def State.takeHead (s : State) (p x q : Nat) : State :=
  let c := s.core p
  let k := c.ctx x
  match k.queue q with
  | [] => s
  | e :: t =>
    let k := { k with queues := SMap.put [] q t k.queues, taken := SMap.ins q (e, 0) k.taken }
    (s.setCore p { c.setCtx x k with lastServed := SMap.ins q x c.lastServed }).headCheck p x q

/-- The entry that an engine starts for context x, when that is its turn. -/
def Core.startable (c : Core) (q x : Nat) : Option Line :=
  if c.engineFree q ∧ c.nextFor q = some x then (c.ctx x).queue q |>.head? else none

/-- Set the progress of a running command. -/
def State.progress (s : State) (p x q n : Nat) : State :=
  let k := (s.core p).ctx x
  match k.current q with
  | none => s
  | some e => s.setCtx p x { k with taken := SMap.ins q (e.1, n) k.taken }

/-- The progress with which a command is complete: units for a stream command, 1 for any other (R52). -/
def cmdTotal (q : Nat) (e : Line) : Nat := if 3 ≤ q then stCount e else 1

/-- A running command completes and signals its counter (R54, R55). -/
def State.finishCmd (s : State) (p x q : Nat) : State :=
  let k := (s.core p).ctx x
  match k.current q with
  | none => s
  | some e =>
    let k := { k with taken := SMap.del q k.taken, chains := SMap.del q k.chains }
    s.setCtx p x (if entSigEn e.1 then k.bump (entSigCtr e.1) else k)

/-- The fault of an engine's access (R222): the address and cause are recorded, and the context traps. -/
def State.accessFault (s : State) (p x q : Nat) (addr : Int) (cause : Nat) : State :=
  let s := (s.put (kCore p 0x0C) (addr % 2 ^ 64).toNat).put (kCore p 0x0D) cause
  s.trap p x q (((s.core p).ctx x).cmdPos q)

/-- The context has nothing left in its queues or engines (R51). -/
def Ctx.idle (k : Ctx) : Bool := k.taken.isEmpty && k.queues.all (fun e => decide (e.2 = []))

end Sys2Proof.Machine
end

