-- ==== Sys2Proof/Machine/Messages.lean ====
section
/-! DEFINITION. How the module takes a module message (R316, R317). -/

namespace Sys2Proof.Machine

/-- The port of a message that the module sends itself. -/
def ownPort : Nat := 6

/-- Take a module message: on an ACTIVE port, for this job, not poisoned; a foreign or a poisoned one is counted (R317). -/
def State.onMsg (s : State) (m : Msg) (f : State → State) : Out :=
  if ownPort < m.port then .refused .illFormed
  else if !s.hubUp || (decide (m.port ≠ ownPort) && decide (s.linkState m.port ≠ lsActive)) then .next s
  else if m.jobId.toNat ≠ s.jobId then .next (s.bump32 (kLink (m.port % 6) 0x0F) 1)
  else if m.poisoned then .next (s.bump32 (kLink (m.port % 6) 0x0A) 1)
  else .next (f s)

/-- A flood as it is forwarded (R317): SRC and the payload unchanged. -/
def floodFlit (tag : Nat) (m : Msg) : Flit :=
  { header := flitHeader ftData 0 dstFlood m.coord.toNat tag 32 0 0,
    payload := messageBytes m.jobId.toNat m.msgId.toNat m.step.toNat m.word.toNat m.value.toNat, crc := 0, fecOk := true, fecFixed := 0 }

/-- Take a flood message (R317): a first copy is noted, forwarded and acted on; later copies, and copies of the
module's own, are discarded. -/
def State.onFlood (s : State) (m : Msg) (tag : Nat) (f : State → State) : Out :=
  s.onMsg m (fun s =>
    let key := (tag, m.coord.toNat, m.msgId.toNat)
    if s.steps.seen.contains key || decide (m.coord.toNat = s.coord) then s
    else
      let t : State := { s with steps := { s.steps with seen := s.steps.seen ++ [key] } }
      f (t.sendOn (s.floodPorts m.port) (floodFlit tag m)))

end Sys2Proof.Machine
end

