-- ==== Sys2Proof/Machine/Mirror.lean ====
section
/-! DEFINITION. The partner mirror (R357-R367, R531): the source's deltas, the receiver, and the repair of a fixed granule (R39, R366). -/

namespace Sys2Proof.Machine

/-- No step: 2^64 - 1. -/
def noStep : Nat := 2 ^ 64 - 1

/-- The need of the bound image, MiB (R358). -/
def State.mirrorNeed (s : State) : Nat := 2 * s.granules.length

/-- Send MIRROR_OPEN (R360). -/
def State.sendOpen (s : State) : State :=
  { s with mirror := { s.mirror with opened := true, openWait := true } }.sendPartner 0xF101 s.lastFixed 0 s.mirrorNeed []

/-- MIRROR_OPEN at the first RUN_STEPS after a load or a restore. -/
def State.firstOpen (s : State) : State :=
  if s.o kMirrorEnable = 1 ∧ ¬ s.mirror.opened then (if s.partnerUp then s.sendOpen else { s with mirror := { s.mirror with opened := true } })
  else s

/- The source. -/

/-- Every FIXED step up to m becomes MIRRORED (R21, R363). -/
def State.mirrored (s : State) (m : Nat) : State :=
  ({ s with steps := { s.steps with list := s.steps.list.map (fun (r : StepRec) => if r.st = .fixed ∧ r.n ≤ m then { r with st := .mirrored } else r) } } : State).put
    kLastMirrored m

/-- Granules of the image with their dirty marks. -/
def State.dirtyGranules (s : State) : List Nat := s.granules.filter (fun g => (s.gran g).dirty)

/-- Pin the fixed slots of granules for a delta, clearing their marks (R361). -/
def State.pinMirror (s : State) (gs : List Nat) : State :=
  gs.foldl (fun t g => let r := t.gran g
                       t.setGran g { r with dirty := false, mirrorPin := some r.fixedSlot }) s

/-- Start a delta for LAST_FIXED (R361). -/
def State.startDelta (s : State) : State :=
  let gs := s.dirtyGranules
  if gs = [] then s else
  let m := s.lastFixed
  let t := s.pinMirror gs
  let d : Delta := { m := m, all := gs.map (fun g => (g, (s.gran g).fixedSlot)), unsent := gs, ended := false }
  { t with mirror := { t.mirror with delta := some d } }.sendPartner 0xF102 m 0 gs.length []

/-- MIRROR_DELTA_START (R361): mirroring is on and answered, no delta is in flight, and the partner link carries messages. -/
def execMirrorDeltaStart (s : State) : Out :=
  if s.hubUp && s.image.isSome && decide (s.o kMirrorEnable = 1) && s.mirror.opened && !s.mirror.openWait && s.mirror.delta.isNone &&
      s.partnerUp then .next s.startDelta
  else .next s

/- Repair of a fixed granule (R39, R366). -/

/-- The partner holds a granule at the current fixed step. -/
def State.mirrorHolds (s : State) (g : Nat) : Bool :=
  s.mirror.base.isSome && s.partnerUp && !(s.gran g).dirty && !s.mirror.partnerInvalid.contains g &&
  (match s.mirror.delta with
   | none => true
   | some d => !d.all.any (fun e => decide (e.1 = g)))

/-- A fixed granule is lost (R39): a halt wave with cause PARITY_STATE; the shards that have not read the slot that hit fail (R40, R377). -/
def State.parityHalt (s : State) (e : Nat × Nat) : State := (s.haltWave 5).failShards (fun h => h.blocks.contains e) 5

/-- Ask the partner for the granule whose repair is next. -/
def State.sendRead (s : State) : State :=
  match s.mirror.repairs, s.mirror.base with
  | g :: _, some b => { s with mirror := { s.mirror with asked := s.mirror.asked ++ [some true] } }.sendPartner 0xF108 b (s.granuleNumber g.1) 0 []
  | _, _ => s

/-- A parity hit in the fixed slot of a granule (R39). -/
def State.parityFixed (s : State) (g : Nat) : State :=
  let e := (g, (s.gran g).fixedSlot)
  if s.mirror.repairs.contains e then s
  else if s.mirrorHolds g then
    let t := { s with mirror := { s.mirror with repairs := s.mirror.repairs ++ [e] } }
    if s.mirror.repairs = [] then t.sendRead else t
  else s.parityHalt e

/-- A granule is repaired from the partner's bytes, or lost without them. Where the slot that hit is no longer the fixed slot, the step that
fixed the other one has replaced it and nothing is repaired (R23); where the granule has changed in its fixed slot meanwhile, the
partner's bytes are not its value at the current fixed step (R39). -/
def State.repair (s : State) (e : Nat × Nat) (bytes : Option (List Byte)) : State :=
  if (s.gran e.1).fixedSlot ≠ e.2 then s else
  match bytes with
  | none => s.parityHalt e
  | some b => if s.mirrorHolds e.1 then (s.hbmWrite (s.slotAddr e.1 e.2) b false).bump64 0x503508 1 else s.parityHalt e

/-- The repair read of the first granule is answered: with its bytes, or not. The next one follows. -/
def State.repairAnswer (s : State) (bytes : Option (List Byte)) : State :=
  match s.mirror.repairs with
  | [] => s
  | e :: t => ({ s with mirror := { s.mirror with repairs := t } }.repair e bytes).sendRead

/-- MIRROR_GRANULE_SENT (R361, R362): the next granule of the delta is coded from its pinned slot and sent, its pin goes, and MIRROR_END
follows the last. A pinned slot that no longer reads sound falls under R39, and ends the delta. -/
def State.sendGranule (s : State) (d : Delta) (g : Nat) (rest : List Nat) : State :=
  let slot := ((d.all.find? (fun e => decide (e.1 = g))).getD (g, 0)).2
  let a := s.slotAddr g slot
  if s.hbmHit a mib then s.abandonDelta.parityFixed g
  else
    let code := codeGranule (s.hbmBytes a mib)
    let s := s.setGran g { s.gran g with mirrorPin := none }
    let s := ((s.bump64 0x503503 mib).bump64 0x503504 code.length).sendPartner 0xF103 d.m (s.granuleNumber g) code.length code
    let s := { s with mirror := { s.mirror with delta := some { d with unsent := rest, ended := rest.isEmpty } } }
    if rest = [] then s.sendPartner 0xF104 d.m 0 d.all.length [] else s

def execMirrorGranuleSent (s : State) : Out :=
  if !s.hubUp || !s.partnerUp then .next s else
  match s.mirror.delta with
  | none => .next s
  | some d => match d.unsent with
    | [] => .next s
    | g :: t => .next (s.sendGranule d g t).settleHeld

/-- A delta is acknowledged (R363, R531): its target is the base. -/
def State.ackDelta (s : State) (d : Delta) : State :=
  let sent := d.all.map (fun e => e.1)
  ({ s with mirror := { s.mirror with delta := none, base := some d.m, row := 0,
                                      partnerInvalid := s.mirror.partnerInvalid.filter (fun g => !sent.contains g) } }.bump64
    0x503501 1).mirrored d.m

/-- Mark every granule of the image dirty (R360). -/
def State.allDirty (s : State) : State := s.markDirty s.granules

/-- The answer to MIRROR_OPEN (R360, R531). -/
def State.openAnswer (s : State) (step : Nat) (refused : Bool) : State :=
  let s := { s with mirror := { s.mirror with openWait := false } }
  match s.mirror.base with
  | none => s.allDirty
  | some b => if !refused && decide (step = b) then s.mirrored b else s.allDirty

/-- MIRROR_ACK (R360, R363, R531). -/
def execMirrorAck (m : Msg) (s : State) : Out :=
  s.onMsg m (fun s =>
    if m.coord.toNat ≠ s.partner then s
    else if s.mirror.openWait then s.openAnswer m.step.toNat (m.word.getLsbD 0)
    else match s.mirror.delta with
      | none => s
      | some d => if !d.ended then s
                  else if m.word.getLsbD 0 then s.abandonDelta.settleHeld
                  else if m.step.toNat = d.m then s.ackDelta d else s)

/-- The key of a granule number. -/
def State.granuleKey (s : State) (k : Nat) : Option Nat := s.granules[k]?

/-- MIRROR_INVALID (R365): the granule is dirty again. -/
def execMirrorInvalid (m : Msg) (s : State) : Out :=
  s.onMsg m (fun s =>
    match s.granuleKey m.word.toNat with
    | none => s
    | some g => if m.coord.toNat ≠ s.partner then s
                else { s with mirror := { s.mirror with partnerInvalid := insSet g s.mirror.partnerInvalid } }.markDirty [g])

/- The receiver. -/

/-- The address of reserve MiB j (R358), where the reserve holds it. -/
def State.reserveAddr (s : State) (j : Nat) : Option Nat :=
  let share := s.mirrorShare
  if share = 0 ∨ s.grade.dies ≤ j / share then none
  else some (hbmAddr (j / share) (s.ledgerBase (j / share) - share * mib + j % share * mib))

/-- The slot of a granule that holds its value at M; none where nothing is held. -/
def State.inSlotOf (s : State) (g : Nat) : Option Nat := match SMap.get 0 g s.mirror.inMap with
  | 0 => none
  | k + 1 => some k

/-- The slot that the next delta writes. -/
def State.inOther (s : State) (g : Nat) : Nat := match s.inSlotOf g with
  | none => 0
  | some k => 1 - k

def State.inStep (s : State) : Nat := s.o 0x503506

/-- A complete mirror at step M is held: every granule of the need, none invalid (R360, R365). -/
def State.inComplete (s : State) : Bool :=
  decide (s.inStep ≠ noStep) && s.mirror.inInvalid.isEmpty &&
  (List.range (s.mirror.inNeed / 2)).all (fun g => (s.inSlotOf g).isSome)

/-- INBOUND_INVALID follows the invalid granules (R369). -/
def State.countInvalid (s : State) : State := s.put 0x503507 s.mirror.inInvalid.length

/-- The inbound map clears (R359, R360, R503). -/
def State.clearInbound (s : State) : State :=
  ({ s with mirror := { s.mirror with inMap := [], inInvalid := [], inPartial := none } }.countInvalid).put 0x503506 noStep

/-- The inbound mirror has no source, and its map is clear (R360). -/
def State.dropSource (s : State) : State := { s.clearInbound with mirror := { s.clearInbound.mirror with inSource := none, inNeed := 0 } }

/-- Answer a mirror message. -/
def State.ackTo (s : State) (dest step word : Nat) : State := s.sendClass1 dest 0xF106 step word 0 []

/-- Accept a source with its need: another need starts an empty map. -/
def State.takeSource (s : State) (c need : Nat) : State :=
  let s := if s.mirror.inNeed ≠ need then s.clearInbound else s
  { s with mirror := { s.mirror with inSource := some c, inNeed := need, inPartial := none } }

/-- MIRROR_OPEN (R360). -/
def execMirrorOpen (m : Msg) (s : State) : Out :=
  s.onMsg m (fun s =>
    let c := m.coord.toNat
    if s.mirror.inSource.isSome ∧ s.mirror.inSource ≠ some c then (s.raise 0x0403 c 0).ackTo c s.inStep 1
    else
      let s := s.takeSource c m.value.toNat
      s.ackTo c (if s.inComplete then s.inStep else noStep) 0)

/-- A message of the inbound source. -/
def State.fromSource (s : State) (m : Msg) (f : State → State) : Out :=
  s.onMsg m (fun s => if s.mirror.inSource = some m.coord.toNat then f s else s)

/-- MIRROR_BEGIN (R367). -/
def execMirrorBegin (m : Msg) (s : State) : Out :=
  s.fromSource m (fun s =>
    { s with mirror := { s.mirror with inPartial := some { m := m.step.toNat, count := m.value.toNat, got := [], good := true } } })

/-- A granule of a delta arrives (R363): written into the slot that does not hold its value at M, where it decodes. -/
def State.takeGranule (s : State) (d : Partial) (g : Nat) (code : List Byte) : State :=
  match decodeGranule code, s.reserveAddr (2 * g + s.inOther g) with
  | some b, some a =>
    { s with mirror := { s.mirror with inPartial := some { d with got := insSet g d.got } } }.hbmWrite a b false
  | _, _ => { s with mirror := { s.mirror with inPartial := some { d with good := false } } }

/-- MIRROR_GRANULE (R363). -/
def execMirrorGranule (m : Msg) (s : State) : Out :=
  s.fromSource m (fun s =>
    match s.mirror.inPartial with
    | none => s
    | some d => if d.m = m.step.toNat then s.takeGranule d m.word.toNat (m.data.take m.value.toNat) else s)

/-- Make a whole delta current (R363). -/
def State.adopt (s : State) (d : Partial) : State :=
  let map := d.got.foldl (fun k g => SMap.put 0 g (s.inOther g + 1) k) s.mirror.inMap
  ({ s with mirror := { s.mirror with inMap := map, inPartial := none,
                                      inInvalid := s.mirror.inInvalid.filter (fun g => !d.got.contains g) } }.countInvalid).put
    0x503506 d.m

/-- MIRROR_END (R363). -/
def execMirrorEnd (m : Msg) (s : State) : Out :=
  s.fromSource m (fun s =>
    match s.mirror.inPartial with
    | none => s.ackTo m.coord.toNat s.inStep 1
    | some d =>
      if d.m = m.step.toNat ∧ d.good ∧ d.got.length = m.value.toNat then (s.adopt d).ackTo m.coord.toNat d.m 0
      else { s with mirror := { s.mirror with inPartial := none } }.ackTo m.coord.toNat s.inStep 1)

/-- MIRROR_ABORT (R364). -/
def execMirrorAbort (m : Msg) (s : State) : Out :=
  s.fromSource m (fun s => { s with mirror := { s.mirror with inPartial := none } })

/-- A held granule is found bad (R365). -/
def State.invalidGranule (s : State) (g : Nat) : State :=
  if s.mirror.inInvalid.contains g then s else
  let s := { s with mirror := { s.mirror with inInvalid := insSet g s.mirror.inInvalid } }.countInvalid
  match s.mirror.inSource with
  | none => s
  | some c => s.sendClass1 c 0xF107 s.inStep g 0 []

/-- The bytes of a granule held at M, where its slot reads sound. -/
def State.heldGranule (s : State) (g : Nat) : Option (List Byte) :=
  if s.mirror.inInvalid.contains g then none else
  match s.inSlotOf g with
  | none => none
  | some k => match s.reserveAddr (2 * g + k) with
    | none => none
    | some a => if s.hbmHit a mib then none else some (s.hbmBytes a mib)

/-- MIRROR_READ (R366): answered with the granule's current slot, or with bit 0 set where it is not held at the step asked, or for a
module that is not the source. -/
def execMirrorRead (m : Msg) (s : State) : Out :=
  s.onMsg m (fun s =>
    let c := m.coord.toNat
    let held := if s.mirror.inSource = some c ∧ m.step.toNat = s.inStep then s.heldGranule m.word.toNat else none
    match held with
    | none => s.sendClass1 c 0xF109 s.inStep 1 0 []
    | some b => let code := codeGranule b
                s.sendClass1 c 0xF109 s.inStep 0 code.length code)

/-- The mirror on the loss of the link of a port (R364, R366): the source's delta is abandoned and an unanswered repair read counts as
refused; the receiver's partial delta goes. -/
def State.mirrorLinkDown (s : State) (port : Nat) : State :=
  let s := if s.mirror.inSource = some (s.neighbour s.coord port) then { s with mirror := { s.mirror with inPartial := none } } else s
  if port ≠ s.partnerPort then s else
  let s := match s.mirror.delta with
    | none => s
    | some d => (s.abandonDelta.raise 0x0401 d.m 0).settleHeld
  s.mirror.repairs.foldl (fun t e => t.repair e none) { s with mirror := { s.mirror with repairs := [], asked := [] } }

/-- The partner link is ACTIVE again (R360). -/
def State.mirrorLinkUp (s : State) (port : Nat) : State :=
  if port = s.partnerPort ∧ s.image.isSome ∧ s.o kMirrorEnable = 1 ∧ s.mirror.opened then s.sendOpen else s

end Sys2Proof.Machine
end

