-- ==== Sys2Proof/Machine/Access.lean ====
section
/-! DEFINITION. The accesses of the engines (R17, R25, R178, R220-R222, R255, R345, R346, R351): permission, the place that an address stands
for in an original run and in a replay, copy-on-write, and the digest lane of the store engine. -/

namespace Sys2Proof.Machine

/-- Who makes an access: an engine for a context of a core, in step n, for a vat on a die; and the segment of a replay. `mark`: the command
works with a descriptor or a scale cell that hit, and what it writes is poisoned (R198). -/
structure Eng where
  p : Nat
  x : Nat
  q : Nat
  n : Nat
  vat : Nat
  die : Nat
  replay : Bool
  seg : Nat
  mark : Bool := false
  deriving DecidableEq, Repr

/-- The engine of queue q of context x of core p. -/
def State.eng (s : State) (p x q : Nat) : Eng :=
  let k := (s.core p).ctx x
  { p := p, x := x, q := q, n := k.step, vat := k.bind.vat, die := coreDie p, replay := decide (s.coreState p = csReplay),
    seg := match s.replayOf p with
      | none => 0
      | some r => r.vat }

/- Permission (R220, R221, R253). -/

/-- A region's PERM for the engine: bit 0 read, bit 1 write; a frozen region is read only (R147). -/
def State.granted? (s : State) (e : Eng) (r : Region) (write : Bool) : Bool :=
  decide (r.die = e.die) && s.beneath e.vat r.owner && Nat.testBit r.perm (if write then 1 else 0) && !(write && decide (r.kind = rkFrozen))

/-- The partition of a die whose addresses hold [a, a + n). -/
def State.partitionAt (s : State) (die a n : Nat) : Option Region :=
  s.regions.find? (fun g => decide (g.kind = rkPartition ∧ g.die = die ∧ g.addr ≤ a ∧ a + n ≤ g.addr + g.sizeMib * mib))

/-- The 1 MiB granules that [a, a + n) touches. -/
def granulesOf (a n : Nat) : List Nat := (List.range ((a + n + mib - 1) / mib - a / mib)).map (fun k => a / mib + k)

/-- The ledger area of a base store (R182): its addresses from here. -/
def ledgerArea : Nat := 0x70000000

/-- A granule of a region lies where nothing is mapped (R220): the ledger area, the ledger reserve or the mirror reserve; of a STATE region
both its slots count. -/
def State.unmappable (s : State) (space g : Nat) (r : Region) : Bool :=
  if space = spBase then decide (ledgerArea ≤ g * mib)
  else (if r.kind = rkState then [g, g + r.sizeMib] else [g]).any (fun k =>
    decide (s.ledgerBase (hbmDie (k * mib)) < hbmLocal (k * mib) + (s.mirrorShare + 1) * mib))

/-- Every granule of [a, a + n) in a space is mapped for the engine; core store goes by the context's ranges, to the byte. -/
def State.mapped (s : State) (e : Eng) (space : Nat) (a : Int) (n : Nat) (write : Bool) : Bool :=
  if a < 0 then false
  else if space = spCore then
    let c := s.scope ((s.core e.p).ctx e.x)
    if write then c.writes (if e.q = qLoad then rgStaging else rgWork) a.toNat n else c.reads a.toNat n
  else (granulesOf a.toNat n).all (fun g =>
    match (if space = spBase then s.partitionAt e.die (g * mib) mib else s.regionAt (g * mib) mib) with
    | none => false
    | some r => s.granted? e r write && !s.unmappable space g r)

/-- Why an access that is not mapped faults (R235). -/
def faultCause (space : Nat) (write : Bool) : Nat := if space = spCore then 3 else if write then 2 else 1

/- Places. -/

/-- Where an address leads: core store, base store by key, or HBM. -/
inductive Place where
  | core (a : Nat)
  | base (key : Nat)
  | hbm (a : Nat)
  deriving DecidableEq, Repr

/-- A replay's key in the replay areas. -/
def Eng.area (e : Eng) : Nat := replayArea e.n e.seg

/-- The MiB of its die's replay area that holds a granule for a replay. -/
def State.areaSlot (s : State) (area g : Nat) : Option Nat :=
  (s.mem.replayed.find? (fun r => decide (r.1 = area ∧ r.2.1 = g))).map (fun r => r.2.2)

/-- Address of MiB k of the replay area, at the bottom of the ledger reserve (R328), of a granule's die. -/
def State.areaAddr (s : State) (g k : Nat) : Nat := hbmAddr (hbmDie (g * mib)) (s.ledgerBase (hbmDie (g * mib)) + k * mib)

/-- The first free MiB of the replay area of a granule's die (log 105); fuel bounds the search. -/
def State.areaGap (s : State) (g : Nat) : Nat → Nat → Nat
  | 0, k => k
  | n + 1, k =>
    if s.mem.replayed.any (fun r => decide (hbmDie (r.2.1 * mib) = hbmDie (g * mib) ∧ r.2.2 = k)) then s.areaGap g n (k + 1) else k

/-- The slot of a granule that a read of step n returns (R17): the other one once an unfixed step has written it. A replay does not see
the writes of the original run of its step (R351). -/
def Gran.readSlot (r : Gran) (e : Eng) : Nat := match r.writer with
  | none => r.fixedSlot
  | some w => if e.replay ∧ e.n ≤ w then r.fixedSlot else 1 - r.fixedSlot

/-- The address of byte a within a slot of its granule. -/
def State.inSlot (s : State) (a slot : Nat) : Nat := s.slotAddr (a / mib) slot + a % mib

/-- The replay copy lies one region size above the addresses (R254, R255). -/
def Region.copy (r : Region) (e : Eng) (a : Nat) : Nat := if e.replay then a + r.sizeMib * mib else a

/-- Where a read of an address goes. -/
def State.readPlace (s : State) (e : Eng) (space a : Nat) : Place :=
  if space = spCore then .core a
  else if space = spBase then match s.partitionAt e.die a 1 with
    | none => .base (baseKey e.die a)
    | some r => .base (baseKey e.die (r.copy e a))
  else match s.regionAt a 1 with
    | none => .hbm a
    | some r =>
      if r.kind = rkState then
        match (if e.replay then s.areaSlot e.area (a / mib) else none) with
        | some k => .hbm (s.areaAddr (a / mib) k + a % mib)
        | none => .hbm (s.inSlot a ((s.gran (a / mib)).readSlot e))
      else if r.kind = rkFrozen then .hbm a
      else .hbm (r.copy e a)

/-- Where a write to an address goes, its granule having been copied (R17, R255). -/
def State.writePlace (s : State) (e : Eng) (space a : Nat) : Place :=
  if space = spHbm then match s.regionAt a 1 with
    | none => .hbm a
    | some r =>
      if r.kind = rkState then
        if e.replay then s.readPlace e space a else .hbm (s.inSlot a (1 - (s.gran (a / mib)).fixedSlot))
      else .hbm (r.copy e a)
  else s.readPlace e space a

/-- The n bytes at a place within one 64 B line, and whether they hit. -/
def State.placeBytes (s : State) (e : Eng) (pl : Place) (n : Nat) : List Byte × Bool :=
  match pl with
  | .core a => ((s.core e.p).csBytes a n, (s.core e.p).csHit a n)
  | .base k => (s.baseBytes k n, s.baseHit k n)
  | .hbm a => (s.hbmBytes a n, s.hbmHit a n)

def State.placeWrite (s : State) (e : Eng) (pl : Place) (bytes : List Byte) (poison : Bool) : State :=
  match pl with
  | .core a => s.setCore e.p ((s.core e.p).csWrite a bytes poison)
  | .base k => s.baseWrite k bytes poison
  | .hbm a => s.hbmWrite a bytes poison

/-- Read n bytes of a space, line by line; fuel bounds the lines. -/
def State.readBytes (s : State) (e : Eng) (space : Nat) : Nat → Nat → Nat → List Byte × Bool
  | 0, _, _ => ([], false)
  | k + 1, a, n =>
    if n = 0 then ([], false) else
    let m := min (64 - a % 64) n
    let r := s.placeBytes e (s.readPlace e space a) m
    let t := s.readBytes e space k (a + m) (n - m)
    (r.1 ++ t.1, r.2 || t.2)

def State.readSpan (s : State) (e : Eng) (space a n : Nat) : List Byte × Bool := s.readBytes e space (n / 64 + 2) a n

/- Copy-on-write (R17, R255). -/

/-- Copy the fixed slot of a granule into the other one; a hit that the copy meets falls under R39 (R199). -/
def State.copyFixed (s : State) (g : Nat) : State :=
  let r := s.gran g
  let hit := s.hbmHit (s.slotAddr g r.fixedSlot) mib
  let s := s.hbmCopy (s.slotAddr g r.fixedSlot) (s.slotAddr g (1 - r.fixedSlot)) mib
  if hit then s.parityFixed g else s

/-- The first write of step n to a granule copies its fixed slot into the other one, unless it covers the granule. The granule and the
writing segment are noted. -/
def State.cowGranule (s : State) (e : Eng) (g : Nat) (covers : Bool) : State :=
  let r := s.gran g
  let s := if r.writer = some e.n ∨ covers then s else s.copyFixed g
  let segs := match s.segmentOf e.vat with
    | none => r.segs
    | some v => insSet v r.segs
  (s.setGran g { r with writer := some e.n, segs := segs }).updStep e.n (fun t => { t with granules := insSet g t.granules })

/-- A replay's first write to a granule brings what it reads into the replay area, unless it covers the granule. -/
def State.cowReplay (s : State) (e : Eng) (g : Nat) (covers : Bool) : State :=
  match s.areaSlot e.area g with
  | some _ => s
  | none =>
    let k := s.areaGap g s.mem.replayed.length 0
    let s := if covers then s else s.hbmCopy (s.slotAddr g ((s.gran g).readSlot e)) (s.areaAddr g k) mib
    { s with mem := { s.mem with replayed := s.mem.replayed ++ [(e.area, g, k)] } }

/-- A granule holds state. -/
def State.isState (s : State) (g : Nat) : Bool := match s.regionAt (g * mib) mib with
  | none => false
  | some r => decide (r.kind = rkState)

/-- Make ready the granules of a write [a, a + n). -/
def State.cow (s : State) (e : Eng) (space a n : Nat) : State :=
  if space ≠ spHbm then s else
  ((granulesOf a n).filter s.isState).foldl (fun t g =>
    (if e.replay then t.cowReplay else t.cowGranule) e g (decide (a ≤ g * mib ∧ (g + 1) * mib ≤ a + n))) s

/- Waits (R25, R186, R362, R376). -/

/-- What holds step n's first write to a granule: the state-write gate, a mirror pin or a cut's pin. -/
def State.writeWait (s : State) (e : Eng) (g : Nat) : Wait :=
  if e.replay ∨ (s.gran g).writer = some e.n then .none
  else if s.lastFixed + 1 < e.n then .gate
  else s.pinWait g

/-- Meet the waits of a command's first writes. -/
def State.writeGate (s : State) (e : Eng) (gs : List Nat) : Bool × State :=
  s.holdWrites (fun t g => t.writeWait e g) (some (e.p, e.x, e.q)) gs

/-- Some stack of a die retrains (R186). -/
def State.stacksBusy (s : State) (die : Nat) : Bool :=
  decide (s.o (kStack (2 * die) 1) = 1) || decide (s.o (kStack (2 * die + 1) 1) = 1)

/-- The lines of HBM, by address / 64, that a write of spans enters. -/
def State.writtenLines (s : State) (e : Eng) (spans : List (Int × Nat)) : List Nat :=
  let at_ := fun (a : Nat) => match s.writePlace e spHbm a with
    | .hbm b => [b / 64]
    | _ => []
  (spans.flatMap (fun (a, n) => if a < 0 then [] else
    (List.range ((a.toNat + n + 63) / 64 - a.toNat / 64)).flatMap (fun k => at_ (64 * (a.toNat / 64 + k))))).eraseDups

/-- Pseudo-channel of a line of module HBM. -/
def State.pcAt (s : State) (la : Nat) : Nat := s.linePc (hbmDie (64 * la)) (hbmLocal (64 * la) / 64)

/-- A write of spans needs an entry that a buffer of a retraining stack has not free (R186, R188). -/
def State.wcbStall (s : State) (e : Eng) (spans : List (Int × Nat)) : Bool :=
  let new := (s.writtenLines e spans).filter (fun la => s.pcHeld (hbmDie (64 * la)) (s.pcAt la) &&
    !s.mem.wcb.any (fun f => decide (f.die = hbmDie (64 * la) ∧ f.line = hbmLocal (64 * la) / 64)))
  new.any (fun la => decide (32 < (s.pcEntries (hbmDie (64 * la)) (s.pcAt la)).length +
    (new.filter (fun m => decide (hbmDie (64 * m) = hbmDie (64 * la) ∧ s.pcAt m = s.pcAt la))).length))

/-- The first write to a granule copies it, and so reads it. -/
def State.toCopy (s : State) (e : Eng) (g : Nat) : Bool :=
  if e.replay then (s.areaSlot e.area g).isNone else decide ((s.gran g).writer ≠ some e.n)

/-- A read of spans needs a line of a stack that retrains (R186). -/
def State.readHeld (s : State) (e : Eng) (spans : List (Int × Nat)) : Bool :=
  spans.any (fun (a, n) => !decide (a < 0) && (List.range ((a.toNat + n + 63) / 64 - a.toNat / 64)).any (fun k =>
    match s.readPlace e spHbm (64 * (a.toNat / 64 + k)) with
    | .hbm b => s.pcHeld (hbmDie b) (s.pcAt (b / 64))
    | _ => false))

/-- What a command meets while a stack of its die retrains (R186): one that reads of that stack waits, and so does a first write to a
granule, whose copy reads lines of both; a write enters the buffers while they have entries for its lines, else its writer stalls, for a
number of cycles that the spec's rules do not fix. -/
def State.busyGate (s : State) (e : Eng) (reads spans : List (Int × Nat)) (grans : List Nat) : Bool × State :=
  if s.readHeld e reads || grans.any (s.toCopy e) then (true, s)
  else if s.wcbStall e spans then
    let r := s.draw
    (true, r.2.bump64 0x830004 (r.1.toNat % 2 ^ 32))
  else s.writeGate e grans

/- Digest lanes (R345-R347). -/

/-- Change a digest lane of a context. -/
def State.absorbLane (s : State) (e : Eng) (lane : Nat) (words : List W64) : State :=
  let k := (s.core e.p).ctx e.x
  let l := words.foldl absorb (k.lanes.getD lane (0, 0))
  s.setCtx e.p e.x { k with lanes := k.lanes.set lane l }

/-- The words of a line: header, mask and data (R345, R346). -/
def lineWords (space die a : Nat) (bytes : List Byte) (poison : Bool) : List W64 :=
  let o := a % 64
  let flag := if poison then 2 ^ 61 else 0
  let head := if space = spBase then 2 ^ 62 + flag + die * 2 ^ 25 + a / 64 else flag + a / 64
  let data := List.replicate o 0 ++ bytes ++ List.replicate (64 - o - bytes.length) 0
  BitVec.ofNat 64 head :: (lineMask o bytes.length).truncate 64 ::
    (List.range 8).map (fun k => BitVec.ofNat 64 (fieldAt data (8 * k) 8))

/- Writes. -/

/-- Write within one 64 B line; the store engine's line enters its lane (R345). -/
def State.writeLine (s : State) (e : Eng) (space a : Nat) (bytes : List Byte) (poison : Bool) : State :=
  let hit := poison || e.mark
  let s := s.placeWrite e (s.writePlace e space a) bytes hit
  if e.q = qStore ∧ space ≠ spCore then s.absorbLane e 0 (lineWords space e.die a bytes hit) else s

/-- Write marked bytes from a, line by line; a line with a marked byte is poisoned. Fuel bounds the lines. -/
def State.writeLines (s : State) (e : Eng) (space : Nat) : Nat → Nat → List (Byte × Bool) → State
  | 0, _, _ => s
  | k + 1, a, bs =>
    if bs = [] then s else
    let m := 64 - a % 64
    let l := bs.take m
    (s.writeLine e space a (l.map (fun b => b.1)) (l.any (fun b => b.2))).writeLines e space k (a + m) (bs.drop m)

/-- A write of marked bytes, its granules made ready first. -/
def State.writeSpan (s : State) (e : Eng) (space a : Nat) (bs : List (Byte × Bool)) : State :=
  (s.cow e space a bs.length).writeLines e space (bs.length / 64 + 2) a bs

/-- A poison list overflowed: the module sends a halt wave with cause POISON_FULL (R197). -/
def State.poisonFull (s : State) : State :=
  if s.mem.overflow = [] then s else { s with mem := { s.mem with overflow := [] } }.haltWave 6

/-- The base cache sees a read of [a, a + n) of a base-cached region (R180). -/
def State.cacheSpan (s : State) (e : Eng) (a n : Nat) : State :=
  match s.regionAt a 1 with
  | none => s
  | some r =>
    if !r.baseCached then s
    else (List.range ((a + n + 255) / 256 - a / 256)).foldl (fun t k =>
      match t.readPlace e spHbm (256 * (a / 256 + k)) with
      | .hbm b => t.cacheRead (b / 256)
      | _ => t) s

end Sys2Proof.Machine
end

