-- ==== Sys2Proof/Machine/Scales.lean ====
section
/-! DEFINITION. Scale declarations at run time (R119-R127, R257): history windows, chosen exponents and scale cells. -/

namespace Sys2Proof.Machine

/-- Modes of a declaration (R127). -/
def smFixed : Nat := 0
def smPresent : Nat := 1
def smHistory : Nat := 2

/-- The declaration of a tensor. -/
def State.scale? (s : State) (tensor : Nat) : Option Scale := match s.image with
  | none => none
  | some im => im.scales.find? (fun d => decide (d.tensor = tensor))

/-- The scale cell of a declaration on a logical core (R257). -/
def State.cell? (s : State) (tensor lcore : Nat) : Option Nat := match s.image with
  | none => none
  | some im => (im.cells.find? (fun c => decide (c.tensor = tensor ∧ c.lcore = lcore))).map (fun c => c.cell)

/-- M of a declaration (R122, R124): its own, or the default of its mode. -/
def State.margin (s : State) (d : Scale) : W32 :=
  if abs32 d.margin = 0 then BitVec.ofNat 32 (s.o (if d.mode = smHistory then 0x601100 else 0x601200)) else d.margin

/-- H of a declaration (R124). -/
def State.histLen (s : State) (d : Scale) : Nat := if d.histLen = 0 then s.o 0x601000 else d.histLen

/-- The history entries that step n uses (R124): those of steps n - L - H through n - L - 1. -/
def State.window (s : State) (d : Scale) (n : Nat) : List W32 :=
  let l := s.o kCommitLag
  ((SMap.get [] d.tensor s.ledger.history).filter (fun e =>
    decide (n ≤ e.1 + l + s.histLen d ∧ e.1 + l + 1 ≤ n))).map (fun e => e.2)

/-- The greatest of the entries; maxima are non-negative, so their codes rise with them. -/
def maxEntry (l : List W32) : W32 := l.foldl maxCode 0

/-- Choose an exponent, counting a clamp (R120). -/
def State.chooseExp (s : State) (d : Scale) (a : W32) : Int × State :=
  let r := chooseExponent a (s.margin d) d.fmt
  (r.1, if r.2 then s.bump64 0x603004 1 else s)

/-- Write 2^e and 2^-e into the cell of a declaration on core p, where it has one (R122). -/
def State.writeCell (s : State) (p lcore tensor : Nat) (e : Int) : State :=
  match s.cell? tensor lcore with
  | none => s
  | some a => s.setCore p ((s.core p).csWrite a (leBytes 4 (pow32 e).toNat ++ leBytes 4 (pow32 (-e)).toNat) false)

/-- The exponent of a history-mode declaration for step n (R124, R125). -/
def State.historyExp (s : State) (d : Scale) (n : Nat) : Int × State :=
  match s.window d n with
  | [] => (d.fixedExp, s)
  | w => s.chooseExp d (maxEntry w)

/-- Write the cells of every history-mode declaration for step n on cores given as (logical, physical), before their contexts restart
(R124, R125). DESIGN CHOICE (log 108): a declaration of MODE 00 that CELLS names is accepted and its cell is never written: no rule says
when it would be. -/
def State.writeScales (s : State) (n : Nat) (cores : List (Nat × Nat)) : State :=
  match s.image with
  | none => s
  | some im => im.histories.foldl (fun t d =>
      let r := t.historyExp d n
      cores.foldl (fun t c => t.writeCell c.2 c.1 d.tensor r.1) r.2) s

/-- Keep the exponents that step n uses of its history-mode declarations (R142); an AMAX of an empty window replaces its own (R125). -/
def State.noteScales (s : State) (n : Nat) : State := match s.image with
  | none => s
  | some im => s.updStep n (fun r => { r with chosen := im.histories.foldl (fun m d => SMap.ins d.tensor (s.historyExp d n).1 m) r.chosen })

/-- The exponent that a command casts with (R211): that of the scale cell at its start; a fixed-exponent declaration has its own. -/
def State.cellExp (s : State) (p lcore : Nat) (d : Scale) : Option Int :=
  if d.mode = smFixed then some d.fixedExp
  else (s.cell? d.tensor lcore).map (fun a => (bits (ofLe ((s.core p).csBytes a 4)) 23 8 : Int) - 127)

/-- The chain that serves a declaration (R214, R258). -/
def State.maxChain (s : State) (tensor : Nat) : Option ChainD := match s.image with
  | none => none
  | some im => im.chains.find? (fun c => decide (c.decl = tensor))

/-- Position of a logical core in a chain. -/
def State.memberOf (s : State) (c : ChainD) (lcore : Nat) : Option Nat := match s.image with
  | none => none
  | some im => let ms := (im.members.drop c.memberFirst).take c.n
               if ms.contains lcore then some (ms.idxOf lcore) else none

/-- Note a source value cast under a history-mode declaration (R215, R121): the largest finite |x|, and a count of the others. DESIGN
CHOICE (log 108): an entry is an FP32 word, so an FP64 value enters it as rn32(|x|), which may round or overflow to infinity. -/
def noteMax (m : W32) (nonfin : Nat) (x : Num) : W32 × Nat :=
  if x.isFin then (maxCode m (abs32 (rn32 x)), nonfin) else (m, nonfin + 1)

/-- Keep the maxima of a core's casts under a declaration. -/
def State.noteCasts (s : State) (p : Nat) (d : Scale) (xs : List Num) : State :=
  if d.mode ≠ smHistory ∨ xs = [] then s else
  let c := s.core p
  let r := xs.foldl (fun a x => noteMax a.1 a.2 x) (SMap.get 0 d.tensor c.castMax, 0)
  (s.setCore p { c with castMax := SMap.ins d.tensor r.1 c.castMax }).bump64 0x603005 r.2

end Sys2Proof.Machine
end

