-- ==== Sys2Proof/Machine/Moves.lean ====
section
/-! DEFINITION. Element movement of the load and store engines (R203-R212, R216-R222): descriptors, the sides of a command, rows of elements
with their casts, and what a command's run answers. -/

namespace Sys2Proof.Machine

/-- A value, or the address and cause of the access that faulted (R222). -/
inductive Got (α : Type) where
  | ok (a : α)
  | fault (addr : Int) (cause : Nat)
  deriving DecidableEq, Repr

/-- An element as read: its value, its code and whether it hit. -/
structure El where
  num : Num
  code : Nat
  hit : Bool
  deriving DecidableEq, Repr

/-- A side of a command: its descriptor and step, and its scale table. -/
structure Side where
  d : LDesc
  step : Int
  tab : Option LDesc
  deriving DecidableEq, Repr

/-- A run of a command: the state, and the access that stopped it. -/
structure Run where
  s : State
  fault : Option (Int × Nat)
  deriving DecidableEq, Repr

/-- How elements become codes of the target (R211): moved, cast to nearest, or quantised under a declaration and an exponent. -/
inductive Caster where
  | raw
  | rne
  | quant (d : Scale) (e : Int)
  deriving DecidableEq, Repr

/- Reads. -/

/-- The descriptor at a core-store address (R203), read for the context. -/
def State.descAt (s : State) (e : Eng) (a : Nat) : Got (LDesc × Bool) :=
  if s.mapped { e with q := qStore } spCore a 64 false then
    .ok (BitVec.ofNat 512 (ofLe ((s.core e.p).csBytes a 64)), (s.core e.p).csHit a 64)
  else .fault a 3

/-- The address of a row, checked (R204, R220, R221). -/
def State.rowAt (s : State) (e : Eng) (d : LDesc) (step : Int) (ix : List Nat) (write : Bool) : Got Nat :=
  let a := ldRowAddr d step ix
  if s.mapped e (ldSpace d) a (ldRowBytes d) write then .ok a.toNat else .fault a (faultCause (ldSpace d) write)

/-- Code of element i of bits b at a row, and whether it hits. -/
def State.codeAt (s : State) (e : Eng) (space b a i : Nat) : Nat × Bool :=
  let at_ := a + i * b / 8
  let r := s.placeBytes e (s.readPlace e space at_) (max 1 (b / 8))
  (if b = 4 then bits (ofLe r.1) (4 * (i % 2)) 4 else ofLe r.1, r.2)

/-- An element of a format; a code of an index tensor has no value. -/
def elOf (d : LDesc) (r : Nat × Bool) : El :=
  { num := if ldIdx d then .fin false 0 0 else decode (ldFmt d) r.1, code := r.1, hit := r.2 }

/-- An element under its block scale (R106, R212). -/
def El.scaled (x : El) (b : Nat × Bool) : El :=
  { x with num := if b.1 = 255 then .nan false else x.num.scale ((b.1 : Int) - 127), hit := x.hit || b.2 }

/-- Read element i0 of the row ix of a side, with its block scale. -/
def State.readEl (s : State) (e : Eng) (f : Side) (i0 : Nat) (ix : List Nat) : Got El :=
  match s.rowAt e f.d f.step ix false with
  | .fault a c => .fault a c
  | .ok a =>
    let x := elOf f.d (s.codeAt e (ldSpace f.d) (ldBits f.d) a i0)
    match f.tab with
    | none => .ok x
    | some t => match s.rowAt e t f.step ix false with
      | .fault a c => .fault a c
      | .ok b => .ok (x.scaled (s.codeAt e (ldSpace t) 8 b (i0 / 32)))

/-- Element c in the canonical order of a descriptor (R205). -/
def State.readCanon (s : State) (e : Eng) (f : Side) (c : Nat) : Got El :=
  s.readEl e f (c % ldN f.d 0) (ldRowIx f.d (c / ldN f.d 0))

/-- The index of the source dimension k for target indices j (R210): i_PERM_d = j_d. -/
def permIx (l : Line) (j : List Nat) (k : Nat) : Nat :=
  match (List.range 5).find? (fun d => decide (lsPerm l d = k)) with
  | none => 0
  | some d => j.getD d 0

/-- The source element of target element c of a COPY (R210). -/
def State.copyEl (s : State) (e : Eng) (l : Line) (src : Side) (dst : LDesc) (c : Nat) : Got El :=
  let j := c % ldN dst 0 :: ldRowIx dst (c / ldN dst 0)
  s.readEl e src (permIx l j 0) ((List.range 4).map (fun k => permIx l j (k + 1)))

/-- Read elements until one faults. -/
def collect (f : Nat → Got El) : List Nat → List El × Option (Int × Nat)
  | [] => ([], none)
  | c :: t => match f c with
    | .fault a k => ([], some (a, k))
    | .ok x => let r := collect f t
               (x :: r.1, r.2)

/- Casts. -/

/-- The rounding of target element c (R211, R117). -/
def quantMode (n : Nat) (d : Scale) (c : Nat) : RMode :=
  if d.sr then .draw (draw (BitVec.ofNat 64 n) (BitVec.ofNat 64 d.tensor) (BitVec.ofNat 64 c)) else .rne

/-- Codes with marks, block scales with marks, and the casts done. -/
structure CastOut where
  codes : List (Nat × Bool)
  scales : List (Nat × Bool)
  casts : List CastR
  deriving DecidableEq, Repr

/-- Block-scale a row under a declaration (R128-R130); fuel bounds the blocks, c counts elements. -/
def castBlocks (n : Nat) (d : Scale) (x : Int) : Nat → Nat → List El → CastOut
  | 0, _, _ => ⟨[], [], []⟩
  | k + 1, c, els =>
    if els = [] then ⟨[], [], []⟩ else
    let b := els.take 32
    let r := blockCast d.fmt (fun i => quantMode n d (c + i)) (b.map (fun y => val32 (scaled y.num x)))
    let hit := b.any (fun y => y.hit)
    let t := castBlocks n d x k (c + 32) (els.drop 32)
    ⟨r.2.map (fun y => (y.code, hit)) ++ t.codes, (r.1, hit) :: t.scales, r.2 ++ t.casts⟩

/-- Cast the elements of a row; c is the draw index of its first one. -/
def castRow (n fmt : Nat) (k : Caster) (c : Nat) (els : List El) : CastOut :=
  match k with
  | .raw => ⟨els.map (fun y => (y.code, y.hit)), [], []⟩
  | .rne =>
    let rs := els.map (fun y => castNum fmt .rne y.num)
    ⟨(rs.zip els).map (fun r => (r.1.code, r.2.hit)), [], rs⟩
  | .quant d x =>
    if d.mx then castBlocks n d x (els.length / 32 + 1) c els
    else
      let rs := els.zipIdx.map (fun y => castNum fmt (quantMode n d (c + y.2)) (val32 (scaled y.1.num x)))
      ⟨(rs.zip els).map (fun r => (r.1.code, r.2.hit)), [], rs⟩

/-- Count what casts lost (R142). -/
def State.countCasts (s : State) (rs : List CastR) : State :=
  ((s.bump64 0x603001 (rs.foldl (fun k r => k + r.nanLost) 0)).bump64 0x603002 (rs.foldl (fun k r => k + r.saturated) 0)).bump64
    0x603003 (rs.foldl (fun k r => k + r.overInf) 0)

/-- Codes of b bits as marked bytes; two 4-bit ones share a byte. -/
def packMarked (b : Nat) : List (Nat × Bool) → List (Byte × Bool)
  | [] => []
  | [x] => (leBytes (max 1 (b / 8)) x.1).map (fun y => (y, x.2))
  | x :: y :: t =>
    if b = 4 then (BitVec.ofNat 8 (x.1 + 16 * y.1), x.2 || y.2) :: packMarked b t
    else (leBytes (b / 8) x.1).map (fun z => (z, x.2)) ++ packMarked b (y :: t)

/-- The context consumes a hit (R198). -/
def State.consumeIf (s : State) (e : Eng) (hit : Bool) : State := if hit then s.consumePoison e.p e.x else s

/-- Note source values of a quantising cast. -/
def State.noteQuant (s : State) (e : Eng) (k : Caster) (els : List El) : State :=
  match k with
  | .quant d _ => s.noteCasts e.p d (els.map (fun y => y.num))
  | _ => s

/- Rows. -/

/-- Write the scales of a row into the target's table. -/
def State.writeScaleRow (s : State) (e : Eng) (dst : Side) (ix : List Nat) (scales : List (Nat × Bool)) : Run :=
  match dst.tab with
  | none => ⟨s, none⟩
  | some t =>
    if scales = [] then ⟨s, none⟩ else
    match s.rowAt e t dst.step ix true with
    | .fault a c => ⟨s, some (a, c)⟩
    | .ok a => ⟨s.writeSpan e (ldSpace t) a (packMarked 8 scales), none⟩

/-- Elements of a row that may be written when a read of it faulted: whole blocks under block scaling. -/
def wholeEls (k : Caster) (fault : Bool) (els : List El) : List El :=
  match k with
  | .quant d _ => if d.mx ∧ fault then els.take (els.length / 32 * 32) else els
  | _ => els

/-- Cast and write elements at an address of the target, counting casts and hits. -/
def State.putEls (s : State) (e : Eng) (space b a : Nat) (k : Caster) (out : CastOut) (els : List El) : State :=
  ((((s.writeSpan e space a (packMarked b out.codes)).countCasts out.casts).noteQuant e k els).consumeIf e
    (els.any (fun y => y.hit)))

/-- Move row r of the target: read its elements in order, cast them and write them (R207, R210, R211). `base` is the draw index of target
element 0. DESIGN CHOICE (log 107): where source and target overlap, the whole row is read before any of it is written. -/
def State.moveRow (s : State) (e : Eng) (dst : Side) (k : Caster) (base : Nat) (f : State → Nat → Got El) (r : Nat) : Run :=
  let n0 := ldN dst.d 0
  let got := collect (f s) ((List.range n0).map (fun i => r * n0 + i))
  let els := wholeEls k got.2.isSome got.1
  if els = [] then ⟨s, got.2⟩ else
  let ix := ldRowIx dst.d r
  match s.rowAt e dst.d dst.step ix true with
  | .fault a c => ⟨s.consumeIf e (els.any (fun y => y.hit)), some (a, c)⟩
  | .ok a =>
    let out := castRow e.n (ldFmt dst.d) k (base + r * n0) els
    let t := (s.putEls e (ldSpace dst.d) (ldBits dst.d) a k out els).writeScaleRow e dst ix out.scales
    ⟨t.s, match t.fault with
      | some x => some x
      | none => got.2⟩

/-- Move rows in order until an access faults. -/
def State.moveRows (s : State) (e : Eng) (dst : Side) (k : Caster) (base : Nat) (f : State → Nat → Got El) : List Nat → Run
  | [] => ⟨s, none⟩
  | r :: t =>
    let x := s.moveRow e dst k base f r
    match x.fault with
    | some _ => x
    | none => x.s.moveRows e dst k base f t

/-- Move every row of the target. -/
def State.moveAll (s : State) (e : Eng) (dst : Side) (k : Caster) (base : Nat) (f : State → Nat → Got El) : Run :=
  s.moveRows e dst k base f (List.range (ldRows dst.d))

/- Commands. -/

/-- What a command needs: its entry, engine, sides and index descriptor. -/
structure LsCmd where
  l : Line
  e : Eng
  src : Side
  dst : Side
  idx : LDesc
  deriving DecidableEq, Repr

/-- The scale declaration that an entry names. -/
def State.declOf (s : State) (l : Line) : Option Scale := if lsDecl l = noneField then none else s.scale? (lsDecl l)

/-- The cell that a casting command reads its exponent from has a parity hit (R198, R211). -/
def State.cellHit (s : State) (e : Eng) (l : Line) : Bool :=
  decide (lsKind l ≠ lkAmax ∧ lsKind l ≠ lkStash) && match s.declOf l with
    | none => false
    | some d => decide (d.mode ≠ smFixed) && match s.cell? d.tensor ((s.core e.p).ctx e.x).bind.lcore with
      | none => false
      | some a => (s.core e.p).csHit a 4

/-- A descriptor of the command, where it has one there. -/
def State.descAt? (s : State) (e : Eng) (has : Bool) (a : Nat) : Got (Option LDesc × Bool) :=
  if !has then .ok (none, false) else
  match s.descAt e a with
  | .fault a c => .fault a c
  | .ok d => .ok (some d.1, d.2)

/-- Read a list of descriptors. -/
def State.descsAt (s : State) (e : Eng) : List (Bool × Nat) → Got (List (Option LDesc) × Bool)
  | [] => .ok ([], false)
  | a :: t => match s.descAt? e a.1 a.2, s.descsAt e t with
    | .fault a c, _ => .fault a c
    | .ok _, .fault a c => .fault a c
    | .ok d, .ok r => .ok (d.1 :: r.1, d.2 || r.2)

/-- A kind whose entry names an index descriptor (R208). -/
def kindIndexed (k : Nat) : Bool := decide (k = lkGather ∨ k = lkScatter ∨ k = lkScatterAdd)

/-- The descriptors that an entry names (R208): memory side, core side, their scale tables, where 0 names none, and the index. Address 0 is
one of core store where a kind has the descriptor. -/
def lsDescs (l : Line) : List (Bool × Nat) :=
  [(decide (lsKind l ≠ lkStash), lsMdesc l), (decide (lsKind l ≠ lkAmax), lsCdesc l), (decide (lsBsdesc l ≠ 0), lsBsdesc l),
   (decide (lsCbsdesc l ≠ 0), lsCbsdesc l), (kindIndexed (lsKind l), lsIdesc l)]

/-- The command of an entry: a load's source is the memory side, a store's the core side (R208, R209). -/
def State.lsCmd (s : State) (e : Eng) (l : Line) : Got LsCmd :=
  match s.descsAt e (lsDescs l) with
  | .fault a c => .fault a c
  | .ok (ds, hit) =>
    let get := fun (k : Nat) => ds.getD k none
    let m : Side := { d := (get 0).getD 0, step := lsMemStep l, tab := get 2 }
    let c : Side := { d := (get 1).getD 0, step := lsCsStep l, tab := get 3 }
    let e := { e with mark := hit || s.cellHit e l }
    .ok { l := l, e := e, src := if e.q = qLoad then m else c, dst := if e.q = qLoad then c else m, idx := (get 4).getD 0 }

/-- The memory and core sides. -/
def LsCmd.mem (c : LsCmd) : Side := if c.e.q = qLoad then c.src else c.dst
def LsCmd.core (c : LsCmd) : Side := if c.e.q = qLoad then c.dst else c.src

/-- How the command casts (R211): an index tensor is moved. None where the declaration or its cell is missing. -/
def State.casterOf (s : State) (c : LsCmd) : Option Caster :=
  if ldIdx c.dst.d then some .raw
  else if lsDecl c.l = noneField then some .rne
  else match s.declOf c.l with
    | none => none
    | some d => (s.cellExp c.e.p ((s.core c.e.p).ctx c.e.x).bind.lcore d).map (fun x => .quant d x)

/-- A scale table fits its tensor (R212). -/
def tableFits (t d : LDesc) : Bool :=
  decide (ldFmt t = 9) && !ldIdx t && decide (ldN t 0 = (ldN d 0 + 31) / 32) &&
  (List.range 4).all (fun k => decide (ldN t (k + 1) = ldN d (k + 1)))

/-- A format that takes block scales. -/
def fmtBlocks (f : Nat) : Bool := decide (4 ≤ f ∧ f ≤ 8)

/-- The narrow format is kept, and its scale table copied (R212). -/
def LsCmd.keeps (c : LsCmd) : Bool :=
  c.src.tab.isSome && decide (ldFmt c.src.d = ldFmt c.dst.d) && decide (lsDecl c.l = noneField)

/-- Rules of R209 and R236 on the two descriptors and tables of any command. -/
def LsCmd.sidesBad (c : LsCmd) : Bool :=
  ldBad c.src.d || ldBad c.dst.d || c.src.tab.any ldBad || c.dst.tab.any ldBad || decide (ldSpace c.core.d ≠ spCore) ||
  (decide (c.e.q = qStore) && decide (ldSpace c.dst.d = spCore)) || (ldIdx c.src.d != ldIdx c.dst.d) ||
  (decide (ldBits c.dst.d = 4) && decide (ldN c.dst.d 0 % 2 = 1)) || (ldIdx c.dst.d && decide (lsDecl c.l ≠ noneField))

/-- Rules of R236 on a declaration. -/
def State.declBad (s : State) (c : LsCmd) : Bool :=
  if lsDecl c.l = noneField then false else match s.declOf c.l with
    | none => true
    | some d => decide (d.fmt ≠ ldFmt c.dst.d) || (s.casterOf c).isNone ||
                (d.mx && (!fmtBlocks d.fmt || decide (lsPerm c.l 0 ≠ 0) || match c.dst.tab with
                  | none => true
                  | some t => !tableFits t c.dst.d))

/-- Rules of R236 on a COPY. -/
def State.copyBad (s : State) (c : LsCmd) : Bool :=
  c.sidesBad || s.declBad c ||
  !(List.range 5).all (fun d => decide (ldN c.dst.d d = ldN c.src.d (lsPerm c.l d))) ||
  (match c.src.tab with
   | none => false
   | some t => !fmtBlocks (ldFmt c.src.d) || !tableFits t c.src.d || decide (lsPerm c.l 0 ≠ 0) ||
               (c.keeps && match c.dst.tab with
                 | none => true
                 | some u => decide (ldFmt u ≠ 9) || decide (ldCount u ≠ ldCount t)))

/-- The base cache sees reads of spans of HBM (R180). -/
def State.cacheSpans (s : State) (e : Eng) (spans : List (Int × Nat)) : State :=
  spans.foldl (fun t r => if r.1 < 0 then t else t.cacheSpan e r.1.toNat r.2) s

/-- The spans of a side's rows in HBM, and of its table. -/
def Side.spans (f : Side) : List (Int × Nat) :=
  let of := fun (d : LDesc) => if ldSpace d ≠ spHbm then [] else
    (List.range (ldRows d)).map (fun r => (ldRowAddr d f.step (ldRowIx d r), ldRowBytes d))
  of f.d ++ (match f.tab with
    | none => []
    | some t => of t)

/-- Run a COPY (R210-R212). -/
def State.copyRun (s : State) (c : LsCmd) (k : Caster) : Run :=
  let src := if c.keeps then { c.src with tab := none } else c.src
  let r := (s.cacheSpans c.e c.src.spans).moveAll c.e c.dst k (lsIndexBase c.l) (fun t n => t.copyEl c.e c.l src c.dst.d n)
  if !c.keeps || r.fault.isSome then r else
  match c.src.tab, c.dst.tab with
  | some t, some u => r.s.moveAll c.e { c.dst with d := u, tab := none } .raw 0
      (fun s n => s.readCanon c.e { c.src with d := t, tab := none } n)
  | _, _ => r

/-- The state granules of spans, in order. -/
def State.stateGranules (s : State) (spans : List (Int × Nat)) : List Nat :=
  ((spans.flatMap (fun e => if e.1 < 0 then [] else granulesOf e.1.toNat e.2)).filter s.isState).eraseDups

/- Index descriptors (R216). -/

/-- Bytes of a unit. -/
def unitBytesOf (d : LDesc) : Nat := ldN d 0 * ldBits d / 8

def unitOk (g : Nat) : Bool := (decide (g % 4 = 0 ∧ 4 ≤ g ∧ g ≤ 32)) || decide (g % 64 = 0 ∧ 64 ≤ g ∧ g ≤ 65536)

/-- Rules of R212, R216 and R236 on an indexed command. A block-scaled source is the core side of a store, and its scales are applied: the
memory side is one unit and has no table. -/
def State.indexBad (s : State) (c : LsCmd) : Bool :=
  c.sidesBad || s.declBad c || ldBad c.idx || !ldIdx c.idx || decide (ldNdim c.mem.d ≠ 0) ||
  decide (ldN c.mem.d 0 * ldBits c.mem.d % 8 ≠ 0) || !unitOk (unitBytesOf c.mem.d) || c.mem.tab.isSome || c.keeps ||
  (match c.src.tab with
   | none => false
   | some t => !fmtBlocks (ldFmt c.src.d) || !tableFits t c.src.d) ||
  !(List.range 5).all (fun d => decide (lsPerm c.l d = d)) || decide (ldCount c.core.d ≠ ldCount c.idx * ldN c.mem.d 0)

/-- Value k of the index tensor, as a signed word, and whether it hits. -/
def State.indexAt (s : State) (c : LsCmd) (k : Nat) : Got (Int × Bool) :=
  match s.readCanon c.e { d := c.idx, step := 0, tab := none } k with
  | .fault a k => .fault a k
  | .ok x => .ok (signed 32 x.code, x.hit)

/-- The address of a unit (R216). -/
def LsCmd.unitAddr (c : LsCmd) (x : Int) : Int :=
  (ldBase c.mem.d : Int) + 64 * lsMemStep c.l + x * unitBytesOf c.mem.d

/-- The checked address of unit k, and whether its index hits. -/
def State.unitAt (s : State) (c : LsCmd) (k : Nat) (write : Bool) : Got (Nat × Bool) :=
  match s.indexAt c k with
  | .fault a k => .fault a k
  | .ok x =>
    let a := c.unitAddr x.1
    if s.mapped c.e (ldSpace c.mem.d) a (unitBytesOf c.mem.d) write then .ok (a.toNat, x.2) else .fault a 4

/-- The spans of HBM of an indexed command's units. -/
def State.unitSpans (s : State) (c : LsCmd) : List (Int × Nat) :=
  if ldSpace c.mem.d ≠ spHbm then [] else
  (List.range (ldCount c.idx)).filterMap (fun k => match s.indexAt c k with
    | .fault _ _ => none
    | .ok x => some (c.unitAddr x.1, unitBytesOf c.mem.d))

/- Starting and ending. -/

/-- A run ends: the command is done, or its context traps at the access that faulted. -/
def Run.finish (r : Run) (e : Eng) : State :=
  match r.fault with
  | none => r.s.progress e.p e.x e.q 1
  | some f => r.s.accessFault e.p e.x e.q f.1 f.2

/-- A command that the rules forbid traps its context. -/
def State.badCmd (s : State) (e : Eng) : State := s.trap e.p e.x e.q (((s.core e.p).ctx e.x).cmdPos e.q)

/-- Run a started command whose descriptors read; `bad` and `go` say what it may not be and what it does. -/
def State.lsGo (s : State) (e : Eng) (l : Line) (bad : State → LsCmd → Bool) (go : State → LsCmd → State) : State :=
  if !((s.core e.p).ctx e.x).alive then s else
  match s.lsCmd e l with
  | .fault a c => s.accessFault e.p e.x e.q a c
  | .ok c =>
    let s := s.consumeIf e c.e.mark
    (if bad s c then s.badCmd e else go s c).poisonFull

/-- The entry that the engine would start for the context, if it is of a kind. -/
def Core.startKind (c : Core) (q x kind : Nat) : Option Line :=
  match c.startable q x with
  | none => none
  | some l => if lsKind l = kind then some l else none

/-- What holds an engine command before its start: what its first writes wait for (R25, R362, R376), and a retraining stack (R186). `reads`
and `writes` are the HBM spans that it reads and writes. -/
def State.startGate (s : State) (e : Eng) (reads writes : List (Int × Nat)) : Bool × State :=
  if s.stacksBusy e.die then s.busyGate e reads writes (s.stateGranules writes) else s.writeGate e (s.stateGranules writes)

/-- Start an engine command (R60): its gate holds it in its queue, else the engine takes it and runs it. `reads` and `writes` give the HBM
spans that it reads and writes. -/
def State.lsStart (s : State) (p x q kind : Nat) (reads writes : State → LsCmd → List (Int × Nat)) (bad : State → LsCmd → Bool)
    (go : State → LsCmd → State) : Out :=
  s.onCore p (fun c =>
    match c.startKind q x kind with
    | none => .next s
    | some l =>
      let e := s.eng p x q
      let w := match s.lsCmd e l with
        | .fault _ _ => (false, s)
        | .ok c => if bad s c then (false, s) else s.startGate e (reads s c) (writes s c)
      if w.1 then .next w.2 else .next (((w.2.dropHeld (some (p, x, q))).takeHead p x q).lsGo e l bad go))

end Sys2Proof.Machine
end

