-- ==== Sys2Proof/Machine/Streams.lean ====
section
/-! DEFINITION. Streams (R224-R228, R318, R319): the channels of the joins (R273, R279), books, the journal (R330-R332), and what sending
and consuming a unit does. -/

namespace Sys2Proof.Machine

/-- The streams that cross a join, in the order of their declarations (R276). -/
def State.joinStreams (s : State) (key : Nat) : List StreamD := match s.image with
  | none => []
  | some im => im.streams.filter (fun d => (s.streamJoins d).contains key)

def State.setJoin (s : State) (key : Nat) (j : JoinSt) : State := { s with joins := SMap.put default key j s.joins }
def State.join (s : State) (key : Nat) : JoinSt := SMap.get default key s.joins

/-- Tags of a join that streams may take (R276). -/
def maxTags : Nat := 0x0FFF

/-- Give the streams of the image their tags on a join, in the order of their declarations (R276): `old` streams keep those that they have. -/
def State.setTags (s : State) (old : List Nat) (key : Nat) : State :=
  let more := ((s.joinStreams key).map (fun d => d.num)).filter (fun n => !old.contains n)
  s.setJoin key { s.join key with tags := (old ++ more).take maxTags }

/-- The tag of a stream on a join; 0 where it has none. -/
def State.streamTag (s : State) (key num : Nat) : Nat :=
  let l := (s.join key).tags
  if l.contains num then l.idxOf num + 1 else 0

/- Channels (R273, R279, R283). -/

def joinChannels (key : Nat) : Nat := if key < 4 then 12 else 8
def freshChan (r : Nat) : Chan := { module := r, width := 64, up := true, times := [] }
def State.chan (s : State) (key r : Nat) : Chan := SMap.get (freshChan r) r (s.join key).chans

/-- Edges of a compute die. -/
inductive Edge where
  | east | north | south | west
  deriving DecidableEq, Repr

/-- The edge of the die at an end of a join (R272): a bridge leaves its first die by the east edge and its second by the north edge. -/
def joinEdge (key : Nat) (second : Bool) : Edge :=
  if key < 4 then (if second then .north else .east) else if key < 8 then .south else .west

/-- The edge router of a channel (R273): its row and column. -/
def edgeRouter (e : Edge) (c : Nat) : Nat × Nat := match e with
  | .east => (c, 11)
  | .north => (0, 11 - c)
  | .south => (11, c + 2)
  | .west => (c + 2, 0)

/-- The channel whose router is the exit router of a unit at a row and column (R279): by row to the east and the west, by column to the north
and the south, clamped to the routers that have one. -/
def exitChannel (e : Edge) (at_ : Nat × Nat) : Nat :=
  let clamp := fun (n : Nat) => min 9 (max 2 n) - 2
  match e with
  | .east => at_.1
  | .north => 11 - at_.2
  | .south => clamp at_.2
  | .west => clamp at_.1

/-- The channel that carries the traffic of channel c (R279): itself, or the nearest that is UP, the lower first at equal distance. -/
def State.nearestChannel (s : State) (key c : Nat) : Nat :=
  let n := joinChannels key
  let tries := c :: (List.range n).flatMap (fun i => (if i < c then [c - (i + 1)] else []) ++ (if c + i + 1 < n then [c + (i + 1)] else []))
  (tries.find? (fun r => (s.chan key r).up)).getD c

/-- The channels by which a unit at a router crosses joins (R279): it enters each die at the router of the channel's other end. -/
def State.routeChannels (s : State) : Nat × Nat → List Hop → List Nat
  | _, [] => []
  | at_, h :: t =>
    let c := s.nearestChannel h.1 (exitChannel (joinEdge h.1 h.2) at_)
    c :: s.routeChannels (edgeRouter (joinEdge h.1 !h.2) c) t

/-- The router of a physical core (R4). -/
def coreRouter (p : Nat) : Nat × Nat := (p % 144 / 12, p % 12)

/-- The channel of the expansion join on which a stream leaves (R224, R279). -/
def State.exitTo (s : State) (d : StreamD) : Nat := match s.lcore? (epLcore d.src) with
  | none => 0
  | some p => (s.routeChannels (coreRouter p) (s.streamHops d)).getLastD 0

/- Books. -/

/-- The book that a core uses for a stream (R350). -/
def State.streamKey (s : State) (p num : Nat) : Nat := match s.replayOf p with
  | none => num
  | some r => replayBook r.n r.vat num

def State.book? (s : State) (key : Nat) : Option Stream := s.streams.find? (fun b => decide (b.num = key))

def State.setBook (s : State) (b : Stream) : State := { s with streams := s.streams.map (fun c => if c.num = b.num then b else c) }

/-- The endpoint is a core of the segment of vat v. -/
def State.epInside (s : State) (v : Option Nat) (e : W32) : Bool :=
  decide (epType e = epCore) && v.isSome && decide (s.segmentOfCore (epLcore e) = v)

/-- A stream of a context leads out of its segment (R345). -/
def State.leaves (s : State) (p x : Nat) (d : StreamD) : Bool :=
  !s.epInside (s.segmentOf ((s.core p).ctx x).bind.vat) d.dst

/- The journal (R330-R332). -/

/-- Sources of journal pages beside the streams: host inputs, and pages set aside for a step (R331). -/
def jInput (id : Nat) : Nat := 2 ^ 32 + id
def jSetAside : Nat := 2 ^ 33

/-- Slots of a page. -/
def jSlots : Nat := 16384

/-- Pages of a die's journal (R328). -/
def State.journalPages (s : State) (die : Nat) : Nat := s.o (0x502001 + die) - s.o (0x502011 + die)

def State.journalHeld (s : State) (die : Nat) : Nat :=
  (s.ledger.pages.filter (fun g => decide (g.die = die))).foldl (fun k g => k + g.pages) 0

def State.journalFree (s : State) (die : Nat) : Nat := s.journalPages die - s.journalHeld die

def State.pagesOf (s : State) (n source die : Nat) : Nat :=
  match s.ledger.pages.find? (fun g => decide (g.step = n ∧ g.source = source ∧ g.die = die)) with
  | none => 0
  | some g => g.pages

/-- Set the pages of a holding; one of no page is not listed. -/
def State.setPages (s : State) (n source die k : Nat) : State :=
  let rest := s.ledger.pages.filter (fun g => decide (¬ (g.step = n ∧ g.source = source ∧ g.die = die)))
  let s := { s with ledger := { s.ledger with
    pages := if k = 0 then rest else rest ++ [{ step := n, source := source, die := die, pages := k }] } }
  let held := s.journalHeld die
  if s.o (0x502031 + die) < held then s.put (0x502031 + die) held else s

/-- One more page for a source of step n on a die: from those set aside, else a free one. -/
def State.takePage (s : State) (n source die : Nat) : Option State :=
  let mine := s.pagesOf n source die
  let aside := s.pagesOf n jSetAside die
  if 0 < aside then some ((s.setPages n jSetAside die (aside - 1)).setPages n source die (mine + 1))
  else if 0 < s.journalFree die then some (s.setPages n source die (mine + 1))
  else none

/-- The step to which an arriving unit belongs: the running one or the one that a local rerun starts again, else the next to start
(DEDUCED). -/
def State.arrivalStep (s : State) : Nat :=
  match s.steps.list.find? (fun r => decide (r.st = .running) || (decide (r.st = .pending) && r.started)) with
  | none => s.lastStarted + 1
  | some r => r.n

/-- Write a unit into the journal of its die (R228, R330); none where no page is free. -/
def State.journalUnit (s : State) (d : StreamD) (u : SUnit) : Option State :=
  let n := s.arrivalStep
  let die := lcoreDie (epLcore d.dst)
  let l := s.journaled n d.num
  let s? := if l.length < jSlots * s.pagesOf n d.num die then some s else s.takePage n d.num die
  s?.map (fun t => t.setJournaled n d.num (l ++ [u]))

/-- A journaled unit finds no page (R332): it waits while an earlier step holds pages on its die; else JOURNAL_FULL. -/
def State.journalFull (s : State) (d : StreamD) : State :=
  let n := s.arrivalStep
  if s.ledger.pages.any (fun g => decide (g.die = lcoreDie (epLcore d.dst) ∧ g.step < n)) then s else s.haltWave 7

/- Sending. -/

/-- The eight data words of a unit. -/
def unitWords (u : Line) : List W64 := (List.range 8).map (fun k => BitVec.ofNat 64 (bits u.toNat (64 * k) 64))

/-- The header word of a stream unit (R346). -/
def unitHeader (num index : Nat) (poison : Bool) : W64 :=
  BitVec.ofNat 64 (2 ^ 63 + (if poison then 2 ^ 61 else 0) + index % 2 ^ 29 * 2 ^ 32 + num)

/-- The digest lane of a stream port absorbs a unit (R345). -/
def State.absorbUnit (s : State) (p x port num index : Nat) (u : SUnit) : State :=
  let k := (s.core p).ctx x
  let l := (unitHeader num index u.2 :: unitWords u.1).foldl absorb (k.lanes.getD (1 + port) (0, 0))
  s.setCtx p x { k with lanes := k.lanes.set (1 + port) l }

/- Join books (R280). -/

/-- B_k of bridge and hub joins (R280). -/
def joinBuffers : List Nat := [64, 128, 1024, 32]

/-- A book at link-up. -/
def JoinBook.fresh (size : List Nat) : JoinBook := { size := size, sent := [], held := [], back := [] }

def JoinSt.book (j : JoinSt) (rev : Bool) : JoinBook := if rev then j.rev else j.fwd
def JoinSt.setBook (j : JoinSt) (rev : Bool) (b : JoinBook) : JoinSt := if rev then { j with rev := b } else { j with fwd := b }

/-- Change the count of a class. -/
def classAdd (l : List Nat) (k n : Nat) : List Nat := (List.range 4).map (fun i => l.getD i 0 + (if i = k then n else 0))
def classSub (l : List Nat) (k n : Nat) : List Nat := (List.range 4).map (fun i => l.getD i 0 - (if i = k then n else 0))

def State.onBook (s : State) (h : Hop) (f : JoinBook → JoinBook) : State :=
  s.setJoin h.1 ((s.join h.1).setBook h.2 (f ((s.join h.1).book h.2)))

/-- The stream of a book, a replay's book among them. -/
def State.bookStream? (s : State) (b : Stream) : Option StreamD := s.streamD? (b.num % 2 ^ 32)

/-- Frames of a class between cores that are on their way over a join: W_k + H_k (R280). -/
def State.framesOn (s : State) (h : Hop) (cls : Nat) : Nat :=
  (s.streams.filter (fun b => !b.flying.isEmpty)).foldl (fun n b => match s.bookStream? b with
    | none => n
    | some d =>
      if d.cls = cls ∧ epType d.src = epCore ∧ epType d.dst = epCore ∧ (s.streamHops d).contains h then n + b.flying.length else n) 0

/-- C_k: what is left of B_k when W_k, H_k and K_k are taken off (R280). -/
def State.joinCredit (s : State) (h : Hop) (cls : Nat) : Nat :=
  let b := (s.join h.1).book h.2
  b.size.getD cls 0 - (b.sent.getD cls 0 + b.back.getD cls 0) - s.framesOn h cls

/-- A frame of a class leaves the receive buffer of a join: its credit is on its way back. One that was never seen in the buffer by itself
leaves it as it is accepted. -/
def State.freeFrame (s : State) (cls : Nat) (h : Hop) : State :=
  s.onBook h (fun b => { b with held := classSub b.held cls 1, back := classAdd b.back cls 1 })

/- Frames of the module to the partner (R275, R278). -/

/-- The header of a unit frame (R275). -/
def frameHeader (cls : Nat) (poison : Bool) (tag : Nat) : W64 :=
  BitVec.ofNat 64 (cls * 2 ^ 60 + (if poison then 2 ^ 59 else 0) + tag * 2 ^ 32)

/-- The credit-return fields of a header, and what is left to return: up to 255 credits of one tag. -/
def creditReturn : List (Nat × Nat) → Nat × List (Nat × Nat)
  | [] => (0, [])
  | (tag, n) :: t => (tag * 2 ^ 16 + min n 255 * 2 ^ 8, if n ≤ 255 then t else (tag, n - 255) :: t)

/-- Credit frames for what no unit frame carried (R275). Fuel bounds the frames. -/
def State.creditFrames (s : State) (chan : Nat) : Nat → List (Nat × Nat) → State
  | 0, _ => s
  | _, [] => s
  | k + 1, e :: t =>
    let (f, rest) := creditReturn (e :: t)
    (s.emit (.creditFrame .expansion chan (BitVec.ofNat 64 (2 ^ 62 + f)))).creditFrames chan k rest

/-- Class of a frame. -/
def frClass (h : W64) : Nat := bits h.toNat 60 2

/-- The frames that wait, in the order in which they leave (R278): class 0, then class 1, then the others. -/
def frameOrder (l : List (Nat × W64 × Line)) : List (Nat × W64 × Line) :=
  let is := fun (k : Nat) (f : Nat × W64 × Line) => decide (frClass f.2.1 = k)
  l.filter (is 0) ++ l.filter (is 1) ++ l.filter (fun f => !is 0 f && !is 1 f)

/-- While the expansion join is UP, what waits for it leaves: unit frames with credits in their headers, then credit frames (R275, R278). -/
def State.sendFrames (s : State) : State :=
  if !s.joinUp kExpansion then s else
  let j := s.join kExpansion
  let s := s.setJoin kExpansion { j with wait := [], owed := [] }
  let r := (frameOrder j.wait).foldl (fun (t : State × List (Nat × Nat)) f =>
    let (c, rest) := creditReturn t.2
    (t.1.emit (.frame .expansion (t.1.nearestChannel kExpansion f.1) (f.2.1 + BitVec.ofNat 64 c) f.2.2), rest)) (s, j.owed)
  r.1.creditFrames (s.nearestChannel kExpansion 0) (r.2.foldl (fun n e => n + e.2) 0) r.2

/-- A unit frame for the partner reaches its edge port. -/
def State.sendUnitFrame (s : State) (chan : Nat) (header : W64) (unit : Line) : State :=
  (s.setJoin kExpansion { s.join kExpansion with wait := (s.join kExpansion).wait ++ [(chan, header, unit)] }).sendFrames

/-- Credits of a tag go back to the partner. -/
def State.sendCredits (s : State) (tag n : Nat) : State :=
  let j := s.join kExpansion
  let owed := if j.owed.any (fun e => decide (e.1 = tag)) then j.owed.map (fun e => if e.1 = tag then (tag, e.2 + n) else e)
              else j.owed ++ [(tag, n)]
  (s.setJoin kExpansion { j with owed := owed }).sendFrames

/-- The joins within the package among a stream's crossings. -/
def State.packageHops (s : State) (d : StreamD) : List Hop := (s.streamHops d).filter (fun h => decide (h.1 ≠ kExpansion))

/-- A unit leaves its sender: in flight toward a core of the module, onto the torus, or as a frame to the partner. Toward a core it
holds a frame of each join that it crosses until it arrives; toward the torus or the partner it has crossed the package's own joins. -/
def State.launch (s : State) (d : StreamD) (key : Nat) (u : SUnit) : State :=
  if epType d.dst = epCore then match s.book? key with
    | none => s
    | some b => s.setBook { b with flying := b.flying ++ [u] }
  else
    let s := (s.packageHops d).foldl (fun t h => t.freeFrame d.cls h) s
    if epType d.dst = epTorus then
      s.sendUnitBytes d.cls (epCoord d.dst) d.num (leBytes 64 u.1.toNat) u.2
    else
      (s.onBook (kExpansion, false) (fun b => { b with sent := classAdd b.sent d.cls 1 })).sendUnitFrame (s.exitTo d)
        (frameHeader d.cls u.2 (s.streamTag kExpansion d.num)) u.1

/-- The sender may send on a stream (R225, R280, R290): it holds a stream credit, and a join credit of each join that the unit crosses.
DESIGN CHOICE: a unit takes the credits of its whole way as it leaves its sender (log 112). -/
def State.maySend (s : State) (d : StreamD) (b : Stream) : Bool :=
  decide (0 < b.credits) && (s.streamHops d).all (fun h => decide (0 < s.joinCredit h d.cls))

/-- Send a unit (R225, R228, R345); none while no credit is held. A replay's sends outside its segment are not delivered. `quiet` units are
not absorbed. -/
def State.sendUnit (s : State) (p x port : Nat) (d : StreamD) (u : SUnit) (quiet : Bool) : Option State :=
  let key := s.streamKey p d.num
  match s.book? key with
  | none => none
  | some b =>
    let out := s.leaves p x d
    let gone := out && (s.replayOf p).isSome
    if !gone && !s.maySend d b then none
    else
      let s := if out && !quiet then s.absorbUnit p x port d.num b.sentStep u else s
      let s := if epType d.dst = epTorus ∧ ¬ gone then s.updStep ((s.core p).ctx x).step (fun r => { r with passedTorus := true }) else s
      let b := { b with sentStep := b.sentStep + 1 }
      if gone then some (s.setBook b) else some ((s.setBook { b with credits := b.credits - 1 }).launch d key u)

/-- A sender stalls: its stalled cycles count, a number that the spec's rules do not fix (R227, R235). -/
def State.creditStall (s : State) (p : Nat) : State :=
  let r := s.draw
  r.2.bump64 (kCore p 0x0E) (r.1.toNat % 2 ^ 32)

/- Receiving. -/

/-- The credit of a consumed unit goes back toward the sender (R225, R319); what the expansion partner holds is kept in the book. -/
def State.returnCredit (s : State) (d : StreamD) (b : Stream) : State :=
  if epType d.src = epCore then s.setBook { b with returning := b.returning + 1 }
  else if epType d.src = epTorus then (s.setBook b).sendFlit ftCredit d.cls (epCoord d.src) d.num (leBytes 2 1) 0 0
  else (s.setBook { b with credits := b.credits + 1 }).sendCredits (s.streamTag kExpansion d.num) 1

/-- A replay reads a journaled stream from the journal (R351). -/
def State.fromJournal (s : State) (p num : Nat) : Bool := match s.replayOf p, s.streamD? num with
  | some r, some d => !s.epInside (some r.vat) d.src
  | _, _ => false

/-- A core has taken a unit of a stream: it may stand after what other cores have accumulated (R219, R256). -/
def State.ordered (s : State) (p : Nat) : State :=
  if s.mem.added = [] then s else
  { s with mem := { s.mem with added := s.mem.added.map (fun e => { e with after := insSet p e.after }) } }

/-- The next unit of a stream at its receiver, and the state once it is consumed. A poisoned unit of the journal leaves a replay undecided
(R355). -/
def State.takeUnit (s : State) (p : Nat) (d : StreamD) : Option (SUnit × State) :=
  match s.replayOf p with
  | some r =>
    if s.fromJournal p d.num then
      let i := SMap.get 0 d.num r.read
      match (s.journaled r.n d.num)[i]? with
      | none => none
      | some u => some (u, State.ordered { s with ledger := { s.ledger with queue := s.ledger.queue.map (fun e =>
          if e = r then { r with read := SMap.put 0 d.num (i + 1) r.read, poisoned := r.poisoned || u.2 } else e) } } p)
    else match s.book? (replayBook r.n r.vat d.num) with
      | none => none
      | some b => match b.share with
        | [] => none
        | u :: t => some (u, (s.returnCredit d { b with share := t }).ordered p)
  | none => match s.book? d.num with
    | none => none
    | some b => match b.again, b.share with
      | u :: t, _ => some (u, (s.setBook { b with again := t }).ordered p)
      | [], [] => none
      | [], u :: t => some (u, (s.returnCredit d { b with share := t }).ordered p)

/-- Take a unit whose credit is kept back until what it belongs to is combined (R225): the unit, whether its credit is owed, and the state. -/
def State.holdUnit (s : State) (p : Nat) (d : StreamD) : Option (SUnit × Bool × State) :=
  match s.fromJournal p d.num, s.book? (s.streamKey p d.num) with
  | false, some b => match b.again, b.share with
    | [], u :: t => some (u, true, (s.setBook { b with share := t }).ordered p)
    | _, _ => (s.takeUnit p d).map (fun r => (r.1, false, r.2))
  | _, _ => (s.takeUnit p d).map (fun r => (r.1, false, r.2))

/-- A unit in flight reaches its share, journaled first where the stream is (R227, R228); the frames in which it crossed the joins are free
again. -/
def State.arrive (s : State) (d : StreamD) (b : Stream) (u : SUnit) : State :=
  let land := fun (t : State) => (s.packageHops d).foldl (fun t h => t.freeFrame d.cls h)
    (t.setBook { b with flying := b.flying.tail, share := b.share ++ [u] })
  if d.journal && decide (b.num < 2 ^ 32) then match s.journalUnit d u with
    | none => s.journalFull d
    | some t => land t
  else land s

/-- A unit in flight may cross to its receiver (R280, R284): each join on the way is UP, and one that comes from the torus or the partner finds
a join credit for the rest of its way. -/
def State.mayArrive (s : State) (d : StreamD) : Bool :=
  (s.streamHops d).all (fun h => s.joinUp h.1) &&
  (decide (epType d.src = epCore) || (s.packageHops d).all (fun h => decide (0 < s.joinCredit h d.cls)))

/-- STREAM_UNIT_ARRIVAL (R227, R228): the oldest unit in flight of the stream arrives. -/
def execStreamUnitArrival (stream : Nat) (unit : Line) (poison : Bool) (s : State) : Out :=
  match s.book? stream, s.streamD? (stream % 2 ^ 32) with
  | some b, some d =>
    if b.flying.head? = some (unit, poison) ∧ s.mayArrive d then .next (s.arrive d b (unit, poison)) else .next s
  | _, _ => .next s

/-- STREAM_CREDIT_RETURN (R225): a credit on its way reaches the sender. -/
def execStreamCreditReturn (stream : Nat) (s : State) : Out :=
  match s.book? stream with
  | none => .next s
  | some b => if b.returning = 0 then .next s else .next (s.setBook { b with returning := b.returning - 1, credits := b.credits + 1 })

end Sys2Proof.Machine
end

