-- ==== Sys2Proof/Machine/StreamPort.lean ====
section
/-! DEFINITION. The commands of the stream ports (R229-R234): SEND, RECV and CHAIN. Each execution of a command's row moves one unit of it. -/

namespace Sys2Proof.Machine

/- Commands of a port. -/

def qPort (port : Nat) : Nat := 3 + port

/-- The command of a port that goes on or starts for a context: the state with it taken, its entry and its progress. -/
def State.portCmd (s : State) (p x q op : Nat) : Option (State × Line × Nat) :=
  let c := s.core p
  match (c.ctx x).current q with
  | some e => if (c.ctx x).alive && !c.halted.contains q && decide (stOp e.1 = op ∧ e.2 < stCount e.1) then some (s, e.1, e.2) else none
  | none => match c.startable q x with
    | none => none
    | some l => if stOp l = op then some (s.takeHead p x q, l, 0) else none

/-- The stream that a command receives or sends: declared, and ending or beginning at this port. -/
def State.streamIn (s : State) (p x port : Nat) (l : Line) : Option StreamD :=
  (s.streamD? (stIn l)).filter (fun d =>
    decide (epType d.dst = epCore ∧ epLcore d.dst = ((s.core p).ctx x).bind.lcore ∧ epPort d.dst = port))

def State.streamOut (s : State) (p x port : Nat) (l : Line) : Option StreamD :=
  (s.streamD? (stOut l)).filter (fun d =>
    decide (epType d.src = epCore ∧ epLcore d.src = ((s.core p).ctx x).bind.lcore ∧ epPort d.src = port))

/-- Addresses of local unit k, and of the unit written for it (R229). -/
def stLocalAddr (l : Line) (k : Nat) : Int := (stLocal l : Int) + 64 * stLocalStep l + 64 * k
def stOutAt (l : Line) (k : Nat) : Int := (stOutAddr l : Int) + 64 * stOutStep l + 64 * k

/-- Read the unit at a core-store address. -/
def State.readUnit (s : State) (e : Eng) (a : Int) : Option SUnit :=
  if s.mapped e spCore a 64 false then
    some (BitVec.ofNat 512 (ofLe ((s.core e.p).csBytes a.toNat 64)), (s.core e.p).csHit a.toNat 64)
  else none

/-- Write a unit to core store, its poison bit with it (R197). -/
def State.writeUnit (s : State) (e : Eng) (a : Int) (u : SUnit) : State :=
  s.setCore e.p ((s.core e.p).csWrite a.toNat (leBytes 64 u.1.toNat) u.2)

/-- An event of a port's command: it runs where a command of the operation is running or may start, its context not stopped by the taking. -/
def State.onPort (s : State) (p x port op : Nat) (go : State → Eng → Line → Nat → State) : Out :=
  s.onCore p (fun _ =>
    match s.portCmd p x (qPort port) op with
    | none => .next s
    | some (t, l, k) => .next (if ((t.core p).ctx x).alive then go t (t.eng p x (qPort port)) l k else t))

/- SEND and RECV. -/

/-- Send unit k of a SEND; without a credit the port stalls (R225, R227). -/
def State.sendGo (s : State) (e : Eng) (l : Line) (k : Nat) : State :=
  match s.streamOut e.p e.x (e.q - 3) l with
  | none => s.badCmd e
  | some d => match s.readUnit e (stLocalAddr l k) with
    | none => s.accessFault e.p e.x e.q (stLocalAddr l k) 3
    | some u => match s.sendUnit e.p e.x (e.q - 3) d u false with
      | none => s.creditStall e.p
      | some t => (t.progress e.p e.x e.q (k + 1)).consumeIf e u.2

/-- STREAM_SEND (R229). -/
def execStreamSend (p : Nat) (port : Fin 2) (x : Fin 4) (s : State) : Out := s.onPort p x.val port.val 0 State.sendGo

/-- A received unit is forwarded unchanged where FWD is set (R229). -/
def State.forward (s : State) (e : Eng) (l : Line) (u : SUnit) : Option State :=
  if !stFwd l then some s else
  match s.streamOut e.p e.x (e.q - 3) l with
  | none => none
  | some d => s.sendUnit e.p e.x (e.q - 3) d u false

/-- Receive unit k of a RECV: it is written, and forwarded where FWD is set; while it cannot be forwarded it waits in its share. -/
def State.recvGo (s : State) (e : Eng) (l : Line) (k : Nat) : State :=
  match s.streamIn e.p e.x (e.q - 3) l with
  | none => s.badCmd e
  | some d =>
    if stFwd l && (s.streamOut e.p e.x (e.q - 3) l).isNone then s.badCmd e else
    match s.takeUnit e.p d with
    | none => s
    | some (u, t) =>
      if !s.mapped e spCore (stOutAt l k) 64 true then s.accessFault e.p e.x e.q (stOutAt l k) 3
      else match t.forward e l u with
        | none => s.creditStall e.p
        | some t => (t.writeUnit e (stOutAt l k) u).progress e.p e.x e.q (k + 1)

/-- STREAM_RECV (R229). -/
def execStreamRecv (p : Nat) (port : Fin 2) (x : Fin 4) (s : State) : Out := s.onPort p x.val port.val 1 State.recvGo

/- Chains (R230-R232). -/

/-- OP and MODE codes of a chain (R258). -/
def coSum : Nat := 0
def coMax : Nat := 1
def coMin : Nat := 2
def coMaxi : Nat := 3
def cmFp32 : Nat := 0
def cmBf16 : Nat := 1
def cmBlock8 : Nat := 2

def State.chainD? (s : State) (num : Nat) : Option ChainD := match s.image with
  | none => none
  | some im => im.chains.find? (fun c => decide (c.num = num))

/-- Local units that one wire group carries (R232). -/
def chainLocals (mode : Nat) : Nat := if mode = cmBlock8 then 128 else if mode = cmBf16 then 2 else 1

/-- Local units that meet one received element unit. -/
def unitLocals (mode : Nat) : Nat := if mode = cmBlock8 then 4 else if mode = cmBf16 then 2 else 1

/-- An element with its poison mark. -/
abbrev PEl := W32 × Bool

/-- The sixteen FP32 elements of a unit. -/
def unitEls16 (u : SUnit) : List PEl := (List.range 16).map (fun i => (BitVec.ofNat 32 (bits u.1.toNat (32 * i) 32), u.2))

/-- A unit of bytes with the marks of the elements behind it. -/
def packUnit (bytes : List Byte) (poison : Bool) : SUnit := (BitVec.ofNat 512 (ofLe bytes), poison)

/-- Cut a list into pieces of n; fuel bounds the pieces. -/
def chunks {α : Type} (n : Nat) : Nat → List α → List (List α)
  | 0, _ => []
  | k + 1, l => if l.isEmpty then [] else l.take n :: chunks n k (l.drop n)

/-- FP32 elements as units of sixteen. -/
def fp32Units (l : List PEl) : List SUnit :=
  (chunks 16 l.length l).map (fun c => packUnit (c.flatMap (fun e => leBytes 4 e.1.toNat)) (c.any (fun e => e.2)))

/-- wire() (R232). DESIGN CHOICE (log 108): these casts count in none of the counters of 0x6030. -/
def chainWire (mode : Nat) (l : List PEl) : List SUnit :=
  if mode = cmBf16 then
    (chunks 32 l.length l).map (fun c =>
      packUnit (c.flatMap (fun e => leBytes 2 (castNum fBF16 .rne (val32 e.1)).code)) (c.any (fun e => e.2)))
  else if mode = cmBlock8 then
    let bs := (chunks 32 l.length l).map (fun c => (blockCast fE4M3 (fun _ => .rne) (c.map (fun e => val32 e.1)), c.any (fun e => e.2)))
    packUnit (bs.map (fun b => BitVec.ofNat 8 b.1.1)) (bs.any (fun b => b.2)) ::
      (chunks 2 bs.length bs).map (fun c =>
        packUnit (c.flatMap (fun b => b.1.2.map (fun y => BitVec.ofNat 8 y.code))) (c.any (fun b => b.2)))
  else fp32Units l

/-- decode() of the j-th element unit of a group (R232): exact widening to FP32; a block of scale 0xFF is NaN. `sc` is the scale unit of its
group. -/
def chainDecode (mode : Nat) (sc : SUnit) (j : Nat) (u : SUnit) : List PEl :=
  if mode = cmBf16 then (List.range 32).map (fun i => (widen fBF16 (bits u.1.toNat (16 * i) 16), u.2))
  else if mode = cmBlock8 then (List.range 64).map (fun i =>
    let b := bits sc.1.toNat (8 * (2 * j + i / 32)) 8
    let y := decode fE4M3 (bits u.1.toNat (8 * i) 8)
    (if b = 255 then nan32 else rn32 (y.scale ((b : Int) - 127)), u.2 || sc.2))
  else unitEls16 u

/-- Combine one element of SUM, MAX or MIN (R230, R232). -/
def chainEl (op : Nat) (a v : PEl) : PEl :=
  (if op = coSum then add32 a.1 v.1
   else if (val32 a.1).isNan ∨ (val32 v.1).isNan then nan32
   else if op = coMin then (if (val32 v.1).less (val32 a.1) then v.1 else a.1)
   else if (val32 a.1).less (val32 v.1) then v.1 else a.1, a.2 || v.2)

/-- A pair of MAXI or MINI beats the one held (R230): NaN before numbers, and the lower index on a tie. -/
def pairBeats (max : Bool) (c w : W32 × Nat) : Bool :=
  let nc := (val32 c.1).isNan
  let nw := (val32 w.1).isNan
  if nc ∧ nw then decide (c.2 < w.2)
  else if nc ∨ nw then nc
  else if (val32 c.1).less (val32 w.1) then !max
  else if (val32 w.1).less (val32 c.1) then max
  else decide (c.2 < w.2)

/-- The eight pairs of a unit. -/
def unitPairs (u : Line) : List (W32 × Nat) :=
  (List.range 8).map (fun i => (BitVec.ofNat 32 (bits u.toNat (32 * i) 32), bits u.toNat (256 + 32 * i) 32))

/-- Combine two units of pairs; a NaN becomes the canonical one. -/
def chainPairs (max : Bool) (a v : SUnit) : SUnit :=
  let ps := ((unitPairs a.1).zip (unitPairs v.1)).map (fun e => if pairBeats max e.2 e.1 then e.2 else e.1)
  packUnit (ps.flatMap (fun p => leBytes 4 (if (val32 p.1).isNan then nan32 else p.1).toNat) ++ ps.flatMap (fun p => leBytes 4 p.2))
    (a.2 || v.2)

/-- What a member that is not the first holds after it has combined a received element unit with its own units (R232), as OUT receives it. -/
def chainCombine (c : ChainD) (sc : SUnit) (j : Nat) (u : SUnit) (mine : List SUnit) : List SUnit :=
  if coMaxi ≤ c.op then mine.map (fun v => chainPairs (decide (c.op = coMaxi)) u v)
  else fp32Units (((chainDecode c.mode sc j u).zip (mine.flatMap unitEls16)).map (fun e => chainEl c.op e.1 e.2))

/-- What it sends: the wire form of what it holds, or on a return the FP32 units themselves (R231). -/
def chainSend (c : ChainD) (last : Bool) (acc : List SUnit) : List SUnit :=
  if last || decide (c.op ≠ coSum) then acc else chainWire c.mode (acc.flatMap unitEls16)

/-- Roles of a CHAIN (R229). -/
def roleFirst : Nat := 0
def roleLast : Nat := 2
def roleReturn : Nat := 3

/-- Rules of a CHAIN command (R231, R236): its chain, whole groups, and the streams that its role needs. -/
def State.chainBad (s : State) (e : Eng) (l : Line) : Bool :=
  match s.chainD? (stChain l) with
  | none => true
  | some c => decide (stCount l % chainLocals c.mode ≠ 0) ||
    (decide (stRole l ≠ roleFirst) && (s.streamIn e.p e.x (e.q - 3) l).isNone) ||
    (decide (stRole l ≠ roleLast) && (s.streamOut e.p e.x (e.q - 3) l).isNone)

/-- The chain buffer of a queue's command. -/
def Ctx.chainBuf (k : Ctx) (q : Nat) : ChainBuf := SMap.get default q k.chains

def State.setChainBuf (s : State) (e : Eng) (b : ChainBuf) : State :=
  let k := (s.core e.p).ctx e.x
  s.setCtx e.p e.x { k with chains := SMap.put default e.q b k.chains }

/-- Read the local units of the group from unit k, or the address that faults. -/
def State.chainMine (s : State) (e : Eng) (l : Line) (k : Nat) : Nat → Got (List SUnit)
  | 0 => .ok []
  | n + 1 => match s.readUnit e (stLocalAddr l k) with
    | none => .fault (stLocalAddr l k) 3
    | some u => match s.chainMine e l (k + 1) n with
      | .fault a f => .fault a f
      | .ok t => .ok (u :: t)

/-- Write result units from unit k, or the address that faults. -/
def State.chainWrite (s : State) (e : Eng) (l : Line) : Nat → List SUnit → Run
  | _, [] => ⟨s, none⟩
  | k, u :: t =>
    if s.mapped e spCore (stOutAt l k) 64 true then (s.writeUnit e (stOutAt l k) u).chainWrite e l (k + 1) t
    else ⟨s, some (stOutAt l k, 3)⟩

/-- Units that end a member's part of a group stand in `acc`: a last member is done with it, the others send it. -/
def State.chainGroup (s : State) (e : Eng) (l : Line) (c : ChainD) (k : Nat) (acc : List SUnit) : State :=
  let last := decide (roleLast ≤ stRole l)
  let b := ((s.core e.p).ctx e.x).chainBuf e.q
  let t := s.setChainBuf e { b with got := [], acc := [], toSend := if stRole l = roleLast then [] else chainSend c last acc }
  if stRole l = roleLast then t.progress e.p e.x e.q (k + chainLocals c.mode) else t

/-- Units of a chain's own combine with `how`, from local unit k on; a last member writes the result. `hit` is the poison of what was received. -/
def State.chainMeet (s : State) (e : Eng) (l : Line) (k n : Nat) (hit : Bool) (how : List SUnit → List SUnit)
    (go : State → List SUnit → State) : State :=
  match s.chainMine e l k n with
  | .fault a f => s.accessFault e.p e.x e.q a f
  | .ok mine =>
    let got := how mine
    let r := if roleLast ≤ stRole l then s.chainWrite e l k got else ⟨s, none⟩
    match r.fault with
    | some f => r.s.accessFault e.p e.x e.q f.1 f.2
    | none => go (r.s.consumeIf e (hit || mine.any (fun u => u.2))) got

/-- The credit of the scale unit of a group goes back once its last element unit is combined (R225). -/
def State.scaleCredit (s : State) (p : Nat) (d : StreamD) (owed : Bool) : State :=
  if !owed then s else match s.book? (s.streamKey p d.num) with
  | none => s
  | some b => s.returnCredit d b

/-- A member that is not the first takes one unit: the scale unit of a BLOCK8 group is held, an element unit is combined (R225, R231). -/
def State.chainTake (s : State) (e : Eng) (l : Line) (c : ChainD) (k : Nat) : State :=
  match s.streamIn e.p e.x (e.q - 3) l with
  | none => s
  | some d =>
    let b := ((s.core e.p).ctx e.x).chainBuf e.q
    if c.mode = cmBlock8 ∧ c.op = coSum ∧ b.got = [] then match s.holdUnit e.p d with
      | none => s
      | some (u, owed, t) => t.setChainBuf e { b with got := [u], owed := owed }
    else match s.takeUnit e.p d with
      | none => s
      | some (u, t) =>
        let sc := b.got.headD (0, false)
        t.chainMeet e l (k + b.acc.length) (unitLocals c.mode) (u.2 || sc.2)
          (chainCombine c sc (b.acc.length / unitLocals c.mode) u) (fun t got =>
            let acc := b.acc ++ got
            if acc.length < chainLocals c.mode then t.setChainBuf e { b with acc := acc }
            else (t.scaleCredit e.p d b.owed).chainGroup e l c k acc)

/-- Receive and combine, where nothing of the group waits to be sent. -/
def State.chainCombineGo (s : State) (e : Eng) (l : Line) (c : ChainD) (k : Nat) : State :=
  if (((s.core e.p).ctx e.x).chainBuf e.q).toSend ≠ [] then s
  else if stRole l = roleFirst then s.chainMeet e l k (chainLocals c.mode) false id (fun t acc => t.chainGroup e l c k acc)
  else s.chainTake e l c k

/-- Send one unit of a combined group; its last one ends the group. -/
def State.chainSendGo (s : State) (e : Eng) (l : Line) (c : ChainD) (k : Nat) : State :=
  let b := ((s.core e.p).ctx e.x).chainBuf e.q
  match b.toSend, s.streamOut e.p e.x (e.q - 3) l with
  | u :: t, some d => match s.sendUnit e.p e.x (e.q - 3) d u false with
    | none => s.creditStall e.p
    | some r =>
      let r := r.setChainBuf e { b with toSend := t }
      if t = [] then r.progress e.p e.x e.q (k + chainLocals c.mode) else r
  | _, _ => s

/-- One unit's work of a CHAIN: receive, combine, send. -/
def State.chainGo (s : State) (e : Eng) (l : Line) (k : Nat) : State :=
  if s.chainBad e l then s.badCmd e else
  match s.chainD? (stChain l) with
  | none => s
  | some c =>
    let t := s.chainCombineGo e l c k
    if ((t.core e.p).ctx e.x).alive then t.chainSendGo e l c k else t

/-- CHAIN (R231-R234). -/
def execChain (p : Nat) (port : Fin 2) (x : Fin 4) (s : State) : Out := s.onPort p x.val port.val 2 State.chainGo

end Sys2Proof.Machine
end

