-- ==== Sys2Proof/Machine/Budget.lean ====
section
/-! DEFINITION. Command budgets (R38, R56, R293, R398): the stalls that a budget does not count, and a bundle group that its budget does not
cover. The counted cycles of a group are those of its core; of any other command the event of its timeout tells that they are spent. -/

namespace Sys2Proof.Machine

/-- An endpoint on another module (R398). -/
def epAway (e : W32) : Bool := decide (epType e ≠ epCore)

/-- A sender on a stream has no credit (R225), where its units are delivered. -/
def State.noCredit (s : State) (p x : Nat) (d : StreamD) : Bool :=
  match s.book? (s.streamKey p d.num) with
  | none => true
  | some b => !(s.leaves p x d && (s.replayOf p).isSome) && !s.maySend d b

/-- The streams on which the command of a port is stalled: it waits for units of the first, for credits of the second. -/
def State.portWaits (s : State) (p x q : Nat) : Option StreamD × Option StreamD :=
  let k := (s.core p).ctx x
  match k.current q with
  | none => (none, none)
  | some (l, n) =>
    if stCount l ≤ n then (none, none) else
    let units := (s.streamIn p x (q - 3) l).filter (fun d => (s.takeUnit p d).isNone)
    let room := (s.streamOut p x (q - 3) l).filter (fun d => s.noCredit p x d)
    if stOp l = 0 then (none, room)
    else if stOp l = 1 then (units, if stFwd l then room else none)
    else if (k.chainBuf q).toSend ≠ [] then (none, room)
    else if stRole l = roleFirst then (none, none) else (units, none)

/-- A RECV, CHAIN or SEND of the context is stalled on a stream whose other endpoint lies on another module (R398). In a replay a journaled
stream that is exhausted stalls on no other module (R351). -/
def State.awayStall (s : State) (p x : Nat) : Bool :=
  (s.replayOf p).isNone && [3, 4].any (fun q =>
    let w := s.portWaits p x q
    w.1.any (fun d => epAway d.src) || w.2.any (fun d => epAway d.dst))

/-- The budgets of a context's commands do not run (R398). -/
def State.budgetPaused (s : State) (p x : Nat) : Bool := s.awayStall p x

/-- The cycle of the core in which a running group meets its next event: the issue of its next bundle, or its last landing. -/
def Core.groupNext (c : Core) (g : Group) : Nat :=
  if g.next < g.bundles.length then max c.cycle g.due else c.cycle + c.flushIssued.settleCycles false

/-- A running group is late (R56, R529): its next event lies past the BUDGET-th cycle after its start, and its budget runs. -/
def State.groupLate (s : State) (p : Nat) (g : Group) : Bool :=
  decide (g.started + entBudget g.entry < (s.core p).groupNext g) && !s.budgetPaused p g.ctx

end Sys2Proof.Machine
end

