-- ==== Sys2Proof/Machine/BundleEngine.lean ====
section
/-! DEFINITION. The bundle engine (R60-R66, R92), and the swatches that the vector unit evaluates (R341-R344). -/

namespace Sys2Proof.Machine

/-- The bundles and descriptors of an entry, as core store holds them, with those that hit (R197). -/
def Core.fillGroup (c : Core) (x : Nat) (e : Line) : Group :=
  { ctx := x, entry := e,
    bundles := (List.range (entGroupCount e)).map (fun i => BitVec.ofNat 128 (ofLe (c.csBytes (entGroupAddr e + 16 * i) 16))),
    descs := (List.range 16).map (fun i => BitVec.ofNat 256 (ofLe (c.csBytes (entDescAddr e + 32 * i) 32))),
    hitBundles := (List.range (entGroupCount e)).filter (fun i => c.csHit (entGroupAddr e + 16 * i) 16),
    hitDescs := (List.range 16).filter (fun i => c.csHit (entDescAddr e + 32 * i) 32),
    next := 0, due := 0, started := 0, running := false, trapped := false, opened := [] }

/-- The fill of a group met inverted parity. -/
def Group.fillHit (g : Group) : Bool := !g.hitBundles.isEmpty || !g.hitDescs.isEmpty

/-- The context that a free buffer is filled for: at the boundary the one whose turn it is, else the next in order (R60, R65, R66). -/
def Core.fillFor (c : Core) : Option Nat := if c.group.isNone then c.groupTurn else c.nextFor qBundle

/-- GROUP_BUFFER_FILL (R65, R66): a free buffer takes the group of the next context in order whose wait is satisfied; with no group running,
that context's turn it is (R60). -/
def execGroupBufferFill (p : Nat) (s : State) : Out :=
  s.onCore p (fun c =>
    if c.nextGroup.isSome ∨ c.halted.contains qBundle then .next s
    else match c.fillFor with
      | none => .next s
      | some x => match (c.ctx x).queue qBundle with
        | [] => .next s
        | e :: _ =>
          let g := c.fillGroup x e
          let t := s.setCore p { c with nextGroup := some g, turn := if c.group.isNone then some x else c.turn }
          .next (if g.fillHit then t.consumePoison p x else t))

/-- The units and drain paths that any bundle of a group uses (R92). -/
def Group.units (g : Group) : List Nat := (g.bundles.flatMap bundleOps).map SlotOp.unit

/-- Cycles until every unit of a group is unoccupied. -/
def Core.unitWait (c : Core) (g : Group) : Nat :=
  g.units.foldl (fun m u => max m (SMap.get 0 u c.busy - c.cycle)) 0

/-- The filled group still stands at the head of its context's queue, its wait satisfied (R63). -/
def Core.fillStands (c : Core) (g : Group) : Bool :=
  (c.ctx g.ctx).alive && (c.ctx g.ctx).headReady qBundle && decide (((c.ctx g.ctx).queue qBundle).head? = some g.entry)

/-- The filled group is of use: it stands, and once no group runs it is its context's turn (R60). -/
def Core.fillUsable (c : Core) (g : Group) : Bool :=
  c.fillStands g && (c.group.isSome || decide (c.groupTurn = some g.ctx))

/-- A filled group starts in the core's cycle: the engine takes its entry, and its first bundle is due. -/
def State.startGroup (s : State) (p : Nat) (g : Group) : State :=
  let c := s.core p
  let s := s.setCore p { c with nextGroup := none, turn := none, issued := [],
                                group := some { g with running := true, started := c.cycle, due := c.cycle } }
  s.takeHead p g.ctx qBundle

/-- GROUP_START (R63, R92): a filled group starts once no group runs, every write has landed, and its units are free. A buffer whose
group cannot be the next is freed. -/
def execGroupStart (p : Nat) (s : State) : Out :=
  s.onCore p (fun c =>
    match c.nextGroup with
    | none => .next s
    | some g =>
      if !c.fillUsable g then .next (s.setCore p { c with nextGroup := none })
      else if c.group.isSome ∨ c.pend ≠ [] ∨ c.halted.contains qBundle then .next s
      else .next ((s.advance p (c.unitWait g)).startGroup p g))

/-- The bundle engine goes on with the running group's next bundle in its cycle (R64): its run-time checks (R529), and then its
operations wait for their own commands, in slot order. -/
def State.issueBundle (s : State) (p : Nat) : State :=
  let c := s.core p
  match c.group with
  | none => s
  | some g =>
    if g.trapped || decide (g.bundles.length ≤ g.next) then s
    else if bundleTraps (s.scope (c.ctx g.ctx)) g.bundles g.descs (entVbase g.entry) g.next then
      s.trap p g.ctx qBundle ((c.ctx g.ctx).cmdPos qBundle)
    else
      let b := g.bundles.getD g.next 0
      s.setCore p { c with issued := bundleOps b, group := some { g with next := g.next + 1, due := c.cycle + bnGap b + 1 } }

/-- BUNDLE_ISSUE (R64, R65, R68): the next bundle of the running group issues in its cycle; what is left of the one before it issues
first. In a group that is late its timeout comes before (R56). -/
def execBundleIssue (p : Nat) (s : State) : Out :=
  s.onCore p (fun c =>
    match c.group with
    | none => .next s
    | some g =>
      if g.trapped || decide (g.bundles.length ≤ g.next) || s.groupLate p g then .next s
      else .next ((s.advance p (g.due - c.cycle)).issueBundle p))

/-- The group of a core ends: its entry leaves the engine, with its signal where it was not stopped (R50, R55, R63). At this boundary the
engine chooses the context that it goes on with (R60), its own signal counted. -/
def State.endGroup (s : State) (p : Nat) : State :=
  let c := s.core p
  match c.group with
  | none => s
  | some g =>
    let s := s.setCore p { c with group := none, issued := [] }
    let s := if g.trapped || !(c.ctx g.ctx).alive then
        s.setCtx p g.ctx { (c.ctx g.ctx) with taken := SMap.del qBundle (c.ctx g.ctx).taken }
      else s.finishCmd p g.ctx qBundle
    s.setCore p { s.core p with turn := (s.core p).nextFor qBundle }

/-- Let the last write of a group land, or for a stopped one every issued operation end, and end it. One that is late times out (R56). -/
def State.completeGroup (s : State) (p : Nat) : State :=
  match (s.core p).group with
  | none => s
  | some g =>
    if !g.trapped && (decide (g.next < g.bundles.length) || s.groupLate p g) then s
    else (s.settle p g.trapped).endGroup p

/-- GROUP_COMPLETE (R63): a group completes when its last write lands. -/
def execGroupComplete (p : Nat) (s : State) : Out := s.onCore p (fun _ => .next (s.completeGroup p))

/- Operations of the bundle that issues. -/

/-- Issue an operation of the current bundle when it is the next in slot order (R68); the descriptor, base and context are those of its
group. -/
def State.issueSlot (s : State) (p : Nat) (op : SlotOp) : Out :=
  s.onCore p (fun c =>
    match c.group with
    | none => .next s
    | some g =>
      if c.issued.head? = some op then
        .next (s.setCore p (({ c with issued := c.issued.tail }).issueOp op g))
      else .next s)

/- Swatches. -/

/-- Every swatch of step n is evaluated on every core: the step may be ready (R27, R344). -/
def State.swatchDone (s : State) (p n : Nat) : State :=
  if (s.core p).swatches.any (fun w => decide (w.step = n)) then s
  else (s.updStep n (fun r => { r with swatchOwing := delSet p r.swatchOwing })).sendReady

/-- A swatch beyond the limit marks its step and raises SWATCH_DISAGREE (R343). -/
def State.swatchBad (s : State) (p : Nat) (w : Swatch) (e : W32) : State :=
  let seg := match s.segmentOf ((s.core p).ctx w.ctx).bind.vat with
    | none => []
    | some g => [g]
  ((s.bump64 0x602303 1).mark w.step seg .swatch).raiseAt 0x0204 w.step p e.toNat

/-- Evaluate one captured swatch (R341, R342). -/
def State.evalSwatch (s : State) (p : Nat) (w : Swatch) : State :=
  let e := w.error
  let b := errorBucket e
  let s := { s.bump64 0x602301 1 with histogram := SMap.put 0 b ((SMap.get 0 b s.histogram + 1) % 2 ^ 64) s.histogram }
  if (val32 (BitVec.ofNat 32 (s.o 0x602100))).less (val32 e) then s.swatchBad p w e else s

/-- SWATCH_EVALUATE (R341): the vector unit has recomputed the oldest captured swatch. -/
def execSwatchEvaluate (p : Nat) (s : State) : Out :=
  s.onCore p (fun c =>
    match c.swatches with
    | [] => .next s
    | w :: t => .next (((s.setCore p { c with swatches := t }).evalSwatch p w).swatchDone p w.step))

end Sys2Proof.Machine
end

