-- ==== Sys2Proof/Machine/Arrays.lean ====
section
/-! DEFINITION. The array commands (R84-R96). An operation of the bundle that issues goes to its array; its reads, sums and landings
follow cycle by cycle (Bundles, Tiles). -/

namespace Sys2Proof.Machine

/-- MMA (R84-R91). -/
def execMma (p : Nat) (a : AArgs) (s : State) : Out := s.issueSlot p (.array .mma a)

/-- MAX (R95, R96). -/
def execArrayMax (p : Nat) (a : AArgs) (s : State) : Out := s.issueSlot p (.array .max a)

/-- MIN (R95, R96). -/
def execArrayMin (p : Nat) (a : AArgs) (s : State) : Out := s.issueSlot p (.array .min a)

/-- DRAIN (R93): a bank leaves row by row for core store. -/
def execDrain (p : Nat) (arr bank : Fin 2) (desc : Fin 16) (s : State) : Out := s.issueSlot p (.drain arr bank desc)

/-- The landing cycle of a finished reduction on a bank. -/
def Core.bankLanding (c : Core) (arr bank : Nat) : Option Nat :=
  (c.pend.find? (fun w => match w.what with
    | .bank a b _ _ => decide (a = arr ∧ b = bank)
    | _ => false)).map (fun w => w.at_)

/-- No bundle of the running group is due before cycle t. -/
def Core.clearTo (c : Core) (t : Nat) : Bool := match c.group with
  | none => true
  | some g => g.trapped || decide (g.bundles.length ≤ g.next) || decide (t ≤ g.due)

/-- ARRAY_RESULT_LANDING (R85): the core reaches the cycle in which a finished reduction lands all 4,096 values of its bank. The cycles
before it pass; one with a bundle due in it waits for that bundle. -/
def execArrayResultLanding (p : Nat) (arr bank : Fin 2) (s : State) : Out :=
  s.onCore p (fun c =>
    match c.bankLanding arr.val bank.val with
    | none => .next s
    | some t => if c.clearTo t then .next (s.advance p (t - c.cycle)) else .next s)

end Sys2Proof.Machine
end

