-- ==== Sys2Proof/Machine/Checkpoint.lean ====
section
/-! DEFINITION. The events of a checkpoint (R373-R389): blocks coded, storage writes answered, reports gathered. -/

namespace Sys2Proof.Machine

/- The shard. -/

/-- Number of a content block: granules first, then the frozen table. -/
def State.blockNumber (s : State) (b : Nat × Nat) : Nat := if b.2 = 2 then s.granules.length + b.1 else s.granuleNumber b.1

/-- A stored block (R383): its header, the page records of its raw bytes, and zeros to a multiple of 64 B. -/
def storedBlock (num : Nat) (raw : List Byte) : List Byte :=
  let body := codePages ((raw.length + 4095) / 4096) raw
  let l := leBytes 4 0x4B425854 ++ leBytes 4 num ++ leBytes 4 body.length ++ leBytes 4 raw.length ++ body
  bytesAt l 0 (round64 l.length)

/-- Write every block that is next in block order and has been read (R379). Fuel bounds the blocks. -/
def State.placeBlocks (s : State) (h : Shard) : Nat → State
  | 0 => { s with ckpt := { s.ckpt with shard := some h } }
  | k + 1 =>
    let b := h.written.length
    if SMap.has b h.raw then
      let data := storedBlock b (SMap.get [] b h.raw)
      let r := h.records.getD (b % h.records.length) 0
      if !s.connected r then ({ s with ckpt := { s.ckpt with shard := some h } } : State).failShard 2
      else (s.storeWrite .shard r (h.addr + h.offset) data).placeBlocks
        { h with written := h.written ++ [(h.offset, data.length)], offset := h.offset + data.length } k
    else { s with ckpt := { s.ckpt with shard := some h } }

/-- Read a block of the shard: a hit in a slot that is still fixed falls under R39 and the block waits for its repair, a hit in a freed one
fails the shard (R377). -/
def State.codeBlock (s : State) (h : Shard) (b : Nat × Nat) (rest : List (Nat × Nat)) : State :=
  if s.mirror.repairs.contains b then s
  else if decide (b.2 ≠ 2) && s.hbmHit (s.slotAddr b.1 b.2) mib then
    if (s.gran b.1).fixedSlot = b.2 then s.parityFixed b.1 else (s.failShard 5).nextShard
  else
    let h := { h with blocks := rest, raw := SMap.ins (s.blockNumber b) (s.blockBytes b) h.raw }
    ((s.unpinBlock h.step b).placeBlocks h (h.raw.length + 1)).nextShard

/-- SHARD_BLOCK_CODED (R376, R377, R379). -/
def execShardBlockCoded (s : State) : Out :=
  match s.ckpt.shard with
  | none => .next s
  | some h => match h.blocks with
    | [] => .next s
    | b :: t => if s.hubUp then .next (s.codeBlock h b t).settleHeld else .next s

/-- The shard is complete (R379, R384, R396). -/
def State.completeShard (s : State) (h : Shard) : State :=
  let s := { s with ckpt := { s.ckpt with shard := none } }
  let s := ((s.put 0x506206 h.stored).bump32 0x506208 1).settleCut
  (s.reportShard h.old { coord := s.coord, step := h.step, cause := 0, slot := h.slot, stored := h.stored, content := h.content,
                         digest := h.digest }).nextShard

/-- A write of the shard is acknowledged. -/
def State.shardAck (s : State) : State :=
  match s.ckpt.shard with
  | none => s
  | some h => if h.phase = 2 then s.completeShard h else s.advanceShard.nextShard

/- The manifest. -/

/-- The checkpoint is complete (R385). -/
def State.completeCut (s : State) : State :=
  let c := s.o kCutStep; let slot := s.o kCutSlot
  (((s.put 0x506204 c).put kLastCompleteSlot slot).endCut stDone [c % 2 ^ 32, c / 2 ^ 32, slot]).nextCheckpoint

/-- The entries and the signature of the manifest are acknowledged: its header follows (R385). -/
def State.writeHeader (s : State) : State :=
  match s.targets with
  | [] => s.failCut 2
  | n :: _ => s.storeWrite .header n (targetSlotAddr (s.target n) (s.o kCutSlot)) (s.manifestHeader (s.o kCutStep) (s.o kCutSlot))

/- The answers. A connection answers its writes in order. -/

/-- The oldest write that satisfies p, and the others. -/
def takeWrite (p : StoreWrite → Bool) : List StoreWrite → Option (StoreWrite × List StoreWrite)
  | [] => none
  | w :: t => if p w then some (w, t) else (takeWrite p t).map (fun r => (r.1, w :: r.2))

/-- Answer the oldest write that satisfies p: with `f` where its shard or cut still stands. -/
def State.answerWrite (s : State) (p : StoreWrite → Bool) (f : State → StoreFor → State) : State :=
  match takeWrite p s.ckpt.writes with
  | none => s
  | some (w, ws) =>
    let s := { s with ckpt := { s.ckpt with writes := ws } }
    if w.live then f s w.what else s.nextShard

/-- MANIFEST_INVALIDATED (R373, R374): the cut may be declared, at once where the root stands STOPPED. -/
def execManifestInvalidated (s : State) : Out :=
  if s.hubUp then
    .next (s.answerWrite (fun w => decide (w.what = .invalidation)) (fun s _ =>
      ({ s with ckpt := { s.ckpt with invalidated := true } } : State).declareStopped))
  else .next s

/-- A storage record of an event: 0-7, or the command is ill-formed. -/
def State.onStorage (s : State) (n : Nat) (f : State → State) : Out :=
  if 8 ≤ n then .refused .illFormed else if s.hubUp then .next (f s) else .next s

/-- STORAGE_WRITE_ACK (R379, R385): the oldest write of the record that is out is acknowledged; MANIFEST_INVALIDATED is that of an
invalidation. -/
def execStorageWriteAck (n : Nat) (s : State) : Out :=
  s.onStorage n (fun s => s.answerWrite (fun w => decide (w.record = n ∧ w.what ≠ .invalidation)) (fun s what => match what with
    | .shard => s.shardAck
    | .entries => s.writeHeader
    | .header => s.completeCut
    | .invalidation => s))

/-- STORAGE_WRITE_FAILURE (R373, R379, R389). -/
def execStorageWriteFailure (n : Nat) (s : State) : Out :=
  s.onStorage n (fun s => (s.answerWrite (fun w => decide (w.record = n)) (fun s what => match what with
    | .shard => (s.failShard 2).nextShard
    | _ => s.failCut 2)).settleHeld)

/-- SHARD_REPORT (R384, R385, R389). -/
def execShardReport (m : Msg) (s : State) : Out :=
  s.onMsg m (fun s =>
    if !s.isRoot then s else
    s.shardReport { coord := m.coord.toNat, step := m.step.toNat, cause := bits m.word.toNat 0 8, slot := bits m.word.toNat 8 1,
                    stored := m.value.toNat, content := fieldAt m.data 0 8, digest := BitVec.ofNat 512 (fieldAt m.data 8 64) })

end Sys2Proof.Machine
end

