-- ==== Sys2Proof/Machine/ClassZero.lean ====
section
/-! DEFINITION. The class-0 messages of the step and halt protocols (R27, R28, R35, R36, R316, R317, R414-R418). In external fault manager mode
all are discarded, but for the cut of a GRANT that carries one (R418). -/

namespace Sys2Proof.Machine

/-- The module's own fault decision is on. -/
def State.decides (s : State) : Bool := decide (s.o kDecisionMode = 0)

/-- A flood of the decision protocol, discarded in external mode. -/
def State.onDecision (s : State) (m : Msg) (tag : Nat) (f : State → State) : Out :=
  if s.decides then s.onFlood m tag f else s.onMsg m id

/-- A flood that only the root issues. -/
def State.onRootFlood (s : State) (m : Msg) (tag : Nat) (f : State → State) : Out :=
  s.onDecision m tag (fun s => if m.coord = 0 ∧ s.image.isSome then f s else s)

/-- HALT (R414). -/
def execHalt (m : Msg) (s : State) : Out :=
  s.onDecision m 0xF001 (fun s =>
    let s := s.bump64 0x504201 1
    if s.image.isSome then s.haltActs (bits m.word.toNat 0 8) m.coord.toNat m.msgId.toNat else s)

/-- A message of a child toward the root (R317). -/
def State.onChild (s : State) (m : Msg) (f : Nat → State → State) : Out :=
  s.onMsg m (fun s => if s.decides && s.image.isSome && s.children.contains m.coord.toNat then f m.coord.toNat s else s)

/-- READY (R27, R317). -/
def execReady (m : Msg) (s : State) : Out :=
  s.onChild m (fun c s =>
    ({ s with steps := { s.steps with childReady := SMap.put 0 c m.step.toNat s.steps.childReady } } : State).sendReady)

/-- GRANT (R28, R374, R418). -/
def execGrant (m : Msg) (s : State) : Out :=
  if s.decides then s.onRootFlood m 0xF003 (fun s => s.onGrant m.step.toNat m.word.toNat m.value.toNat)
  else if m.word.getLsbD 0 then
    s.onFlood m 0xF003 (fun s => if m.coord = 0 ∧ s.image.isSome then s.onGrant m.step.toNat m.word.toNat m.value.toNat else s)
  else s.onMsg m id

/-- STOP_REPORT (R415). -/
def execStopReport (m : Msg) (s : State) : Out :=
  s.onChild m (fun c s =>
    if s.steps.rollback.isNone then s else
    ({ s with steps := { s.steps with childStop := SMap.ins c (m.step.toNat, m.word.toNat % 8) s.steps.childStop } } : State).report)

/-- TARGET (R416). -/
def execTarget (m : Msg) (s : State) : Out :=
  s.onRootFlood m 0xF007 (fun s => (s.onTarget m.step.toNat (m.word.toNat % 2)).report)

/-- RESUME (R35). -/
def execResume (m : Msg) (s : State) : Out :=
  s.onRootFlood m 0xF005 (fun s => match s.steps.rollback with
    | none => s
    | some b => if b.target = some m.step.toNat then s.resume else s)

end Sys2Proof.Machine
end

