-- ==== Sys2Proof/Machine/Control.lean ====
section
/-! DEFINITION. The control core's instructions (R45-R55). A command names its core and context and the instruction's fields; the
instruction runs in the context's turn of the rotating order (R59), and a stalled, stopped or idle context takes none. -/

namespace Sys2Proof.Machine

/-- The control core has taken its turn for context x (R59). -/
def Core.served (c : Core) (x : Nat) : Core := { c with lastServed := SMap.ins qControl x c.lastServed }

/-- The instruction at a context's pc has a parity hit (R195). -/
def Core.fetchHit (c : Core) (x : Nat) : Bool :=
  c.imemPoison.any (fun b => decide ((c.ctx x).pc.toNat ≤ b ∧ b < (c.ctx x).pc.toNat + 4))

/-- Run an instruction of context x of core p, when it is that context's turn (R59); `f` gives what it does. A hit in the instruction stops
the context (R197). -/
def State.control (s : State) (p : Nat) (x : Fin 4) (f : State → Ctx → State) : Out :=
  s.onCore p (fun c =>
    if c.nextControl ≠ some x.val then .next s
    else if c.fetchHit x.val then .next ((s.setCore p (c.served x.val)).controlHit p x.val)
    else .next (f (s.setCore p (c.served x.val)) (c.ctx x.val)))

/-- The context after an instruction that falls through to the next. -/
def Ctx.after (k : Ctx) : Ctx := { k with pc := k.pc + 4, executed := k.executed + 1 }

/-- Write a register and go on. -/
def State.writeReg (s : State) (p : Nat) (x : Fin 4) (k : Ctx) (gd : Fin 32) (v : W32) : State :=
  s.setCtx p x.val (k.after.setReg gd v)

/-- A trap of the control core at the instruction that the context is at (R50). -/
def State.controlTrap (s : State) (p : Nat) (x : Fin 4) (k : Ctx) : State := s.trap p x.val 5 k.executed

/-- The ALU functions by FUNC (R48). -/
def aluWord (func : Nat) (a b : W32) : W32 :=
  match func with
  | 0 => a + b
  | 1 => a - b
  | 2 => a &&& b
  | 3 => a ||| b
  | 4 => a ^^^ b
  | 5 => a <<< (b.toNat % 32)
  | 6 => a >>> (b.toNat % 32)
  | 7 => a.sshiftRight (b.toNat % 32)
  | 8 => a * b
  | 9 => BitVec.ofNat 32 (a.toNat * b.toNat / 2 ^ 32)
  | 10 => if a.slt b then 1 else 0
  | _ => if a.ult b then 1 else 0

/-- An ALU instruction: g(GD) = g(GA) FUNC g(GB). -/
def State.alu (s : State) (func p : Nat) (x : Fin 4) (gd ga gb : Fin 32) : Out :=
  s.control p x (fun s k => s.writeReg p x k gd (aluWord func (k.reg ga) (k.reg gb)))

/-- ALU ADD (R48). -/
def execAluAdd (p : Nat) (x : Fin 4) (gd ga gb : Fin 32) (s : State) : Out := s.alu 0 p x gd ga gb

/-- ALU SUB (R48). -/
def execAluSub (p : Nat) (x : Fin 4) (gd ga gb : Fin 32) (s : State) : Out := s.alu 1 p x gd ga gb

/-- ALU AND (R48). -/
def execAluAnd (p : Nat) (x : Fin 4) (gd ga gb : Fin 32) (s : State) : Out := s.alu 2 p x gd ga gb

/-- ALU OR (R48). -/
def execAluOr (p : Nat) (x : Fin 4) (gd ga gb : Fin 32) (s : State) : Out := s.alu 3 p x gd ga gb

/-- ALU XOR (R48). -/
def execAluXor (p : Nat) (x : Fin 4) (gd ga gb : Fin 32) (s : State) : Out := s.alu 4 p x gd ga gb

/-- ALU SLL (R48). -/
def execAluSll (p : Nat) (x : Fin 4) (gd ga gb : Fin 32) (s : State) : Out := s.alu 5 p x gd ga gb

/-- ALU SRL (R48). -/
def execAluSrl (p : Nat) (x : Fin 4) (gd ga gb : Fin 32) (s : State) : Out := s.alu 6 p x gd ga gb

/-- ALU SRA (R48). -/
def execAluSra (p : Nat) (x : Fin 4) (gd ga gb : Fin 32) (s : State) : Out := s.alu 7 p x gd ga gb

/-- ALU MUL (R48). -/
def execAluMul (p : Nat) (x : Fin 4) (gd ga gb : Fin 32) (s : State) : Out := s.alu 8 p x gd ga gb

/-- ALU MULHU (R48). -/
def execAluMulhu (p : Nat) (x : Fin 4) (gd ga gb : Fin 32) (s : State) : Out := s.alu 9 p x gd ga gb

/-- ALU SLT (R48). -/
def execAluSlt (p : Nat) (x : Fin 4) (gd ga gb : Fin 32) (s : State) : Out := s.alu 10 p x gd ga gb

/-- ALU SLTU (R48). -/
def execAluSltu (p : Nat) (x : Fin 4) (gd ga gb : Fin 32) (s : State) : Out := s.alu 11 p x gd ga gb

/-- ADDI (R48). -/
def execAddi (p : Nat) (x : Fin 4) (gd ga : Fin 32) (imm : W16) (s : State) : Out :=
  s.control p x (fun s k => s.writeReg p x k gd (k.reg ga + imm.signExtend 32))

/-- ANDI (R48). -/
def execAndi (p : Nat) (x : Fin 4) (gd ga : Fin 32) (imm : W16) (s : State) : Out :=
  s.control p x (fun s k => s.writeReg p x k gd (k.reg ga &&& imm.zeroExtend 32))

/-- ORI (R48). -/
def execOri (p : Nat) (x : Fin 4) (gd ga : Fin 32) (imm : W16) (s : State) : Out :=
  s.control p x (fun s k => s.writeReg p x k gd (k.reg ga ||| imm.zeroExtend 32))

/-- LUI (R48). -/
def execLui (p : Nat) (x : Fin 4) (gd : Fin 32) (imm : W16) (s : State) : Out :=
  s.control p x (fun s k => s.writeReg p x k gd (imm.zeroExtend 32 <<< 16))

/-- The address of an I-format access. -/
def Ctx.addr (k : Ctx) (ga : Fin 32) (imm : W16) : Nat := (k.reg ga + imm.signExtend 32).toNat

/-- An aligned word of the context's data-memory partition (R50, R239). -/
def Ctx.inPartition (k : Ctx) (a : Nat) : Bool :=
  decide (a % 4 = 0 ∧ 4 * k.bind.dmemBase ≤ a ∧ a + 4 ≤ 4 * (k.bind.dmemBase + k.bind.dmemLen))

/-- A byte of data memory at [a, a + n) has a parity hit (R195). -/
def Core.dataHit (c : Core) (a n : Nat) : Bool := c.dmemPoison.any (fun b => decide (a ≤ b ∧ b < a + n))

/-- LW (R48, R50): a hit in data memory stops the context (R197). -/
def execLw (p : Nat) (x : Fin 4) (gd ga : Fin 32) (imm : W16) (s : State) : Out :=
  s.control p x (fun s k =>
    let a := k.addr ga imm
    if k.inPartition a then
      if (s.core p).dataHit a 4 then s.controlHit p x.val
      else s.writeReg p x k gd (BitVec.ofNat 32 (Memory.num (s.core p).dmem a 4))
    else s.controlTrap p x k)

/-- SW (R48, R50): GD names the source. -/
def execSw (p : Nat) (x : Fin 4) (gd ga : Fin 32) (imm : W16) (s : State) : Out :=
  s.control p x (fun s k =>
    let a := k.addr ga imm
    if k.inPartition a then
      let c := s.core p
      (s.setCore p { c with dmem := Memory.write c.dmem a (leBytes 4 (k.reg gd).toNat),
                            dmemPoison := poisonWrite c.dmemPoison a 4 false }).setCtx p x.val k.after
    else s.controlTrap p x k)

/-- LCS (R48, R50): a poisoned word is consumed as any (R198). -/
def execLcs (p : Nat) (x : Fin 4) (gd ga : Fin 32) (imm : W16) (s : State) : Out :=
  s.control p x (fun s k =>
    let a := k.addr ga imm
    let c := s.core p
    if a % 4 = 0 ∧ (s.scope k).reads a 4 then
      let s := s.writeReg p x k gd (BitVec.ofNat 32 (ofLe (c.csBytes a 4)))
      if c.csHit a 4 then s.consumePoison p x.val else s
    else s.controlTrap p x k)

/-- The target lies in the context's code range and is aligned (R50, R239). -/
def Ctx.inCode (k : Ctx) (t : W32) : Bool :=
  decide (t.toNat % 4 = 0 ∧ 4 * k.bind.codeBase ≤ t.toNat ∧ t.toNat < 4 * (k.bind.codeBase + k.bind.codeLen))

/-- Go to a target, with a register written first; a target outside the code range traps (R50). -/
def State.jump (s : State) (p : Nat) (x : Fin 4) (k : Ctx) (gd : Fin 32) (link : W32) (t : W32) : State :=
  if k.inCode t then s.setCtx p x.val { k.setReg gd link with pc := t, executed := k.executed + 1 }
  else s.controlTrap p x k

/-- A conditional branch: pc + 4 × sext(OFFSET) where the condition holds (R48). -/
def State.branch (s : State) (p : Nat) (x : Fin 4) (ga gb : Fin 32) (off : W16) (cond : W32 → W32 → Bool) : Out :=
  s.control p x (fun s k =>
    if cond (k.reg ga) (k.reg gb) then s.jump p x k 0 0 (k.pc + 4 * off.signExtend 32)
    else s.setCtx p x.val k.after)

/-- BEQ (R48). -/
def execBeq (p : Nat) (x : Fin 4) (ga gb : Fin 32) (off : W16) (s : State) : Out := s.branch p x ga gb off (fun a b => decide (a = b))

/-- BNE (R48). -/
def execBne (p : Nat) (x : Fin 4) (ga gb : Fin 32) (off : W16) (s : State) : Out := s.branch p x ga gb off (fun a b => decide (a ≠ b))

/-- BLT (R48). -/
def execBlt (p : Nat) (x : Fin 4) (ga gb : Fin 32) (off : W16) (s : State) : Out := s.branch p x ga gb off (fun a b => a.slt b)

/-- BGE (R48). -/
def execBge (p : Nat) (x : Fin 4) (ga gb : Fin 32) (off : W16) (s : State) : Out := s.branch p x ga gb off (fun a b => !a.slt b)

/-- BLTU (R48). -/
def execBltu (p : Nat) (x : Fin 4) (ga gb : Fin 32) (off : W16) (s : State) : Out := s.branch p x ga gb off (fun a b => a.ult b)

/-- BGEU (R48). -/
def execBgeu (p : Nat) (x : Fin 4) (ga gb : Fin 32) (off : W16) (s : State) : Out := s.branch p x ga gb off (fun a b => !a.ult b)

/-- JAL (R48). -/
def execJal (p : Nat) (x : Fin 4) (gd : Fin 32) (off : BitVec 21) (s : State) : Out :=
  s.control p x (fun s k => s.jump p x k gd (k.pc + 4) (k.pc + 4 * off.signExtend 32))

/-- JALR (R48). -/
def execJalr (p : Nat) (x : Fin 4) (gd ga : Fin 32) (imm : W16) (s : State) : Out :=
  s.control p x (fun s k => s.jump p x k gd (k.pc + 4) (k.reg ga + imm.signExtend 32))

/- Queues. -/

/-- The 64 B at data address a; addresses past the 32 KiB of data memory have free bytes (log 14). -/
def State.entryBytes (s : State) (p a : Nat) : List Byte × State :=
  if a + 64 ≤ 32768 then (Memory.bytes (s.core p).dmem a 64, s)
  else (freeBytes s.fresh 64, { s with fresh := s.fresh + 64 })

/-- The entry that PUSH copies: bytes 8-15 become g(GB+1) : g(GB) under PATCH (R48). -/
def patched (e : Line) (patch : Bool) (lo hi : W32) : Line :=
  if patch then (e &&& ~~~((0xFFFFFFFFFFFFFFFF#64).zeroExtend 512 <<< 64)) ||| ((hi ++ lo).zeroExtend 512 <<< 64) else e

/-- Put an entry into a queue of a context that has room, and go on; an entry that reaches the head is checked (R50). -/
def State.enqueue (s : State) (p : Nat) (x : Fin 4) (k : Ctx) (q : Nat) (e : Line) : State :=
  let old := k.queue q
  let k := { k.after with queues := SMap.put [] q (old ++ [e]) k.queues, stall := .none,
                          pushed := SMap.put 0 q (SMap.get 0 q k.pushed + 1) k.pushed }
  let s := s.setCtx p x.val k
  if old = [] then s.headCheck p x.val q else s

/-- PUSH (R48, R53): into a full queue it stalls the context with its entry; a hit in the entry's bytes stops it (R197). -/
def execPush (p : Nat) (x : Fin 4) (queue : Fin 5) (ga gb : Fin 32) (patch : Bool) (s : State) : Out :=
  s.control p x (fun s k =>
    if (s.core p).dataHit (k.reg ga).toNat 64 then s.controlHit p x.val else
    let (b, s) := s.entryBytes p (k.reg ga).toNat
    let hi : Fin 32 := ⟨(gb.val + 1) % 32, Nat.mod_lt _ (by decide)⟩
    let e := patched (BitVec.ofNat 512 (ofLe b)) patch (k.reg gb) (k.reg hi)
    if (k.queue queue.val).length < 256 then s.enqueue p x k queue.val e
    else s.setCtx p x.val { k with stall := .push queue.val e })

/-- A context stalled at PUSH resumes when its queue has room (R53). QUEUE_FULL_CYCLES counts the stalled cycles, a free number here
(log 15). -/
def execPushResume (p : Nat) (x : Fin 4) (s : State) : Out :=
  s.onCore p (fun c =>
    let k := c.ctx x.val
    match k.stall with
    | .push q e =>
      if k.alive ∧ k.running ∧ (k.queue q).length < 256 then
        let (w, s) := s.draw
        .next ((s.bump64 (kCore p 9) w.toNat).enqueue p x k q e)
      else .next s
    | _ => .next s)

/-- WAITSC (R55): goes on where the counter satisfies the value, else stalls. -/
def execWaitsc (p : Nat) (x : Fin 4) (ctr : Fin 16) (value : W16) (s : State) : Out :=
  s.control p x (fun s k =>
    if scSatisfied (k.counter ctr.val).toNat value.toNat then s.setCtx p x.val k.after
    else s.setCtx p x.val { k with stall := .wait ctr.val value })

/-- A context stalled at WAITSC resumes when its counter satisfies the value (R55). -/
def execWaitscRelease (p : Nat) (x : Fin 4) (s : State) : Out :=
  s.onCore p (fun c =>
    let k := c.ctx x.val
    match k.stall with
    | .wait ctr v =>
      if k.alive ∧ k.running ∧ scSatisfied (k.counter ctr).toNat v.toNat then
        .next (s.setCtx p x.val { k.after with stall := .none })
      else .next s
    | _ => .next s)

/-- SIGSC (R55). -/
def execSigsc (p : Nat) (x : Fin 4) (ctr : Fin 16) (s : State) : Out :=
  s.control p x (fun s k => s.setCtx p x.val (k.after.bump ctr.val))

/-- STEPEND (R51): the context waits for its commands, and then returns its token. -/
def execStepend (p : Nat) (x : Fin 4) (s : State) : Out :=
  s.control p x (fun s k => s.setCtx p x.val { k.after with stall := .stepend })

/-- The reductions still open in the banks of context x are discarded (R94). -/
def Core.closeReductions (c : Core) (x : Nat) : Core :=
  { c with banks := c.banks.zipIdx.map (fun b => if (c.ctx x).bind.owns b.2 then { b.1 with red := none } else b.1) }

/-- A context at STEPEND returns its token once every command that it pushed has completed (R51). -/
def execStepTokenReturn (p : Nat) (x : Fin 4) (s : State) : Out :=
  s.onCore p (fun c =>
    let k := c.ctx x.val
    if k.stall = .stepend ∧ k.alive ∧ k.running ∧ k.idle then
      .next ((s.setCore p (c.closeReductions x.val)).setCtx p x.val { k with running := false, stall := .none })
    else .next s)

/-- STEPNO (R48): half of the step number that the context runs. -/
def execStepno (p : Nat) (x : Fin 4) (gd : Fin 32) (hi : Bool) (s : State) : Out :=
  s.control p x (fun s k => s.writeReg p x k gd (BitVec.ofNat 32 (if hi then k.step / 2 ^ 32 else k.step)))

end Sys2Proof.Machine
end

