-- ==== Sys2Proof/Machine/Dict.lean ====
section
/-! DEFINITION. The object dictionary as data (R461-R485): every entry with its type, access, range and unit, and the checks that
a request makes of them (R439, R444, R462). -/

namespace Sys2Proof.Machine

/-- Types (R462), with the OTYPE codes of R438. -/
inductive OType where
  | u8 | u16 | u32 | u64 | i32 | f32 | bool | octets | domain | cmd
  deriving DecidableEq, Repr

/-- Access rights (R465). -/
inductive Access where
  | const | ro | rw | rws | cmd
  deriving DecidableEq, Repr

/-- A row of R476-R485: indices idx, idx + stride, … (count of them), subindices sub … sub + subs - 1; len is the length
of an OCTETS or DOMAIN value that is written. -/
structure DRow where
  idx : Nat
  stride : Nat
  count : Nat
  sub : Nat
  subs : Nat
  ty : OType
  acc : Access
  lo : Nat := 0
  hi : Nat := 0
  len : Nat := 0
  maint : Bool := false
  flash : Bool := false
  owner : Bool := false
  deriving DecidableEq, Repr

def OType.code : OType → Nat
  | .u8 => 1 | .u16 => 2 | .u32 => 3 | .u64 => 4 | .i32 => 5 | .f32 => 6 | .bool => 7 | .octets => 9 | .domain => 10 | .cmd => 11

/-- Bytes of a value of the type; none where the row states a length. -/
def OType.bytes : OType → Option Nat
  | .u8 => some 1 | .u16 => some 2 | .u32 => some 4 | .u64 => some 8 | .i32 => some 4 | .f32 => some 4 | .bool => some 1
  | _ => none

/-- A read-only row. -/
def roRow (idx stride count sub subs : Nat) (ty : OType) (len : Nat := 0) : DRow :=
  { idx := idx, stride := stride, count := count, sub := sub, subs := subs, ty := ty, acc := .ro, len := len }

/-- A constant row. -/
def kRow (idx stride count sub subs : Nat) (ty : OType) (len : Nat := 0) : DRow :=
  { idx := idx, stride := stride, count := count, sub := sub, subs := subs, ty := ty, acc := .const, len := len }

/-- An RWS row with its range. -/
def rwsRow (idx stride count sub subs : Nat) (ty : OType) (lo hi : Nat) (flash : Bool := false) (len : Nat := 0)
    (maint : Bool := false) : DRow :=
  { idx := idx, stride := stride, count := count, sub := sub, subs := subs, ty := ty, acc := .rws, lo := lo, hi := hi,
    flash := flash, len := len, maint := maint }

/-- An RW row with its range. -/
def rwRow (idx stride count sub subs : Nat) (ty : OType) (lo hi : Nat) (maint flash owner : Bool := false) (len : Nat := 0) :
    DRow :=
  { idx := idx, stride := stride, count := count, sub := sub, subs := subs, ty := ty, acc := .rw, lo := lo, hi := hi,
    maint := maint, flash := flash, owner := owner, len := len }

/-- R476. -/
def dictIdentity : List DRow :=
  [roRow 0x1001 1 1 0 1 .u8, roRow 0x1001 1 1 1 1 .u8, roRow 0x1001 1 1 2 1 .u16, kRow 0x1010 1 1 0 1 .u8,
   kRow 0x1018 1 1 0 1 .domain 256, kRow 0x1020 1 1 0 1 .u8, rwsRow 0x1021 1 1 1 3 .u8 0 255 true,
   kRow 0x2000 1 1 0 1 .u32, kRow 0x2001 1 1 0 1 .u8, roRow 0x2002 1 1 0 1 .u32, roRow 0x2010 1 1 1 1 .u8,
   roRow 0x2010 1 1 2 2 .octets 64, roRow 0x2010 1 1 4 2 .u16, roRow 0x2010 1 1 6 1 .u32, roRow 0x2010 1 1 7 1 .domain,
   rwsRow 0x2011 1 1 0 1 .bool 0 1 false 0 true, roRow 0x2020 1 1 0 1 .domain, roRow 0x2021 1 1 0 1 .u32,
   roRow 0x3000 0x10 4 1 1 .u8, roRow 0x3000 0x10 4 2 1 .domain 32, roRow 0x3000 0x10 4 3 2 .u32,
   roRow 0x3040 1 1 1 1 .u8, roRow 0x3040 1 1 2 1 .domain 32]

/-- R477. -/
def dictCores : List DRow :=
  [roRow 0x4000 1 576 1 1 .u8, roRow 0x4000 1 576 2 1 .u16, roRow 0x4000 1 576 3 2 .u8,
   rwRow 0x4000 1 576 5 1 .u32 0 7, roRow 0x4000 1 576 6 3 .u32, roRow 0x4000 1 576 9 1 .u64,
   rwRow 0x4000 1 576 0x0A 1 .u8 0 31, roRow 0x4000 1 576 0x0B 1 .u32, roRow 0x4000 1 576 0x0C 1 .u64,
   roRow 0x4000 1 576 0x0D 1 .u8, roRow 0x4000 1 576 0x0E 1 .u64, roRow 0x4000 1 576 0x0F 2 .u8,
   roRow 0x4000 1 576 0x11 1 .u64, roRow 0x4000 1 576 0x12 2 .u8]

/-- R478. -/
def dictLedger : List DRow :=
  [roRow 0x5001 1 1 1 5 .u64, rwsRow 0x5010 1 1 0 1 .u8 0 2, rwsRow 0x5011 1 1 0 1 .u16 0 65535,
   rwsRow 0x5012 1 1 0 1 .u8 0 1, rwsRow 0x5020 1 1 0 1 .u16 50 500, roRow 0x5020 1 1 1 4 .u32, roRow 0x5020 1 1 0x11 4 .u32,
   roRow 0x5020 1 1 0x21 4 .u32, roRow 0x5020 1 1 0x31 4 .u32, roRow 0x5020 1 1 0x40 1 .u64, roRow 0x5021 1 1 1 10 .u64,
   rwsRow 0x5030 1 1 0 1 .bool 0 1, rwsRow 0x5031 1 1 0 1 .u8 0 5, rwsRow 0x5032 1 1 0 1 .u32 0 (2 ^ 32 - 1),
   roRow 0x5033 1 1 0 2 .u32, rwsRow 0x5034 1 1 0 1 .u8 0 1, roRow 0x5035 1 1 1 6 .u64, roRow 0x5035 1 1 7 1 .u32,
   roRow 0x5035 1 1 8 1 .u64, rwsRow 0x5040 1 1 0 1 .u8 0 1, rwsRow 0x5041 1 1 0 1 .bool 0 1, roRow 0x5042 1 1 1 2 .u64,
   roRow 0x5042 1 1 3 1 .u8, roRow 0x5042 1 1 4 1 .u16, roRow 0x5042 1 1 5 1 .u64, roRow 0x5042 1 1 6 1 .domain 128,
   roRow 0x5042 1 1 7 1 .u32, roRow 0x5043 1 1 1 4 .u64, roRow 0x5043 1 1 5 1 .u32, rwRow 0x5044 1 1 0 1 .u8 1 15,
   rwRow 0x5045 1 1 0 1 .u8 1 15,
   { idx := 0x5060, stride := 1, count := 1, sub := 1, subs := 8, ty := .domain, acc := .rws, len := 64, flash := true },
   roRow 0x5060 1 1 0x11 8 .domain 32, roRow 0x5062 1 1 1 1 .u8, roRow 0x5062 1 1 2 1 .u64, roRow 0x5062 1 1 3 1 .u8,
   roRow 0x5062 1 1 4 1 .u64, roRow 0x5062 1 1 5 1 .u8, roRow 0x5062 1 1 6 2 .u64, roRow 0x5062 1 1 8 2 .u32,
   roRow 0x5062 1 1 0x0A 1 .u8, rwRow 0x5063 1 1 0 1 .u16 5 3600, roRow 0x5064 1 1 1 1 .u8, roRow 0x5064 1 1 2 1 .u64,
   roRow 0x5064 1 1 3 1 .u32, roRow 0x5065 1 1 0 1 .domain]

/-- R479; the F32 ranges are those of the binary32 codes, which rise with the values of positive numbers. -/
def dictNumerics : List DRow :=
  [rwsRow 0x6010 1 1 0 1 .u8 1 64, rwsRow 0x6011 1 1 0 1 .f32 0x3F800000 0x47800000,
   rwsRow 0x6012 1 1 0 1 .f32 0x3F800000 0x47800000, rwRow 0x6020 1 1 0 1 .u8 8 16,
   rwRow 0x6021 1 1 0 1 .f32 0x3F800000 0x4B800000, roRow 0x6022 1 1 0 1 .domain 144, roRow 0x6023 1 1 1 3 .u64,
   roRow 0x6030 1 1 1 8 .u64, roRow 0x6040 1 1 0 1 .domain]

/-- R480 and R459: the torus ports, the Ethernet ports with both interfaces, the management port and the joins. -/
def dictLinks : List DRow :=
  [roRow 0x7000 1 6 1 3 .u8, roRow 0x7000 1 6 4 1 .domain 34, roRow 0x7000 1 6 5 1 .domain 232, roRow 0x7000 1 6 6 1 .u32,
   roRow 0x7000 1 6 7 3 .u64, roRow 0x7000 1 6 0x0A 1 .u32, rwRow 0x7000 1 6 0x0B 1 .u8 1 7,
   rwsRow 0x7000 1 6 0x0C 1 .bool 0 1, roRow 0x7000 1 6 0x0D 2 .u8, roRow 0x7000 1 6 0x0F 1 .u32,
   rwsRow 0x7006 1 1 1 2 .u8 1 32 true, rwsRow 0x7006 1 1 3 1 .u8 1 20 true, rwsRow 0x7006 1 1 4 1 .u32 0 (2 ^ 32 - 1),
   rwRow 0x7006 1 1 5 1 .u8 2 15, rwRow 0x7006 1 1 6 1 .u16 1 3600,
   roRow 0x7100 1 4 1 1 .u8, roRow 0x7100 1 4 0x11 1 .u8, rwsRow 0x7100 1 4 2 1 .u8 0 1 true, kRow 0x7100 1 4 3 1 .octets 6,
   kRow 0x7100 1 4 0x13 1 .octets 6, rwsRow 0x7100 1 4 4 1 .u32 0 (2 ^ 32 - 1) true,
   rwsRow 0x7100 1 4 0x14 1 .u32 0 (2 ^ 32 - 1) true, rwsRow 0x7100 1 4 5 1 .u8 0 32 true,
   rwsRow 0x7100 1 4 0x15 1 .u8 0 32 true, rwsRow 0x7100 1 4 6 1 .u32 0 (2 ^ 32 - 1) true,
   rwsRow 0x7100 1 4 0x16 1 .u32 0 (2 ^ 32 - 1) true, rwsRow 0x7100 1 4 7 1 .octets 0 (2 ^ 128 - 1) true 16,
   rwsRow 0x7100 1 4 0x17 1 .octets 0 (2 ^ 128 - 1) true 16, rwsRow 0x7100 1 4 8 1 .u8 0 128 true,
   rwsRow 0x7100 1 4 0x18 1 .u8 0 128 true, rwsRow 0x7100 1 4 9 1 .u8 0 7 true, rwsRow 0x7100 1 4 0x0A 1 .u16 0 4094 true,
   rwRow 0x7100 1 4 0x0B 1 .bool 0 1 true true, roRow 0x7100 1 4 0x0C 4 .u64, roRow 0x7100 1 4 0x1C 4 .u64,
   roRow 0x7110 1 1 1 1 .u8, kRow 0x7110 1 1 2 1 .octets 6, rwsRow 0x7110 1 1 3 1 .u8 1 255 true,
   rwsRow 0x7110 1 1 4 1 .u8 1 255 true, rwsRow 0x7110 1 1 5 1 .u8 0 255 true,
   roRow 0x7200 1 4 1 4 .u8, roRow 0x7200 1 4 5 1 .u32, roRow 0x7200 1 4 6 1 .u64, roRow 0x7200 1 4 7 1 .domain 16,
   roRow 0x7200 1 4 8 1 .u32, roRow 0x7210 1 4 1 2 .u8, roRow 0x7210 1 4 4 1 .u8, roRow 0x7210 1 4 5 1 .u32,
   roRow 0x7210 1 4 6 1 .u64, roRow 0x7210 1 4 7 1 .domain 16, roRow 0x7210 1 4 8 1 .u32,
   roRow 0x7300 1 1 1 1 .u8, roRow 0x7300 1 1 2 1 .domain 32, roRow 0x7300 1 1 3 1 .domain, roRow 0x7300 1 1 4 1 .u8,
   roRow 0x7300 1 1 5 1 .u32, roRow 0x7300 1 1 7 1 .u32, roRow 0x7300 1 1 6 1 .u8]

/-- R481. -/
def dictMemory : List DRow :=
  [roRow 0x8000 1 8 1 1 .u8, kRow 0x8000 1 8 2 1 .u64, kRow 0x8000 1 8 3 1 .u8, roRow 0x8000 1 8 4 2 .u64,
   roRow 0x8000 1 8 6 1 .u32, roRow 0x8000 1 8 7 1 .u16, roRow 0x8100 1 1 1 4 .u32, roRow 0x8100 1 1 0x11 4 .u32,
   roRow 0x8100 1 1 0x21 4 .u8, roRow 0x8100 1 1 0x31 4 .u64, roRow 0x8100 1 1 0x41 4 .u64, roRow 0x8100 1 1 0x51 4 .u64,
   rwRow 0x8200 1 1 1 1 .u16 1 168, rwRow 0x8200 1 1 2 1 .u32 600 86400, rwRow 0x8200 1 1 3 1 .u16 1 3600,
   roRow 0x8200 1 1 4 1 .u32, roRow 0x8200 1 1 5 2 .u64, roRow 0x8200 1 1 0x11 4 .u32, kRow 0x8300 1 1 1 1 .u8,
   roRow 0x8300 1 1 2 3 .u64, kRow 0x8400 1 1 1 1 .u8, roRow 0x8400 1 1 2 3 .u64]

/-- R482: the command objects; the level is kept in `maint`. -/
def dictCommands : List DRow :=
  [0x9001, 0x9002, 0x9003, 0x9004, 0x9006, 0x9007, 0x900A, 0x9010, 0x9020, 0x9021, 0x9032].map
    (fun i => ({ idx := i, stride := 1, count := 1, sub := 0, subs := 1, ty := .cmd, acc := .cmd } : DRow)) ++
  [0x9008, 0x9009, 0x900B, 0x900C, 0x900D, 0x9030, 0x9031, 0x9033, 0x9034, 0x9035, 0x9036].map
    (fun i => ({ idx := i, stride := 1, count := 1, sub := 0, subs := 1, ty := .cmd, acc := .cmd, maint := true } : DRow))

/-- R483, R484 and R485. -/
def dictRest : List DRow :=
  [rwRow 0x9100 1 1 1 16 .domain 0 0 false false true 32, roRow 0x9100 1 1 0x11 16 .domain 8192, roRow 0x9100 1 1 0x21 2 .u64,
   roRow 0x9100 1 1 0x23 1 .domain 2048, rwRow 0xA001 1 1 1 16 .u8 0 3 false false true, roRow 0xA002 1 1 1 2 .u64,
   roRow 0xA003 1 1 0 1 .domain, rwRow 0xA010 1 1 0 1 .u32 0 0xFF, rwRow 0xA011 1 1 0 1 .u32 0 0xFF,
   roRow 0xA012 1 1 1 8 .u32, rwRow 0xA100 1 1 0 1 .u32 100 60000, rwRow 0xA101 1 1 1 16 .bool 0 1 false false true,
   roRow 0xA102 1 1 0 1 .u64, roRow 0xA200 1 1 1 3 .u32, roRow 0xA200 1 1 4 2 .i32, roRow 0xA201 1 1 1 5 .i32,
   roRow 0xA201 1 1 0x11 8 .i32, rwRow 0xA202 1 1 0 1 .u8 70 100, roRow 0xA203 1 1 0 1 .u8, rwRow 0xA300 1 1 0 1 .u16 0 0xFF,
   rwRow 0xA300 1 1 1 1 .u32 60 86400, roRow 0xB000 1 1 1 1 .u8, roRow 0xB000 1 1 2 2 .u32, roRow 0xB000 1 1 4 2 .u8,
   rwRow 0xB000 1 1 6 1 .u8 0 0xFF true true, roRow 0xB000 1 1 7 1 .u32, roRow 0xB010 1 1 1 24 .domain 144,
   roRow 0xB020 1 1 0 1 .domain, roRow 0xB030 1 1 0 1 .u8, roRow 0xB100 1 1 1 16 .domain 32,
   rwRow 0xB101 1 1 0 1 .u32 10 86400 true, roRow 0xB102 1 1 1 2 .u64, rwRow 0xC010 1 1 1 1 .u16 1 168,
   rwRow 0xC010 1 1 2 1 .u8 1 10, rwRow 0xC010 1 1 3 1 .u8 1 15, roRow 0xC010 1 1 4 2 .u64, roRow 0xC010 1 1 6 1 .u32,
   roRow 0xC011 1 1 1 4 .domain 16, roRow 0xC020 1 1 1 8 .u16, roRow 0xC020 1 1 0x11 8 .u16, roRow 0xC030 1 1 1 2 .u16,
   roRow 0xC030 1 1 3 1 .u32]

/-- The whole dictionary. -/
def dictionary : List DRow :=
  dictIdentity ++ dictCores ++ dictLedger ++ dictNumerics ++ dictLinks ++ dictMemory ++ dictCommands ++ dictRest

/-- A row lists entry index:sub. -/
def DRow.covers (r : DRow) (index sub : Nat) : Bool :=
  decide (r.idx ≤ index ∧ (index - r.idx) % r.stride = 0 ∧ (index - r.idx) / r.stride < r.count ∧
          r.sub ≤ sub ∧ sub < r.sub + r.subs)

/-- The row of an entry (R461). -/
def entryRow (index sub : Nat) : Option DRow := dictionary.find? (fun r => r.covers index sub)

/-- The unit of an entry is present in the grade (R5, R6, R294, R461). -/
def entryPresent (g : Grade) (index sub : Nat) : Bool :=
  if 0x4000 ≤ index ∧ index ≤ 0x423F then decide (index - 0x4000 < g.cores)
  else if 0x3000 ≤ index ∧ index ≤ 0x303F then decide ((index - 0x3000) / 16 < g.dies)
  else if 0x7100 ≤ index ∧ index ≤ 0x7103 then g.ethPort (index - 0x7100)
  else if 0x7200 ≤ index ∧ index ≤ 0x7203 then decide (index = 0x7200 ∨ g.dies = 4)
  else if 0x7210 ≤ index ∧ index ≤ 0x7213 then decide (index - 0x7210 < g.dies)
  else if index = 0x7300 then g.expansion
  else if 0x8000 ≤ index ∧ index ≤ 0x8007 then decide (index - 0x8000 < g.stacks)
  else if index = 0x5020 ∧ 1 ≤ sub ∧ sub ≤ 0x34 then decide ((sub - 1) % 16 < g.dies)
  else if index = 0x8100 then decide ((sub - 1) % 16 < g.dies)
  else if index = 0x8200 ∧ 0x11 ≤ sub then decide (sub - 0x11 < g.dies)
  else if index = 0xA201 ∧ sub ≤ 4 then decide (sub - 1 < g.dies)
  else if index = 0xA201 ∧ 0x11 ≤ sub then decide (sub - 0x11 < g.stacks)
  else if index = 0xC020 then decide ((sub - 1) % 16 < g.stacks)
  else true

/-- Session levels (R441). -/
def lvObserver : Nat := 1
def lvOperator : Nat := 2
def lvMaintainer : Nat := 3

/-- The level that a WRITE or a COMMAND of the row takes (R444). -/
def DRow.level (r : DRow) : Nat := if r.maint then lvMaintainer else lvOperator

/-- Reserved bits and encodings of entries that a plain range does not state: FW_BOOT_SELECT, EVENT and flag words (R12). -/
def valueAllowed (index sub v : Nat) : Bool :=
  if index = 0xB000 ∧ sub = 6 then decide (v ≤ 1 ∨ v = 0xFF) else true

/-- The value of a WRITE as a number has the length and lies in the range of its row (R439 check 6). -/
def DRow.valueOk (r : DRow) (index sub : Nat) (value : List Byte) : Bool :=
  match r.ty.bytes with
  | some n => decide (value.length = n) && decide (r.lo ≤ ofLe value ∧ ofLe value ≤ r.hi) && valueAllowed index sub (ofLe value)
  | none => decide (value.length = r.len)

end Sys2Proof.Machine
end

