-- ==== Sys2Proof/Machine/Session.lean ====
section
/-! DEFINITION. The object protocol's shared operations: admission of a request by session, source and SEQ (R437, R445), the ordered
checks (R439), handles (R448), replies, and the ends of windows and sessions (R435, R446). -/

namespace Sys2Proof.Machine

/-- What the module answers to a request. -/
structure Resp where
  status : Nat
  otype : Nat := 0
  total : Nat := 0
  data : List Byte := []
  deriving DecidableEq, Repr

/-- An answer, and the effect that follows it. -/
structure Plan where
  resp : Resp
  effect : State → State

/-- The answer to a request that changes nothing. -/
def Plan.only (status : Nat) : Plan := { resp := { status := status }, effect := id }

/-- The sixteen bytes of RESULT0-RESULT3 (R438). -/
def results (r : List Nat) : List Byte :=
  leBytes 4 (r.getD 0 0) ++ leBytes 4 (r.getD 1 0) ++ leBytes 4 (r.getD 2 0) ++ leBytes 4 (r.getD 3 0)

/-- How the module takes a request (R437, R445). -/
inductive Admit where
  | drop
  | count
  | resend (m : Reply)
  | take (q : Session)
  deriving DecidableEq, Repr

/-- Management answers: the hub runs a verified image and BOOT is past (R31). -/
def State.answering (s : State) : Bool :=
  s.hubUp && decide (s.mstate ≠ .boot) && decide (s.fw.started < 2)

/-- An interface carries IP traffic: its port is present, its addresses are not both zero (R425). -/
def State.ipUp (s : State) (port iface : Nat) : Bool :=
  s.grade.ethPort port && decide (iface = 0 ∨ (iface = 1 ∧ s.o (okey (0x7100 + port) 2) = 1)) &&
  decide (s.o (okey (0x7100 + port) (4 + 16 * iface)) ≠ 0 ∨ s.o (okey (0x7100 + port) (7 + 16 * iface)) ≠ 0)

/-- The transport delivers messages of the object protocol: on Ethernet while OBJ_ON_ETH reads 1 (R437). -/
def State.objectPath (s : State) : Source → Bool
  | .udp _ _ port iface => s.ipUp port iface && decide (s.o (okey (0x7100 + port) 0x0B) = 1)
  | .t1s _ => true

def State.window? (s : State) (w : Nat) : Option Window := s.windows.find? (fun e => decide (e.num = w))

/-- The request came over the path its session is bound to (R429, R445). -/
def State.bound (s : State) (r : Req) (q : Session) : Bool :=
  match r.via with
  | none => decide (q.src = r.src)
  | some w => match s.window? w with
    | none => false
    | some e => decide (e.session = q.word)

/-- The module's way with a request (R445). -/
def State.takeAs (s : State) (r : Req) : Admit :=
  if !s.answering || (decide (r.via = none) && !s.objectPath r.src) then .drop else
  match s.session? (r.session.toNat / 2 ^ 28) with
  | none => .count
  | some q =>
    if q.opened ∧ q.word = r.session ∧ s.bound r q then
      if r.seq.toNat = q.highSeq + 1 then .take q
      else match q.replies.find? (fun e => decide (e.1 = r.seq.toNat)) with
        | some e => .resend e.2
        | none => .drop
    else .count

/-- Send a reply and keep it among the 64 latest of its session (R445). -/
def State.answer (s : State) (r : Req) (handle : W32) (a : Resp) : State :=
  let m : Reply := { session := r.session, seq := r.seq, status := a.status, otype := a.otype, handle := handle,
                     total := a.total, data := a.data }
  let s := match s.owner? r.session with
    | none => s
    | some q => s.setSession { q with replies := ((r.seq.toNat, m) :: q.replies).take 64 }
  s.emit (.reply r.via m)

/-- Take a request and answer it: the highest SEQ taken rises, the reply goes out, and then its effect follows. -/
def State.request (s : State) (r : Req) (plan : State → Session → Plan) : State :=
  match s.takeAs r with
  | .drop => s
  | .count => s.bump64 0xB10202 1
  | .resend m => s.emit (.reply r.via m)
  | .take q =>
    let q := { q with highSeq := r.seq.toNat }
    let s := s.setSession q
    let p := plan s q
    p.effect (s.answer r 0 p.resp)

/-- The handle word of a COMMAND (R448). -/
def handleWord (r : Req) : W32 := BitVec.ofNat 32 (r.session.toNat / 2 ^ 28 * 2 ^ 28 + r.hseq.toNat % 2 ^ 28)

/-- The handle under which a COMMAND's records go. -/
def reqHnd (r : Req) : Hnd := { session := r.session, handle := handleWord r, via := r.via }

/-- A reply to a COMMAND: TOTAL 16 and RESULT0-RESULT3 (R438). -/
def cmdResp (status : Nat) (r : List Nat) : Resp := { status := status, otype := 0x0B, total := 16, data := results r }

/-- Register what a taken COMMAND leaves in its session: its HSEQ, and its handle where the reply is ACCEPTED (R448, R449). -/
def Session.noteCommand (q : Session) (r : Req) (status : Nat) : Session :=
  { q with usedHseq := r.hseq.toNat :: q.usedHseq,
           outstanding := if status = stAccepted then q.outstanding ++ [handleWord r] else q.outstanding }

/-- The checks of R439 for a COMMAND, in order: unit present, level, legal state, arguments with HSEQ[31:28] zero (R448), and then
the limit of 4,096 outstanding handles (R448). -/
def commandCheck (s : State) (q : Session) (r : Req) (level : Nat) (present : Bool) (legal : MState → Bool) (argsOk : Bool) :
    Option Nat :=
  if !present then some stAbsent
  else if q.level < level then some stDenied
  else if !legal s.mstate then some stWrongState
  else if !argsOk || decide (2 ^ 28 ≤ r.hseq.toNat) then some stBadArgument
  else if 4096 ≤ q.outstanding.length then some stDenied
  else none

/-- Answer a COMMAND that its checks pass, and let its effect follow. -/
def State.takeCommand (s : State) (r : Req) (q : Session) (p : Plan) : State :=
  let s := s.setSession (q.noteCommand r p.resp.status)
  p.effect (s.answer r (handleWord r) p.resp)

/-- A COMMAND whose HSEQ its session has used before (R268, R448): the commands and the records of the session are undefined, so that whether it
is taken, and what answers it where it is not, are free. -/
def State.reusedHandle (s : State) (r : Req) (q : Session) (p : Plan) : State :=
  let d := s.draw
  if d.1.getLsbD 0 then d.2.takeCommand r q p
  else
    let w := fun (k : Nat) => (Config.freeValue (d.2.fresh + k)).toNat % 2 ^ 32
    ({ d.2 with fresh := d.2.fresh + 5 } : State).answer r (handleWord r) (cmdResp (w 0 % 256) [w 1, w 2, w 3, w 4])

/-- Take a COMMAND under its own ordered checks. -/
def State.commandWith (s : State) (r : Req) (check : State → Session → Option Nat) (plan : State → Session → Plan) : Out :=
  match s.takeAs r with
  | .drop => .next s
  | .count => .next (s.bump64 0xB10202 1)
  | .resend m => .next (s.emit (.reply r.via m))
  | .take q =>
    let q := { q with highSeq := r.seq.toNat }
    let s := s.setSession q
    match check s q with
    | some st => .next (s.answer r (handleWord r) (cmdResp st []))
    | none =>
      .next (if r.hseq.toNat ∈ q.usedHseq then s.reusedHandle r q (plan s q) else s.takeCommand r q (plan s q))

/-- Take a COMMAND under the checks of R439. -/
def State.command (s : State) (r : Req) (level : Nat) (present : Bool) (legal : MState → Bool) (argsOk : Bool)
    (plan : State → Session → Plan) : Out :=
  s.commandWith r (fun s q => commandCheck s q r level present legal argsOk) plan

/-- A plan that answers a COMMAND. -/
def Plan.cmd (status : Nat) (r : List Nat) (effect : State → State) : Plan := { resp := cmdResp status r, effect := effect }

/-- A plan that turns a COMMAND away. -/
def Plan.refuse (status : Nat) : Plan := Plan.cmd status [] id

/- Ends of windows and sessions. -/

/-- Send the records that a session holds for its ring by datagram, and drop the route (R456). -/
def State.dropRoute (s : State) (slot : Nat) : State :=
  let s := s.put (0x910001 + slot) 0
  match s.session? slot with
  | none => s
  | some q =>
    let (q, ms) := q.held.foldl (fun (a : Session × List OutMsg) r =>
      let (q, m) := a.1.sendDatagram none r
      (q, a.2 ++ [m])) (q, [])
    (s.setSession { q with held := [], ringK := 0, ringC := 0, reading := false }).emits ms

/-- A window stops: its route, if it carries one, reverts to MODE 0 (R456), and a close that waits on it completes. -/
def State.dropWindow (s : State) (w : Nat) : State :=
  match s.window? w with
  | none => s
  | some e =>
    let s := { s with windows := s.windows.filter (fun f => decide (f.num ≠ w)),
                      mem := { s.mem with waiting := s.mem.waiting.filter (fun f => decide (f.1 ≠ w)) } }
    let s := match s.owner? e.session with
      | none => s
      | some q => let rt := s.route q.slot
                  if routeMode rt ≠ 0 ∧ routeWindow rt = w then s.dropRoute q.slot else s
    s.complete? e.closing stDone []

/-- Close every window that satisfies p, lowest number first. -/
def State.dropWindows (s : State) (p : Window → Bool) : State :=
  (s.windows.filter p).foldl (fun t e => t.dropWindow e.num) s

/-- End a session (R446): its windows close, its route and its other per-session entries go (log 6); its commands run on. -/
def State.endSession (s : State) (slot : Nat) : State :=
  match s.session? slot with
  | none => s
  | some q =>
    let s := s.dropWindows (fun e => decide (e.session = q.word))
    let s := { s with sessions := s.sessions.filter (fun e => decide (e.slot ≠ slot)) }
    ((s.put (0x910001 + slot) 0).put (0xA00101 + slot) 2).put (0xA10101 + slot) 1

end Sys2Proof.Machine
end

