-- ==== Sys2Proof/Machine/Sessions.lean ====
section
/-! DEFINITION. Opening and ending sessions (R441-R446), windows (R428-R435) and completion rings (R456). -/

namespace Sys2Proof.Machine

/-- Bytes of a number in network order. -/
def beBytes (n v : Nat) : List Byte := (leBytes n v).reverse

/-- SOURCE of the transcript (R442): 18 bytes. -/
def sourceBytes : Source → List Byte
  | .udp a p _ _ => beBytes 16 a.toNat ++ beBytes 2 p.toNat
  | .t1s m => beBytes 6 m.toNat ++ List.replicate 12 0

/-- The transcript of R442. -/
def transcript (g : Grade) (purpose level key : Nat) (session : W32) (nonceC nonceM : BitVec 256) (src : Source) : List Byte :=
  leBytes 1 purpose ++ leBytes 1 level ++ leBytes 1 key ++ leBytes 4 session.toNat ++ leBytes 32 nonceC.toNat ++
  leBytes 32 nonceM.toNat ++ sourceBytes src ++ identityHash g

/-- KEY_SLOT of level l and key k (R485, R499). -/
def State.keySlot (s : State) (level key : Nat) : Nat := s.o (0xB01000 + (1 + 8 * (level - 1) + key))

/-- The key slot exists and is enrolled. -/
def State.enrolled (s : State) (level key : Nat) : Bool :=
  decide (1 ≤ level ∧ level ≤ 3 ∧ key ≤ 7) && decide (bits (s.keySlot level key) 0 8 = 1)

/-- PUBLIC_KEY of a slot: 133 bytes, big-endian. -/
def State.slotKey (s : State) (level key : Nat) : BitVec 1064 :=
  BitVec.ofNat 1064 (ofLe (leBytes 133 (bits (s.keySlot level key) 32 1064)).reverse)

/-- The lowest slot 0-15 that no session holds. -/
def State.freeSlot (s : State) : Option Nat := (List.range 16).find? (fun n => (s.session? n).isNone)

/-- Four fresh draws as one 256-bit number. -/
def State.draw256 (s : State) : BitVec 256 × State :=
  (Config.freeValue (s.fresh + 3) ++ Config.freeValue (s.fresh + 2) ++ Config.freeValue (s.fresh + 1) ++ Config.freeValue s.fresh,
   { s with fresh := s.fresh + 4 })

/-- Count one OPEN_REQUEST of the current second (R443). -/
def State.countOpen (s : State) : State :=
  let sec := s.uptimeMs / 1000
  { s with opensAt := sec, opensSec := if s.opensAt = sec then s.opensSec + 1 else 1 }

/-- A fresh OPEN_REQUEST of this second is still taken (R443). -/
def State.mayOpen (s : State) : Bool := decide (s.opensAt ≠ s.uptimeMs / 1000 ∨ s.opensSec < 4)

/-- Reserve a slot and send the challenge (R441-R443). -/
def State.challenge (s : State) (src : Source) (level key : Nat) (nonceC : BitVec 256) : State :=
  match s.freeSlot with
  | none => s.emit (.challenge src stDenied 0 0 0)
  | some slot =>
    let (t, s) := s.draw
    let (nonceM, s) := s.draw256
    let q : Session :=
      { slot := slot, tag := t.toNat % 2 ^ 28, level := level, key := key, src := src, opened := false, nonceC := nonceC,
        nonceM := nonceM, highSeq := 0, replies := [], modSeq := 0, usedHseq := [], outstanding := [], ringK := 0, ringC := 0,
        reading := false, held := [], log := [], snaps := [], eventsSec := 0, eventsAt := 0 }
    let sig := Config.ecdsaSign (Config.sha512 (transcript s.grade 2 level key q.word nonceC nonceM src))
    { s with sessions := s.sessions ++ [q] }.emit (.challenge src stDone q.word nonceM sig)

/-- OPEN_REQUEST (R441, R443); one whose reserved field is not zero is discarded (R437). -/
def execOpenRequest (src : Source) (level key : Byte) (reserved : W16) (nonce : BitVec 256) (s : State) : Out :=
  if !s.answering || !s.objectPath src || decide (reserved ≠ 0) || !s.mayOpen then .next s
  else .next (s.countOpen.challenge src level.toNat key.toNat nonce)

/-- A proof holds (R442): the slot of its key is enrolled and the signature verifies. -/
def State.proofHolds (s : State) (q : Session) (src : Source) (sig : BitVec 1056) : Bool :=
  s.enrolled q.level q.key &&
  Config.ecdsaVerify (s.slotKey q.level q.key) (Config.sha512 (transcript s.grade 1 q.level q.key q.word q.nonceC q.nonceM src)) sig

/-- The per-session entries of a new session are at their defaults (R455, R484; log 6). -/
def State.freshEntries (s : State) (slot : Nat) : State :=
  ((s.put (0x910001 + slot) 0).put (0xA00101 + slot) 2).put (0xA10101 + slot) 1

/-- OPEN_PROOF (R441-R443): the session opens, bound to its source; or its slot is freed. A proof for a slot no longer reserved
is late. -/
def execOpenProof (src : Source) (session : W32) (sig : BitVec 1056) (s : State) : Out :=
  if !s.answering || !s.objectPath src then .next s else
  match s.sessions.find? (fun q => decide (q.word = session)) with
  | some q =>
    if q.opened then .next s
    else if s.proofHolds q src sig then
      .next (((s.setSession { q with opened := true, src := src }).freshEntries q.slot).emit (.openResult src stDone))
    else
      let s := { s with sessions := s.sessions.filter (fun e => decide (e.slot ≠ q.slot)) }
      .next (((s.bump64 0xB10201 1).raise 0x0501 (q.level + q.key * 256) 0).emit (.openResult src stDenied))
  | none =>
    let (v, s) := s.draw
    .next (((s.bump64 0xB10201 1).raise 0x0501 (v.toNat % 2 ^ 16) 0).emit (.openResult src stDenied))

/-- CLOSE: answered, and then the session ends (R446). -/
def closePlan (_s : State) (q : Session) : Plan :=
  { resp := { status := stDone }, effect := fun s => s.endSession q.slot }

def execClose (r : Req) (s : State) : Out := .next (s.request r closePlan)

/-- A session that holds no handle and no window ends after SESSION_IDLE_S (R446). -/
def execSessionIdleExpiry (slot : Nat) (s : State) : Out :=
  match s.session? slot with
  | none => .next s
  | some q =>
    if q.opened ∧ q.outstanding = [] ∧ ¬ s.windows.any (fun e => decide (e.session = q.word)) then .next (s.endSession slot)
    else .next s

/-- A slot reserved by a challenge is freed after 10 s (R441). -/
def execChallengeExpiry (slot : Nat) (s : State) : Out :=
  match s.session? slot with
  | none => .next s
  | some q => if q.opened then .next s else .next { s with sessions := s.sessions.filter (fun e => decide (e.slot ≠ slot)) }

/- Windows. -/

/-- The states of all kinds of window together (R430). -/
def windowStates (m : MState) : Bool :=
  decide (m ∈ [MState.standby, .ready, .running, .stopping, .stopped, .recovering])

/-- Legal states of a KIND (R430): 0 IMAGE, 1 REGION, 2 STEP_INPUT. -/
def kindStates (kind : Nat) (m : MState) : Bool := if kind = 0 then decide (m = .standby) else windowStates m && decide (m ≠ .standby)

def State.region? (s : State) (num : Nat) : Option Region :=
  match s.image with
  | none => none
  | some im => im.regions.find? (fun g => decide (g.num = num))

/-- REGION names a region that the kind allows: STATE, FROZEN or WORK (kinds 0, 1, 3 of R252); else it is all ones (R428, R430). -/
def State.regionArg (s : State) (kind region : Nat) : Bool :=
  if kind = 1 then match s.region? region with
    | none => false
    | some g => decide (g.kind ∈ [0, 1, 3])
  else decide (region = 0xFFFFFFFF)

/-- The lowest window number 0-63 not in use. -/
def State.freeWindow (s : State) : Option Nat := (List.range 64).find? (fun n => (s.window? n).isNone)

/-- The checks of OPEN_WINDOW in the order of R430, with HSEQ[31:28] among the arguments. -/
def openWindowCheck (s : State) (q : Session) (r : Req) (kind access portByte reserved : Nat) (region hostQpn : Nat) : Option Nat :=
  let port := bits portByte 0 2
  let iface := bits portByte 7 1
  if q.level < lvOperator then some stDenied
  else if !windowStates s.mstate then some stWrongState
  else if 2 < kind ∨ 4 ≤ access ∨ (kind = 2 ∧ access % 2 = 1) ∨ bits portByte 2 5 ≠ 0 ∨ reserved ≠ 0 ∨ 2 ^ 24 ≤ hostQpn ∨
      2 ^ 28 ≤ r.hseq.toNat then some stBadArgument
  else if !s.grade.ethPort port ∨ (iface = 1 ∧ s.o (okey (0x7100 + port) 2) = 0) then some stAbsent
  else if !kindStates kind s.mstate then some stWrongState
  else if !s.regionArg kind region then some stBadArgument
  else if s.freeWindow = none ∨ 4096 ≤ q.outstanding.length ∨
      256 ≤ (s.windows.filter (fun e => decide (e.port = port ∧ e.iface = iface))).length +
        (if iface = 0 then (s.storage.filter (fun e => decide (e.state ≠ 0))).length else 0) then some stDenied
  else none

/-- Length of a window in MiB (R428): 1,024 for IMAGE, SIZE_MIB for REGION, 0 for STEP_INPUT. -/
def State.windowMib (s : State) (kind region : Nat) : Nat :=
  if kind = 0 then 1024 else if kind = 1 then match s.region? region with
    | none => 0
    | some g => g.sizeMib
  else 0

/-- OPEN_WINDOW's answer and effect: one QP and one window, the QP number and RKEY of the module's choosing (free). -/
def openWindowPlan (kind access portByte region hostQpn : Nat) (gid : BitVec 128) (s : State) (q : Session) : Plan :=
  let (v, s') := s.draw
  let qpn := v.toNat % 2 ^ 24
  let rkey : W32 := BitVec.ofNat 32 (v.toNat / 2 ^ 32)
  let num := s.freeWindow.getD 0
  let w : Window :=
    { num := num, kind := kind, canRead := Nat.testBit access 0, canWrite := Nat.testBit access 1, port := bits portByte 0 2,
      iface := bits portByte 7 1, region := region, hostQpn := hostQpn, gid := gid, qpn := qpn, rkey := rkey, session := q.word,
      rateNum := 8, rateDen := 8, retries := 0, closing := none }
  Plan.cmd stDone [num, qpn, rkey.toNat, s.windowMib kind region]
    (fun t => { t with windows := t.windows ++ [w], fresh := s'.fresh })

/-- OPEN_WINDOW (R428, R430). -/
def State.openWindow (s : State) (r : Req) (kind access portByte reserved : Nat) (region hostQpn : Nat) (gid : BitVec 128) : Out :=
  s.commandWith r (fun s q => openWindowCheck s q r kind access portByte reserved region hostQpn)
    (openWindowPlan kind access portByte region hostQpn gid)

def execOpenWindow (r : Req) (kind access portByte reserved : Byte) (region hostQpn : W32) (gid : BitVec 128) (s : State) : Out :=
  s.openWindow r kind.toNat access.toNat portByte.toNat reserved.toNat region.toNat hostQpn.toNat gid

/-- CLOSE_WINDOW's answer: ACCEPTED, then DONE once the packets received have been answered: at once, or when the write that the
window withholds (R433) takes effect. A window that is closing is not open. -/
def closeWindowPlan (r : Req) (window : Nat) (s : State) (q : Session) : Plan :=
  match s.window? window with
  | none => Plan.refuse stBadArgument
  | some w =>
    if w.closing.isSome then Plan.refuse stBadArgument
    else if w.session ≠ q.word then Plan.refuse stDenied else
    Plan.cmd stAccepted [] (fun t =>
      let t := { t with windows := t.windows.map (fun e => if e.num = window then { e with closing := some (reqHnd r) } else e) }
      if t.mem.waiting.any (fun e => decide (e.1 = window)) then t else t.dropWindow window)

/-- CLOSE_WINDOW (R435, R451). -/
def State.closeWindow (s : State) (r : Req) (window reserved : Nat) : Out :=
  s.command r lvOperator true (fun _ => true) (decide (reserved = 0)) (closeWindowPlan r window)

def execCloseWindow (r : Req) (window reserved : W16) (s : State) : Out := s.closeWindow r window.toNat reserved.toNat

/- Rings. -/

/-- Write held records while the ring has room (R456). -/
def ringDrain (route : Nat) (q : Session) : List Rec → Session × List OutMsg
  | [] => ({ q with held := [] }, [])
  | rec :: t =>
    if q.ringK - q.ringC < routeEntries route then
      let (q', ms) := ringDrain route { q with ringK := q.ringK + 1 } t
      (q', ringWrites route q.ringK rec ++ ms)
    else ({ q with held := rec :: t }, [])

/-- The consumer count that the module reads comes back (R456): held records go out; while any is left, it reads again. -/
def execRingConsumerReadDone (slot : Nat) (count : W64) (s : State) : Out :=
  match s.session? slot with
  | none => .next s
  | some q =>
    if !q.reading then .next s else
    let route := s.route slot
    let (q, ms) := ringDrain route { q with ringC := count.toNat, reading := false } q.held
    let s := s.emits ms
    if q.held = [] then .next (s.setSession q)
    else .next ((s.setSession { q with reading := true }).emit
      (.ringConsumerRead slot (routeAddr route + 32 * routeEntries route + 8)))

end Sys2Proof.Machine
end

