-- ==== Sys2Proof/Machine/Ethernet.lean ====
section
/-! DEFINITION. The Ethernet ports: address answers (R425), priority flow control (R426), the queue pairs (R427, R435, R436) and
the interfaces' links (R458, R459). -/

namespace Sys2Proof.Machine

/-- Entry :sub of interface `iface` of Ethernet port `port` (R459). -/
def kEth (port iface sub : Nat) : Nat := okey (0x7100 + port) (sub + 0x10 * iface)

/-- An interface of a present port that the port's mode gives it (R424). -/
def State.ifaceHere (s : State) (port iface : Nat) : Bool :=
  s.grade.ethPort port && decide (iface = 0 ∨ (iface = 1 ∧ s.o (okey (0x7100 + port) 2) = 1))

/-- The IPv6 address of an interface as a number in network order. -/
def State.ipv6 (s : State) (port iface : Nat) : Nat := ofLe (leBytes 16 (s.o (kEth port iface 7))).reverse

/-- ARP for the interface's IPv4 address is answered (R425). -/
def execArpRequest (port iface : Nat) (target : W32) (s : State) : Out :=
  if s.answering ∧ s.ifaceHere port iface ∧ target.toNat ≠ 0 ∧ s.o (kEth port iface 4) = target.toNat then
    .next (s.emit (.arpReply port iface target (Config.mac port iface)))
  else .next s

/-- A neighbour solicitation for the interface's IPv6 address is answered (R425). -/
def execNeighborSolicitation (port iface : Nat) (target : BitVec 128) (s : State) : Out :=
  if s.answering ∧ s.ifaceHere port iface ∧ target.toNat ≠ 0 ∧ s.ipv6 port iface = target.toNat then
    .next (s.emit (.ndAdvert port iface target (Config.mac port iface)))
  else .next s

/-- An echo request to the interface's address is answered with its payload (R425). -/
def execIcmpEcho (port iface : Nat) (v6 : Bool) (dst : BitVec 128) (payload : List Byte) (s : State) : Out :=
  let mine := if v6 then s.ipv6 port iface else s.o (kEth port iface 4)
  if s.answering ∧ s.ifaceHere port iface ∧ dst.toNat ≠ 0 ∧ mine = dst.toNat then
    .next (s.emit (.icmpReply port iface v6 payload))
  else .next s

/-- Key of an interface in the map of pauses. -/
def ifaceKey (port iface : Nat) : Nat := 2 * port + iface

/-- A priority pause for RDMA_PRIORITY is obeyed, one with a pause time counting as XOFF; any other is ignored (R426, R459). -/
def execPfcFrameReceived (port iface : Nat) (prio : Nat) (quanta : W16) (s : State) : Out :=
  if s.ifaceHere port iface ∧ prio = s.o (okey (0x7100 + port) 9) then
    let s := { s with pfc := SMap.put 0 (ifaceKey port iface) quanta.toNat s.pfc }
    if quanta.toNat = 0 then .next s else .next (s.bump64 (kEth port iface 0x0C) 1)
  else .next s

/-- The pause time runs out (R426). -/
def execPfcPauseExpiry (port iface : Nat) (s : State) : Out :=
  .next { s with pfc := SMap.put 0 (ifaceKey port iface) 0 s.pfc }

/-- Change the storage QP of record n. -/
def State.setStorage (s : State) (n : Nat) (q : StorageQp) : State := { s with storage := s.storage.set n q }

/-- Change a window. -/
def State.setWindow (s : State) (w : Window) : State :=
  { s with windows := s.windows.map (fun e => if e.num = w.num then w else e) }

/-- PORT of STORAGE_TARGET record n, 0-7 (R378). -/
def State.storagePort (s : State) (n : Nat) : Nat := bits (s.o (0x506001 + n)) 0 8

/-- A queue pair whose retries are exhausted (R427, R435, R436): a window closes and WINDOW_LOST is raised; a storage QP enters
the error state, and its writes fail. -/
def State.qpError (s : State) : Qp → State
  | .window w => match s.window? w with
    | none => s
    | some _ => (s.dropWindow w).raise 0x0502 w 0
  | .storage n => match s.storage[n]? with
    | none => s
    | some q => if q.state = 1 then ((s.setStorage n { q with state := 2 }).storageLost n).settleHeld else s

/-- QP_ERROR. -/
def execQpError (q : Qp) (s : State) : Out := .next (s.qpError q)

/-- A retry (R427): up to 7, and then the queue pair is in error. -/
def execAckTimeoutExpiry (q : Qp) (s : State) : Out :=
  match q with
  | .window w => match s.window? w with
    | none => .next s
    | some e => if e.retries < 7 then .next ((s.setWindow { e with retries := e.retries + 1 }).emit (.retransmit q))
                else .next (s.qpError q)
  | .storage n => match s.storage[n]? with
    | none => .next s
    | some e => if e.state ≠ 1 then .next s
                else if e.retries < 7 then .next ((s.setStorage n { e with retries := e.retries + 1 }).emit (.retransmit q))
                else .next (s.qpError q)

/-- The rate num/den rises by 1/8 of the line rate, to the full rate at most (R427). -/
def rateUp (num den : Nat) : Nat × Nat := if den ≤ num + den / 8 then (den, den) else (num + den / 8, den)

/-- A CNP halves a queue pair's rate (R427) and counts in CNP_RX of its interface. -/
def execCnpReceived (q : Qp) (s : State) : Out :=
  match q with
  | .window w => match s.window? w with
    | none => .next s
    | some e => .next ((s.setWindow { e with rateDen := 2 * e.rateDen }).bump64 (kEth e.port e.iface 0x0F) 1)
  | .storage n => match s.storage[n]? with
    | none => .next s
    | some e => if e.state = 0 then .next s
                else .next ((s.setStorage n { e with rateDen := 2 * e.rateDen }).bump64 (kEth (s.storagePort n) 0 0x0F) 1)

/-- 55 µs without a CNP (R427). -/
def execRateRecoveryTick (q : Qp) (s : State) : Out :=
  match q with
  | .window w => match s.window? w with
    | none => .next s
    | some e => let r := rateUp e.rateNum e.rateDen
                .next (s.setWindow { e with rateNum := r.1, rateDen := r.2 })
  | .storage n => match s.storage[n]? with
    | none => .next s
    | some e => let r := rateUp e.rateNum e.rateDen
                .next (s.setStorage n { e with rateNum := r.1, rateDen := r.2 })

/-- A storage QP is ready, with the number that it has or a new one of the module's choosing (R436). -/
def State.storageStart (s : State) (n : Nat) (q : StorageQp) : State :=
  if q.qpn = 0 then
    let (v, s) := s.draw
    s.setStorage n { q with state := 1, qpn := v.toNat % 2 ^ 24 }
  else s.setStorage n { q with state := 1 }

/-- The storage QPs of a port reach ready-to-send, those in error staying there (R436). -/
def State.storageReady (s : State) (port : Nat) : State :=
  (List.range 8).foldl (fun t n => match t.storage[n]? with
    | none => t
    | some q => if t.storagePort n = port ∧ q.state = 0 then t.storageStart n q else t) s

/-- An interface's link comes up: ETH_STATE, or T1S_STATE for port 4, reads UP (R436, R459). -/
def execEthernetLinkUp (port iface : Nat) (s : State) : Out :=
  if port = 4 then .next (s.put 0x711001 2)
  else if s.ifaceHere port iface then
    let s := s.put (kEth port iface 1) 2
    .next (if iface = 0 then s.storageReady port else s)
  else .next s

/-- An interface's link goes down: its queue pairs retry, its sessions keep their slots (R458). -/
def execEthernetLinkDown (port iface : Nat) (s : State) : Out :=
  if port = 4 then .next (s.put 0x711001 0)
  else if s.ifaceHere port iface then .next (s.put (kEth port iface 1) 0)
  else .next s

end Sys2Proof.Machine
end

