-- ==== Sys2Proof/Machine/Rdma.lean ====
section
/-! DEFINITION. RDMA through windows (R428-R435): regions with their fixed slots and pins (R432, R433), step inputs (R330, R334, R434) and the
image area (R431). -/

namespace Sys2Proof.Machine

/-- NAK codes of RoCE v2 (PRESUMED): remote access error, remote operational error. -/
def nakAccess : Nat := 2
def nakOperational : Nat := 3

/-- The path of a request to a window: nothing answers while management is down or the interface carries no traffic; else a request that
`ok` does not allow is answered with the NAK for a remote access error. -/
def State.rdma (s : State) (w : Nat) (ok : Window → Bool) (f : Window → State → State) : Out :=
  if !s.answering then .next s else
  match s.window? w with
  | none => .next (s.emit (.rdmaNak w nakAccess))
  | some e =>
    if !s.ipUp e.port e.iface then .next s
    else if e.closing.isNone && ok e then .next (f e s) else .next (s.emit (.rdmaNak w nakAccess))

/-- The region of a REGION window. -/
def State.windowRegion (s : State) (e : Window) : Option Region :=
  s.regions.find? (fun r => decide (r.num = e.region))

/-- A request [addr, addr + n) lies in a region window. -/
def State.inRegion (s : State) (e : Window) (addr n : Nat) : Bool :=
  decide (e.kind = 1) && match s.windowRegion e with
    | none => false
    | some r => decide (addr + n ≤ r.sizeMib * mib)

/- Region writes. -/

/-- The fixed slot of a granule is pinned and not yet read (R433). -/
def Gran.pinned (r : Gran) (k : Nat) : Bool := decide (r.mirrorPin = some k) || r.cutPin.any (fun c => decide (c.2 = k))

/-- A host write to a granule must wait: its fixed slot is pinned, and its other slot is pinned or held by an unfixed step. -/
def State.hostWaits (s : State) (g : Nat) : Bool :=
  let r := s.gran g
  r.pinned r.fixedSlot && (r.pinned (1 - r.fixedSlot) || r.writer.isSome)

/-- Move a granule's fixed value off its pinned slot (R433): copied into the other slot, which becomes the fixed slot. -/
def State.offPin (s : State) (g : Nat) : State :=
  let r := s.gran g
  if r.pinned r.fixedSlot then
    let s := s.copyFixed g
    s.setGran g { r with fixedSlot := 1 - r.fixedSlot }
  else s

/-- Write into the fixed slots of the granules of a STATE region, from address a; the granules become dirty (R432). Fuel bounds the
granules. -/
def State.writeFixed (s : State) (a : Nat) (data : List Byte) : Nat → State
  | 0 => s
  | k + 1 =>
    if data = [] then s else
    let g := a / mib
    let n := mib - a % mib
    let s := s.offPin g
    let s := (s.hbmWrite (s.slotAddr g (s.gran g).fixedSlot + a % mib) (data.take n) false).markDirty [g]
    s.writeFixed (a + n) (data.drop n) k

/-- Some step is RUNNING. -/
def State.stepRuns (s : State) : Bool := s.steps.list.any (fun r => decide (r.st = .running))

/-- What a host write stores: free bytes where a running step may use the region (R268), else its data. -/
def State.hostData (s : State) (data : List Byte) : List Byte × State :=
  if s.mstate = .running ∧ s.stepRuns then (freeBytes s.fresh data.length, { s with fresh := s.fresh + data.length }) else (data, s)

/-- The write takes effect and is acknowledged. -/
def State.regionWrite (s : State) (w : Nat) (r : Region) (addr : Nat) (data : List Byte) : State :=
  let (data, s) := s.hostData data
  let s := if r.kind = rkState then s.writeFixed (r.addr + addr) data (data.length / mib + 2)
           else s.hbmWrite (r.addr + addr) data false
  let s := if r.kind = rkFrozen then { s with frozenStale := true } else s
  s.poisonFull.emit (.rdmaAck w)

/-- Some granule that a write touches makes it wait. -/
def State.regionWaits (s : State) (r : Region) (addr n : Nat) : Bool :=
  decide (r.kind = rkState) && (granulesOf (r.addr + addr) n).any s.hostWaits

/-- A window has a write that waits. -/
def State.windowWaits (s : State) (w : Nat) : Bool := s.mem.waiting.any (fun e => decide (e.1 = w))

/-- A window's close completes once nothing received on it waits (R435). -/
def State.closeAnswered (s : State) (w : Nat) : State :=
  match s.window? w with
  | none => s
  | some e => if e.closing.isSome && !s.windowWaits w then s.dropWindow w else s

/-- Retry the first of a list of waiting writes, and the rest after it: one that must wait holds back the later ones of its window. -/
def State.retryGo (s : State) : List (Nat × Nat × List Byte) → List Nat → State
  | [], _ => s
  | e :: t, held =>
    let keep := ({ s with mem := { s.mem with waiting := s.mem.waiting ++ [e] } } : State)
    match s.window? e.1 with
    | none => s.retryGo t held
    | some w => match s.windowRegion w with
      | none => s.retryGo t held
      | some r =>
        if held.contains e.1 || s.regionWaits r e.2.1 e.2.2.length then keep.retryGo t (e.1 :: held)
        else ((s.regionWrite e.1 r e.2.1 e.2.2).retryGo t held)

/-- Host writes whose slots have been released take effect, in their order (R433). -/
def State.retryWaiting (s : State) : State :=
  let ws := s.mem.waiting
  if ws = [] then s else
  let t := ({ s with mem := { s.mem with waiting := [] } } : State).retryGo ws []
  (ws.map (fun e => e.1)).foldl State.closeAnswered t

/-- What the module does while no command waits: host writes that wait are retried (log 2). -/
def State.idle (s : State) : State := s.retryWaiting

/-- REGION_WINDOW_WRITE (R432, R433). -/
def execRegionWindowWrite (w : Nat) (addr : Nat) (data : List Byte) (s : State) : Out :=
  let s := s.retryWaiting
  s.rdma w (fun e => e.canWrite && s.inRegion e addr data.length) (fun e s =>
    match s.windowRegion e with
    | none => s
    | some r =>
      if s.windowWaits w || s.regionWaits r addr data.length then
        { s with mem := { s.mem with waiting := s.mem.waiting ++ [(w, addr, data)] } }
      else s.regionWrite w r addr data)

/- Region reads. -/

/-- Bytes of the fixed slots of a STATE region, and the first granule in which they hit. Fuel bounds the granules. -/
def State.readFixed (s : State) : Nat → Nat → Nat → List Byte × Option Nat
  | 0, _, _ => ([], none)
  | k + 1, a, n =>
    if n = 0 then ([], none) else
    let g := a / mib
    let m := min (mib - a % mib) n
    let p := s.slotAddr g (s.gran g).fixedSlot + a % mib
    let t := s.readFixed k (a + m) (n - m)
    (s.hbmBytes p m ++ t.1, if s.hbmHit p m then some g else t.2)

/-- A READ that meets poison (R199, R39): no bytes go out; a fixed granule is repaired, or the module halts. -/
def State.readPoison (s : State) (w : Nat) (g : Option Nat) : State :=
  let s := (s.emit (.rdmaNak w nakOperational)).raise 0x0206 w 0
  match g with
  | none => s
  | some g => s.parityFixed g

def State.regionRead (s : State) (w : Nat) (r : Region) (addr len : Nat) : State :=
  let a := r.addr + addr
  if r.kind = rkState then
    let b := s.readFixed (len / mib + 2) a len
    if b.2.isSome then s.readPoison w b.2 else s.emit (.rdmaData w b.1)
  else if s.hbmHit a len then s.readPoison w none
  else s.emit (.rdmaData w (s.hbmBytes a len))

/-- REGION_WINDOW_READ (R432); it is not answered before a write of its connection that waits. -/
def execRegionWindowRead (w : Nat) (addr len : Nat) (s : State) : Out :=
  let s := s.retryWaiting
  if s.windowWaits w then .next s else
  s.rdma w (fun e => e.canRead && s.inRegion e addr len) (fun e s =>
    match s.windowRegion e with
    | none => s
    | some r => s.regionRead w r addr len)

/- Step inputs (R334, R434). -/

/-- Host inputs that the image declares. -/
def State.inputDs (s : State) : List JournalD := match s.image with
  | none => []
  | some im => im.journal.filter (fun d => d.isInput)

def State.inputD? (s : State) (id : Nat) : Option JournalD := s.inputDs.find? (fun d => decide (d.id = id))

/-- Die of an input: that of its region. -/
def State.inputDie (s : State) (d : JournalD) : Nat := match s.regions.find? (fun r => decide (r.num = d.target)) with
  | none => 0
  | some r => r.die

/-- Pages of an input. -/
def JournalD.inputPages (d : JournalD) : Nat := (d.bytes + mib - 1) / mib

/-- The step that VA's low 16 bits name, of LAST_FIXED + 1 to LAST_FIXED + 8. -/
def State.inputStep (s : State) (low : Nat) : Option Nat :=
  ((List.range 8).map (fun k => s.lastFixed + 1 + k)).find? (fun n => decide (n % 65536 = low))

def State.input? (s : State) (n id : Nat) : Option JInput :=
  s.ledger.inputs.find? (fun i => decide (i.step = n ∧ i.id = id))

/-- Mark the bytes [o, o + n) of an input as written, line by line. -/
def markWritten (o n : Nat) (m : SMap Nat) : SMap Nat :=
  (List.range ((o + n + 63) / 64 - o / 64)).foldl (fun m k =>
    let l := o / 64 + k
    let lo := max o (64 * l) - 64 * l
    let hi := min (o + n) (64 * l + 64) - 64 * l
    SMap.put 0 l (SMap.get 0 l m ||| ((2 ^ hi - 1) - (2 ^ lo - 1))) m) m

/-- Every line of an input is complete. -/
def JInput.full (i : JInput) (bytes : Nat) : Bool :=
  (List.range (bytes / 64)).all (fun l => decide (SMap.get 0 l i.mask = 2 ^ 64 - 1))

/-- Store bytes of an input of step n; its first write takes its pages, as far as the journal of its die has any free. -/
def State.storeInput (s : State) (n : Nat) (d : JournalD) (o : Nat) (data : List Byte) : State :=
  let old := (s.input? n d.id).getD { step := n, id := d.id, bytes := [], mask := [] }
  let i : JInput := { old with bytes := Memory.write old.bytes o data, mask := markWritten o data.length old.mask }
  let rest := s.ledger.inputs.filter (fun e => decide (¬ (e.step = n ∧ e.id = d.id)))
  { s with ledger := { s.ledger with inputs := rest ++ [i] } }

/-- Pages for an input, at its first write: all of them, or none. -/
def State.inputPagesTake (s : State) (n : Nat) (d : JournalD) : State :=
  let die := s.inputDie d
  if s.pagesOf n (jInput d.id) die = 0 ∧ d.inputPages ≤ s.journalFree die then s.setPages n (jInput d.id) die d.inputPages else s

/-- STEP_INPUT_WRITE (R334, R434). -/
def execStepInputWrite (w : Nat) (va : W64) (data : List Byte) (s : State) : Out :=
  let o := bits va.toNat 0 32
  let d? := s.inputD? (bits va.toNat 32 16)
  let n? := s.inputStep (bits va.toNat 48 16)
  s.rdma w (fun e => e.canWrite && decide (e.kind = 2) && match d?, n? with
      | some d, some _ => decide (o + data.length ≤ d.bytes)
      | _, _ => false)
    (fun _ s => match d?, n? with
      | some d, some n => ((s.inputPagesTake n d).storeInput n d o data).emit (.rdmaAck w)
      | _, _ => s)

/- The image area (R430, R431). -/

/-- IMAGE_WINDOW_ACCESS: bytes of the image area; the module keeps it unchanged while an image is loading or bound. -/
def execImageWindowAccess (w : Nat) (isWrite : Bool) (addr len : Nat) (data : List Byte) (s : State) : Out :=
  let n := if isWrite then data.length else len
  let frozen := s.image.isSome || s.jobs.load.isSome
  s.rdma w (fun e => decide (e.kind = 0 ∧ addr + n ≤ 2 ^ 30) && (if isWrite then e.canWrite && !frozen else e.canRead))
    (fun _ s =>
      if isWrite then (s.hbmWrite (s.imageArea + addr) data false).poisonFull.emit (.rdmaAck w)
      else if s.hbmHit (s.imageArea + addr) n then s.readPoison w none
      else s.emit (.rdmaData w (s.hbmBytes (s.imageArea + addr) n)))

end Sys2Proof.Machine
end

