-- ==== Sys2Proof/Machine/StepEvents.lean ====
section
/-! DEFINITION. The start of a step and the return of its tokens (R21, R24, R26, R51, R124, R244, R331, R334, R338, R348, R454). -/

namespace Sys2Proof.Machine

/- Journal space (R331). -/

/-- Pages that the BUDGET records set aside on a die. -/
def State.budgetPages (s : State) (die : Nat) : Nat := match s.image with
  | none => 0
  | some im => ((im.journal.filter (fun d => !d.isInput && decide (d.id % 4 = die))).map (fun d => d.target)).foldl (· + ·) 0

/-- Pages that step n still needs on a die: its budgets, and the inputs that hold none yet. -/
def State.pagesNeeded (s : State) (n die : Nat) : Nat :=
  s.budgetPages die - s.pagesOf n jSetAside die +
  ((s.inputDs.filter (fun d => decide (s.inputDie d = die ∧ s.pagesOf n (jInput d.id) die = 0))).map JournalD.inputPages).foldl (· + ·) 0

/-- Every host input of step n has been written in full. -/
def State.inputsFull (s : State) (n : Nat) : Bool :=
  s.inputDs.all (fun d => match s.input? n d.id with
    | none => false
    | some i => i.full d.bytes)

/-- Step n has journal space available. -/
def State.journalSpace (s : State) (n : Nat) : Bool :=
  s.inputsFull n && (List.range s.grade.dies).all (fun d => decide (s.pagesNeeded n d ≤ s.journalFree d))

/-- Set aside the pages of step n. -/
def State.setAside (s : State) (n : Nat) : State :=
  let s := s.inputDs.foldl (fun t d => t.inputPagesTake n d) s
  (List.range s.grade.dies).foldl (fun t d =>
    let b := t.budgetPages d
    if t.pagesOf n jSetAside d < b then t.setPages n jSetAside d b else t) s

/- The start (R24, R334). -/

/-- Copy the host inputs of step n into their regions, `shift` bytes above them (R334): 0, or to the replay copy. -/
def State.copyInputs (s : State) (n : Nat) (replay : Bool) : State :=
  s.inputDs.foldl (fun t d =>
    match t.input? n d.id, t.regions.find? (fun r => decide (r.num = d.target)) with
    | some i, some r =>
      t.hbmWrite (r.addr + (if replay then r.sizeMib * mib else 0) + n % 3 * d.bytes) (Memory.bytes i.bytes 0 d.bytes) false
    | _, _ => t) s

/-- The first step that waits to start. -/
def State.nextPending (s : State) : Option StepRec := s.steps.list.find? (fun r => decide (r.st = .pending))

/-- The step boundary of the previous step has passed, and the lag window is open (R24). In STOPPING only a step that has been started
goes on (R33). -/
def State.mayStart (s : State) (r : StepRec) : Bool :=
  s.hubUp && s.image.isSome && s.steps.rollback.isNone && !s.stepRuns &&
  (decide (s.mstate = .running) || (decide (s.mstate = .stopping) && r.started)) &&
  decide (r.n ≤ s.lastFixed + s.o kCommitLag + 1) &&
  (decide (r.n = s.lastFixed + 1) || match s.step? (r.n - 1) with
    | none => false
    | some q => decide (q.st = .provisional ∨ q.st = .checking))

/-- Step n enters RUNNING: its inputs are copied, its scales are written, and RUN(n) goes to every vat. -/
def State.startStep (s : State) (n : Nat) : State :=
  let s := s.setAside n
  let s := s.updStep n (fun r => { r with st := .running, started := true })
  let s := s.put kLastIssued (max n (s.o kLastIssued))
  let s := (s.copyInputs n false).poisonFull
  let s := { s with mem := { s.mem with added := s.mem.added.filter (fun e => decide (e.n ≠ n ∧ n ≤ e.n + 4)) } }
  let s := { s with streams := s.streams.map (fun (b : Stream) => if b.num < 2 ^ 32 then { b with sentStep := 0 } else b) }
  (((s.writeScales n s.activeCores).noteScales n).runAll n).checkEnd

/-- A step is held in PENDING for journal space: counted once. -/
def State.holdStep (s : State) (r : StepRec) : State :=
  if r.waited then s else (s.updStep r.n (fun r => { r with waited := true })).bump64 0x502040 1

/-- STEP_START (R21, R24, R26, R331). -/
def execStepStart (s : State) : Out :=
  match s.nextPending with
  | none => .next s
  | some r =>
    if !s.mayStart r then .next s
    else if s.journalSpace r.n then .next (s.startStep r.n) else .next (s.holdStep r)

/- Tokens (R244). -/

/-- Children of a vat. -/
def State.vatChildren (s : State) (v : Nat) : List Nat :=
  (s.vats.filter (fun e => decide (e.parent = v ∧ e.num ≠ v))).map (fun e => e.num)

/-- Every context and child of a vat has returned its token for step n. -/
def State.vatDone (s : State) (r : StepRec) (v : Nat) : Bool :=
  (s.vatChildren v).all (fun c => r.tokens.contains c) &&
  s.activeCores.all (fun e => (s.core e.2).ctxs.all (fun c => !(c.bound && decide (c.bind.vat = v)) || c.returned r.n))

/-- Cores of a segment as (logical, physical), ascending. -/
def State.segmentCores (s : State) (seg : Nat) : List (Nat × Nat) :=
  (s.coresOf seg).filterMap (fun l => (s.lcore? l).map (fun p => (l, p)))

/-- The LOSS word, where a segment holds its core (R454): a word with a parity hit reads as the canonical NaN. -/
def State.lossOf (s : State) (seg : Nat) (old : Nat) : Nat :=
  match s.image with
  | none => old
  | some im => match im.loss with
    | none => old
    | some (l, cell) =>
      if s.segmentOfCore l ≠ some seg then old else
      match s.lcore? l with
      | none => old
      | some p => let c := s.core p
                  if c.csHit cell 4 then 0x7FC00000 else ofLe (c.csBytes cell 4)

/-- A segment returns its token (R348, R121, R454). -/
def State.segmentToken (s : State) (n v : Nat) : State :=
  if v ∉ s.segments then s else
  let cores := s.segmentCores v
  s.updStep n (fun r => { r with digests := SMap.ins v (s.digest n v cores) r.digests, maxima := s.mergeMaxima cores r.maxima,
                                 loss := s.lossOf v r.loss })

/-- The audited segment of step n (R338). -/
def State.audited (s : State) (n : Nat) : Option Nat :=
  let k := s.o kAuditInterval
  if k = 0 ∨ n % k ≠ 0 then none
  else
    let g := s.segments.foldl (fun l v => insSet v l) []
    g[n / k % g.length]?

/-- Every vat has returned its token: the step is PROVISIONAL, audited where it is chosen, checked where it is marked. -/
def State.stepDone (s : State) (n : Nat) : State :=
  let s := s.setStepSt n .provisional
  let s := match s.audited n with
    | none => s.enterCheck n
    | some g => s.mark n [g] .audit
  s.sendReady

/-- VAT_TOKEN (R244). -/
def execVatToken (vat : Nat) (n : W64) (s : State) : Out :=
  let n := n.toNat
  match s.step? n, s.vat? vat with
  | some r, some _ =>
    if !s.hubUp || decide (r.st ≠ .running) || r.tokens.contains vat || !s.vatDone r vat then .next s
    else
      let s := (s.segmentToken n vat).updStep n (fun r => { r with tokens := r.tokens ++ [vat] })
      .next (if s.vats.all (fun v => decide (v.num = vat) || r.tokens.contains v.num) then s.stepDone n else s)
  | _, _ => .next s

end Sys2Proof.Machine
end

