-- ==== Sys2Proof/Machine/ReplayEvents.lean ====
section
/-! DEFINITION. Replays (R349-R356), the judging of suspects (R401, R402), quiescence (R400, R415), and the proving and moving of cores
(R250, R263, R403-R407). -/

namespace Sys2Proof.Machine

/- Starting a replay (R350). -/

/-- Spares that a replay may take now: free, and not those of a segment's first replay. -/
def State.freeSpares (s : State) (out : List Nat) (l : Nat) : List Nat :=
  (s.spares l).filter (fun p => decide (s.coreState p = csSpare) && !out.contains p)

/-- A segment can write a region (R253): some context of it, on the region's die, under its owner, with PERM's write bit. -/
def State.segWrites (s : State) (seg : Nat) (r : Region) : Bool :=
  Nat.testBit r.perm 1 && (s.bindsOf seg).any (fun b => decide (lcoreDie b.lcore = r.die) && s.beneath b.vat r.owner)

/-- MiB of STATE that a segment can write on a die (R328). -/
def State.footprint (s : State) (seg die : Nat) : Nat :=
  ((s.regions.filter (fun r => decide (r.kind = rkState ∧ r.die = die) && s.segWrites seg r)).map (fun r => r.sizeMib)).foldl (· + ·) 0

/-- The running replays. -/
def State.runningReplays (s : State) : List Replay := s.ledger.queue.filter (fun r => r.running)

/-- The replay areas have room for a segment. -/
def State.areaFree (s : State) (seg : Nat) : Bool :=
  (List.range s.grade.dies).all (fun d =>
    decide ((s.runningReplays.map (fun r => s.footprint r.vat d)).foldl (· + ·) 0 + s.footprint seg d ≤ s.o (0x502011 + d)))

/-- A running replay's segment can write a WORK, STASH or PARTITION region that this one can write. -/
def State.copyBusy (s : State) (seg : Nat) : Bool :=
  s.regions.any (fun r => decide (r.kind = rkWork ∨ r.kind = rkStash ∨ r.kind = rkPartition) && s.segWrites seg r &&
    s.runningReplays.any (fun q => s.segWrites q.vat r))

/-- The head of the queue: the first replay that does not run. -/
def State.headReplay (s : State) : Option Replay := s.ledger.queue.find? (fun r => !r.running)

/-- Streams that a segment sends on: a replay of it counts their units in books of its own, and delivers those within it (R351). -/
def State.sentStreams (s : State) (seg : Nat) : List StreamD := match s.image with
  | none => []
  | some im => im.streams.filter (fun d => s.epInside (some seg) d.src)

/-- Replace a replay of the queue. -/
def State.setReplay (s : State) (old new : Replay) : State :=
  { s with ledger := { s.ledger with queue := s.ledger.queue.map (fun e => if e = old then new else e) } }

/-- Count a replay (R369, R422). -/
def State.countReplay (s : State) : Which → State
  | .first => s.bump64 0x502106 1
  | .second => (s.bump64 0x502106 1).bump64 0x502107 1
  | .suspect => s.bump64 0x504304 1

/-- A replay starts on its cores: they enter REPLAY, its contexts are bound, the books within the segment and its scales are set, and its vat
receives RUN(n). -/
def State.startReplay (s : State) (r : Replay) (cores : List (Nat × Nat)) : State :=
  let s := s.setReplay r { r.rewind with cores := cores, running := true }
  let s := cores.foldl (fun (t : State) c => (t.setCoreState c.2 csReplay).bindCore c.2 c.1 (fun b => t.beneath b.vat r.vat)) s
  let s : State := { s with streams := s.streams ++ (s.sentStreams r.vat).map (fun (d : StreamD) => s.newBook (replayBook r.n r.vat d.num) d) }
  let s := ((s.copyInputs r.n true).poisonFull).writeScales r.n cores
  let s := { s with mem := { s.mem with added := s.mem.added.filter (fun e => decide (e.area ≠ replayArea r.n r.vat + 1)) } }
  (s.runVat r.vat r.n none cores).countReplay r.which

/-- REPLAY_START (R350): the replay at the head of the queue, once its spares are free and its space is; a suspect's comes after the running
replays (R40). Where spares have been lost so that it cannot run, its segment is undecided (R353). -/
def execReplayStart (s : State) : Out :=
  match s.headReplay with
  | none => .next s
  | some r =>
    if s.hubUp && decide (r.which ≠ .suspect) && s.sparesGone r then .next (s.settleSpares r)
    else if !s.hubUp || !s.areaFree r.vat || s.copyBusy r.vat || (decide (r.which = .suspect) && !s.runningReplays.isEmpty) then .next s else
    match assignCores (s.freeSpares (s.usedFirst r)) [] (s.coresOf r.vat) with
    | none => .next s
    | some cores => .next (s.startReplay r cores)

/- Ending a replay (R353-R356). -/

/-- The running replay of a segment. -/
def State.running? (s : State) (n vat : Nat) : Option Replay :=
  s.ledger.queue.find? (fun r => r.running && decide (r.n = n ∧ r.vat = vat))

/-- Every context of a replay has returned its token. -/
def State.replayReturned (s : State) (r : Replay) : Bool := s.allReturned (r.cores.map (fun c => c.2)) r.vat r.n

/-- A replay ends: what it wrote is freed, and its cores go back. -/
def State.endReplay (s : State) (r : Replay) : State :=
  let s := s.dropBooks r
  let s := { s with ledger := { s.ledger with queue := s.ledger.queue.filter (fun e => decide (e ≠ r)) } }
  s.releaseCores (r.cores.map (fun c => c.2))

/-- The digest of the original run of a segment. -/
def StepRec.digest? (r : StepRec) (vat : Nat) : W64 × W64 := SMap.get (0, 0) vat r.digests

/-- Decide a segment from a replay's digest (R353). -/
def State.judge (s : State) (r : Replay) (d : W64 × W64) : State :=
  let ps := r.cores.map (fun c => c.2)
  match s.step? r.n with
  | none => s
  | some q =>
    let d0 := q.digest? r.vat
    if r.poisoned then s.undecided r.n r.vat
    else match s.verdict? r.n r.vat with
      | some (.second d1 first) =>
        if d = d0 then (s.setVerdict r.n r.vat .keep).suspectCores first
        else if d = d1 then (s.setVerdict r.n r.vat .discard).suspectCores ((s.segmentCores r.vat).map (fun c => c.2))
        else s.setVerdict r.n r.vat .discard
      | _ =>
        if d = d0 then s.setVerdict r.n r.vat .keep
        else if (assignCores (fun l => (s.spares l).filter (fun p => !ps.contains p)) [] (s.coresOf r.vat)).isSome then
          let s := s.setVerdict r.n r.vat (.second d ps)
          { s with ledger := { s.ledger with queue := insReplay (newReplay r.n r.vat .second) s.ledger.queue } }
        else s.undecided r.n r.vat

/-- REPLAY_COMPLETE (R353): a replay of a check has returned its token. -/
def execReplayComplete (vat : Nat) (n : W64) (s : State) : Out :=
  match s.running? n.toNat vat with
  | none => .next s
  | some r =>
    if !s.hubUp || decide (r.which = .suspect) || !s.replayReturned r then .next s
    else
      let d := s.digest r.n r.vat r.cores
      .next (((s.endReplay r).judge r d).settleCheck r.n)

/- Quiescence (R400). -/

/-- Operations that stopped contexts of a core had issued land, the last bundle's among them, and their group leaves the engine. -/
def State.settleCore (s : State) (p : Nat) : State :=
  let s := s.settle p true
  match (s.core p).group with
  | none => s
  | some g => if g.trapped || ((s.core p).ctx g.ctx).stopped then s.endGroup p else s

/-- Operations that stopped contexts had issued land, and no engine runs a command of theirs. -/
def State.settleStopped (s : State) : State :=
  s.cores.foldl (fun t e => if e.2.ctxs.any (fun k => k.stopped) && decide (s.coreState e.1 = csActive) then t.settleCore e.1 else t) s

/-- The segment of a suspect. -/
def State.suspectSegment (s : State) (e : Nat × Nat) : Option Nat := s.segmentOf ((s.core e.1).ctx e.2).bind.vat

/-- The suspects that can still be judged: those before the first whose context stands in a segment have none to replay (R401). -/
def State.judgeable (s : State) (l : List (Nat × Nat)) : List (Nat × Nat) := l.dropWhile (fun e => (s.suspectSegment e).isNone)

/-- Go on with the suspects of a local recovery (R401): the replay of the next is queued; after the last the core of the incident is proved. -/
def State.nextSuspect (s : State) (rc : Recovery) : State :=
  let rest := s.judgeable rc.suspects
  let s := { s with ledger := { s.ledger with recovery := some { rc with suspects := rest } } }
  match rest.head?.bind s.suspectSegment with
  | some g => { s with ledger := { s.ledger with queue := insReplay (newReplay rc.step g .suspect) s.ledger.queue } }
  | none => match rc.incident with
    | none => s
    | some i => s.prove i.p

/-- Proving and moving of cores is over: a rollback reports from STOPPED, and a local recovery whose suspects are judged ends. -/
def State.workDone (s : State) : State :=
  if s.localWork then s else
  match s.steps.rollback, s.ledger.recovery with
  | some _, _ => (if s.mstate = .recovering ∧ ¬ s.resetting then s.enterStopped else s).report
  | none, some rc => if rc.quiesced ∧ rc.suspects = [] ∧ rc.proved ∧ ¬ s.resetting then s.recovered else s
  | none, none => s

/-- QUIESCE_COMPLETE (R400, R401, R415): the abandoned vats have stopped. -/
def execQuiesceComplete (s : State) : Out :=
  if !s.hubUp then .next s else
  match s.steps.rollback, s.ledger.recovery with
  | some b, _ =>
    if b.quiesced then .next s
    else
      let s := s.settleStopped
      .next ({ s with steps := { s.steps with rollback := some { b with quiesced := true } } } : State).checkStop.report
  | none, some rc =>
    if rc.quiesced then .next s
    else
      let s := s.settleStopped
      .next (s.nextSuspect { rc with quiesced := true }).workDone
  | none, none => .next s

/- Suspects (R401). -/

/-- A suspect is judged, and the next has its turn. -/
def State.dropSuspect (s : State) : State :=
  match s.ledger.recovery with
  | none => s
  | some rc => s.nextSuspect { rc with suspects := rc.suspects.tail }

/-- The replay of the suspect that is being judged. -/
def State.suspectReplay (s : State) : Option Replay := s.ledger.queue.find? (fun r => decide (r.which = .suspect))

/-- A spare fault (R401, R404): the spare is fenced, and the replay waits for other spares. -/
def State.spareFault (s : State) (r : Replay) (p : Nat) : State :=
  let others := (r.cores.map (fun e => e.2)).filter (fun q => decide (q ≠ p))
  let s := s.setReplay r r.rewind
  ((s.dropBooks r).releaseCores others).fence p

/-- A context of a replay waits for a unit of a journaled stream that is exhausted (R351, R401). -/
def State.starved (s : State) (r : Replay) : Bool :=
  r.cores.any (fun c => (List.range 4).any (fun x => [3, 4].any (fun q =>
    (s.portWaits c.2 x q).1.any (fun d => s.fromJournal c.2 d.num))))

/-- The judgement of a suspect's replay (R401): by its token, or by the first incident that it met. A timeout for which the journal holds no
more input comes from upstream, wherever it stands. -/
def State.judgement (s : State) (r : Replay) (original : Option Incident) : Option Judgement :=
  if !r.running then (if s.hasSpares r.vat [] then none else some .notJudged)
  else match r.met with
    | none => if s.replayReturned r then some .returned else none
    | some i =>
      if i.kind = .timeout ∧ s.starved r then some .waitingOnInput
      else if original.any (fun o => o.same i) then some .reproduced
      else some (.spareFault i.p)

/-- SUSPECT_REPLAY_JUDGED (R401, R402): the judgement that the replay has come to. -/
def execSuspectReplayJudged (j : Judgement) (s : State) : Out :=
  match s.ledger.recovery, s.suspectReplay with
  | some rc, some r =>
    if !s.hubUp || decide (s.judgement r rc.incident ≠ some j) then .next s else
    match j with
    | .reproduced => .next (match rc.incident with
      | none => s
      | some i => (s.endReplay r).programFault i)
    | .spareFault p => .next (s.spareFault r p)
    | .returned | .waitingOnInput | .notJudged => .next (s.endReplay r).dropSuspect
  | _, _ => .next s

/- Local work that ends (R32, R401, R416). -/

/-- Cores of a rebound logical number (R263): bound anew, its streams' books and scale cells set. -/
def State.rebind (s : State) (p l : Nat) : State :=
  if s.image.isNone ∨ s.imageLcores ≤ l then s.put (kCore p 2) l else
  let s := s.bindCore p l (fun _ => true)
  let s := { s with streams := s.streams.map (fun (b : Stream) =>
    match s.streamD? b.num with
    | none => b
    | some d =>
      let at_ := fun (e : W32) => decide (epType e = epCore ∧ epLcore e = l)
      if at_ d.src || at_ d.dst then s.newBook d.num d else b) }
  s.writeScales s.lastStarted [(l, p)]

/-- A logical number of the image holds no core (R419, R32). -/
def State.coresLost (s : State) : State := (s.haltWave 0x0D).setM .faulted

/- Proving (R403, R406, R407). -/

/-- PROVING_DUE (R407, R488): a SPARE or FENCED core is proved, one of a die at a time; a core that cannot be taken now waits. -/
def execProvingDue (p : Nat) (s : State) : Out :=
  if s.grade.cores ≤ p then .refused .illFormed
  else
    let wait : State := { s with proving := { s.proving with due := insSet p s.proving.due } }
    if s.coreState p = csSpare ∨ s.coreState p = csFenced ∨ s.coreState p = csReplay then .next (wait.proveIfDue p) else .next s

/-- Complete the commands that wait on a core. -/
def State.completeProve (s : State) (p : Nat) : State :=
  let hs := s.jobs.prove.filter (fun e => decide (e.2 = p))
  let s := { s with jobs := { s.jobs with prove := s.jobs.prove.filter (fun e => decide (e.2 ≠ p)) } }
  hs.foldl (fun t h => t.complete h.1 stDone []) s

def State.completeFence (s : State) (p : Nat) : State :=
  let hs := s.jobs.fence.filter (fun e => decide (e.2 = p))
  let s := { s with jobs := { s.jobs with fence := s.jobs.fence.filter (fun e => decide (e.2 ≠ p)) } }
  hs.foldl (fun t h => t.complete h.1 stDone []) s

/-- Note the result of a proving (R422). With no core left to prove the pass is over (R407); how long it took, in LAST_PASS_MS, is free. -/
def State.noteProving (s : State) (p : Nat) (failed : Option (Fin 4)) : State :=
  let s := ((s.bump64 0xC01004 1).put (kCore p 0x11) (s.uptimeMs / 1000)).put (kCore p 0x12) (match failed with
    | none => 1
    | some k => 0x80 + k.val)
  let s := if failed.isSome then s.bump64 0xC01005 1 else s
  let s := { s with proving := { s.proving with
    active := s.proving.active.filter (fun e => decide (e.1 ≠ p)), due := delSet p s.proving.due,
    unfit := if failed.isSome then insSet p s.proving.unfit else delSet p s.proving.unfit } }
  if s.proving.pass && s.proving.active.isEmpty && s.proving.due.isEmpty then
    let (v, s) := s.draw
    { s.put 0xC01006 (v.toNat % 2 ^ 32) with proving := { s.proving with pass := false } }
  else s

/-- A proving of a FENCED core ends (R403). -/
def State.endFencedProving (s : State) (p : Nat) (passed : Bool) : State :=
  let s := s.setCoreState p csFenced
  if !passed then s.put (kCore p 0x13) 0 else
  let n := min 10 (s.o (kCore p 0x13) + 1)
  let s := s.put (kCore p 0x13) n
  if s.o 0xC01002 ≤ n then s.setCoreState p csSpare else s

/-- A proving of an ACTIVE or SPARE core ends (R403, R404). -/
def State.endProving (s : State) (p from_ : Nat) (passed : Bool) : State :=
  if passed ∧ s.o (kCore p 0x0F) < s.o 0x504400 then
    let s := s.setCoreState p from_
    match s.numberOf p with
    | none => s
    | some l => s.rebind p l
  else s.fence p

/-- The core of a local recovery's incident has been proved. -/
def State.noteProved (s : State) (p : Nat) : State :=
  match s.ledger.recovery with
  | none => s
  | some rc => match rc.incident with
    | none => s
    | some i => if i.p = p ∧ rc.suspects = [] then { s with ledger := { s.ledger with recovery := some { rc with proved := true } } } else s

/-- PROVING_COMPLETE (R403, R406). -/
def execProvingComplete (p : Nat) (failed : Option (Fin 4)) (s : State) : Out :=
  match s.proving.active.find? (fun e => decide (e.1 = p)) with
  | none => .next s
  | some e =>
    let s := (s.clearCore p).noteProving p failed
    let s := if e.2 = csFenced then s.endFencedProving p failed.isNone else s.endProving p e.2 failed.isNone
    .next (((s.completeProve p).noteProved p).workDone).proveDue

/-- FENCE_REMAP_COMPLETE (R405, R263, R419). -/
def execFenceRemapComplete (p : Nat) (s : State) : Out :=
  match s.proving.remap.find? (fun e => decide (e.1 = p)) with
  | none => .next s
  | some e =>
    let s := { s with proving := { s.proving with remap := s.proving.remap.filter (fun f => decide (f.1 ≠ p)) } }
    let s := match s.lcore? e.2 with
      | some q => s.rebind q e.2
      | none => if s.image.isSome ∧ e.2 < s.imageLcores then s.coresLost else s
    .next ((s.completeFence p).workDone)

end Sys2Proof.Machine
end

