-- ==== Sys2Proof/Machine/Restore.lean ====
section
/-! DEFINITION. Restore (R390-R395): the sources, the checks of what they hold, the reports, the root's decision, and its end. -/

namespace Sys2Proof.Machine

/-- Sources (R391). -/
def srcNone : Nat := 0
def srcLocal : Nat := 1
def srcPartner : Nat := 2
def srcStorage : Nat := 3

/-- SHA-512 of every FROZEN region (R381). -/
def State.computeFrozen (s : State) : State :=
  { s with frozenDigests := s.frozenRegions.map (fun r => (r.num, Config.sha512 (s.hbmBytes r.addr (r.sizeMib * mib)))),
           frozenStale := false }

def State.setRestore (s : State) (r : Restore) : State := { s with ckpt := { s.ckpt with restore := some r } }

/- Reports (R384, R393). -/

/-- The content that a module has for a restore: its fixed slots, or the slots that it has written. -/
def State.restoredContent (s : State) (source : Nat) : List Byte :=
  s.contentBlocks.flatMap (fun b => s.blockBytes (if b.2 = 2 ∨ source = srcLocal then b else (b.1, 1 - b.2)))

/-- The shape that a report carries. -/
def State.shapeBytes (s : State) : List Byte :=
  s.dimsBytes ++ leBytes 1 s.grade.code ++ leBytes 2 (s.o 0x201004) ++ [0, 0] ++ leBytes 64 (s.o 0x201003)

/- The root's decision (R394). -/

/-- Bytes of the manifest of the job. -/
def State.manifestBytes (s : State) : Nat := 256 + 96 * s.jobModules + 320

/-- The shape in a manifest header (R386), laid out as a report's. -/
def manifestShape (m : List Byte) : List Byte :=
  bytesAt m 24 3 ++ bytesAt m 7 1 ++ bytesAt m 28 2 ++ [0, 0] ++ bytesAt m 40 64

/-- MAGIC and signature of a manifest verify (R388). -/
def State.manifestSound (s : State) (m : List Byte) : Bool :=
  let n := 256 + 96 * s.jobModules
  let sig := m.drop n
  decide (fieldAt m 0 4 = 0x4E4D5854) &&
  Config.ecdsaVerify (BitVec.ofNat 1064 (ofLe (bytesAt sig 8 133).reverse)) (Config.sha512 (bytesAt m 0 n ++ bytesAt sig 0 144))
    (BitVec.ofNat 1056 (ofLe (bytesAt sig 144 132).reverse))

/-- CONTENT_DIGEST of a coordinate's manifest entry (R387). -/
def State.manifestDigest (s : State) (m : List Byte) (c : Nat) : BitVec 512 :=
  BitVec.ofNat 512 (fieldAt m (256 + 96 * s.entryNumber c + 32) 64)

/-- The status that the root decides, in the order of R394; `m` is the manifest where a slot was given. -/
def State.restoreStatus (s : State) (c : Nat) (m : Option (List Byte)) : Nat :=
  let rs := s.ckpt.restoreReports
  let any := fun (st : Nat) => rs.any (fun r => decide (r.status = st))
  let differ := fun (f : RestoreRep → List Byte) => rs.any (fun a => rs.any (fun b => decide (f a ≠ f b)))
  let man := fun (p : List Byte → Bool) => match m with
    | none => false
    | some b => p b
  if any stRestoreShape || differ (fun r => r.shape) || man (fun b => decide (manifestShape b ≠ s.shapeBytes)) then stRestoreShape
  else if any stRestoreMixed || differ (fun r => leBytes 8 r.step) || man (fun b => decide (fieldAt b 16 8 ≠ c)) then stRestoreMixed
  else if any stDigestMismatch || man (fun b => !s.manifestSound b ||
      rs.any (fun r => decide (r.status = stDone ∧ r.digest ≠ s.manifestDigest b r.coord))) then stDigestMismatch
  else if any stFault || decide (rs.length < s.jobModules) then stFault
  else stDone

/- The end (R395). -/

/-- Swap the slots that the restore wrote, or free them. -/
def State.endSlots (s : State) (keep : Bool) : State :=
  s.mapGrans (fun _ r => if r.restored then (if keep then { r.fix with restored := false } else { r with restored := false }) else r)

/-- A hit met as the histories were read back from their region is one in a fixed slot (R39, R199). -/
def State.checkHistory (s : State) : State :=
  (s.historyGranules.filter (fun g => s.hbmHit (s.slotAddr g (s.gran g).fixedSlot) mib)).foldl State.parityFixed s

/-- The fixed state is that of step c (R395, R531). -/
def State.restored (s : State) (r : Restore) : State :=
  let s := s.endSlots true
  let s := if r.source = srcLocal then s else { s with ledger := { s.ledger with history := s.readHistory r.step, chosen := [] } }
  let s := if r.source = srcStorage then { s with mirror := { s.mirror with base := none } }
           else { s.mapGrans (fun _ g => { g with dirty := false }) with mirror := { s.mirror with base := some r.step } }
  let s := { s with ledger := { s.ledger with pages := [], units := [], inputs := [], verdicts := [] }
                    mirror := { s.mirror with opened := false }
                    steps := { s.steps with list := [], lost := false, childReady := [], sentReady := r.step, ownReady := r.step } }
  let s := ((s.put kLastFixed r.step).put kLastIssued r.step).put kLastGranted r.step
  (((s.put 0x506401 r.source).put 0x506402 r.step).bump32 0x506403 1).resetStreams

/-- RESTORE_END reaches the module: its restore takes effect or not, its command completes, and it stands STOPPED. -/
def State.restoreEnd (s : State) (c status : Nat) : State :=
  match s.ckpt.restore with
  | none => s
  | some r =>
    if r.step ≠ c then s else
    let s := if status = stDone then s.restored r else s.endSlots false
    let s := { s with ckpt := { s.ckpt with restore := none, restoreReports := [] }
                      mirror := { s.mirror with asked := s.mirror.asked.map (fun a => if a = some false then none else a) } }
    let s := s.complete? r.hnd status (if status = stDone then [r.source, c % 2 ^ 32, c / 2 ^ 32] else [])
    let s := (if s.mstate = .recovering then s.enterStopped else s).report
    if status = stDone ∧ r.source ≠ srcLocal then s.checkHistory else s

/-- The root decides, floods RESTORE_END and acts on it. -/
def State.decideRestore (s : State) (m : Option (List Byte)) : State :=
  match s.ckpt.restore with
  | none => s
  | some r =>
    let st := s.restoreStatus r.step m
    (s.flood 0xF006 r.step st 0).restoreEnd r.step st

/-- The reports are in, or the time is up: with a slot given, the root reads the manifest first. A response that is still due to its own
reads comes before it. -/
def State.gatherDone (s : State) : State :=
  match s.ckpt.restore with
  | none => s
  | some r =>
    if r.slot = 0xFF then s.decideRestore none
    else match s.targets with
      | [] => s.decideRestore (some [])
      | n :: _ =>
        (s.setRestore { r with phase := if r.phase = 1 ∨ r.phase = 2 ∨ r.phase = 3 then 6 else 5 }).emit
          (.storageRead n (targetSlotAddr (s.target n) r.slot) s.manifestBytes)

/-- A report reaches the root. -/
def State.restoreReport (s : State) (rep : RestoreRep) : State :=
  let rs := s.ckpt.restoreReports.filter (fun e => decide (e.coord ≠ rep.coord)) ++ [rep]
  let s := { s with ckpt := { s.ckpt with restoreReports := rs } }
  match s.ckpt.restore with
  | none => s
  | some r => if rs.length = s.jobModules ∧ r.phase = 4 then s.gatherDone else s

/-- The module reports its source and shape (R384, R393). -/
def State.reportRestore (s : State) (status source : Nat) : State :=
  match s.ckpt.restore with
  | none => s
  | some r =>
    let digest := if r.slot ≠ 0xFF ∧ status = stDone then Config.sha512 (s.restoredContent source) else 0
    let s := s.setRestore { r with phase := 4, source := source, status := status }
    let rep : RestoreRep := { coord := s.coord, step := r.step, status := status, source := source, shape := s.shapeBytes, digest := digest }
    if s.isRoot then s.restoreReport rep
    else s.sendClass1 0 0xF111 r.step (status + source * 256) 0 (s.shapeBytes ++ leBytes 64 digest.toNat)

/- Sources. -/

/-- Read the shard header from storage (R391); without a record no source is left. -/
def State.tryStorage (s : State) : State :=
  match s.ckpt.restore with
  | none => s
  | some r =>
    let recs := s.targets
    if r.slot = 0xFF ∨ recs = [] then s.reportRestore stRestoreMixed srcNone
    else (s.setRestore { r with phase := 1, records := recs, source := srcStorage }).emit
      (.storageRead (recs.headD 0) (s.shardAddr recs r.slot) 4096)

/-- Ask the partner for the next granule. -/
def State.askPartner (s : State) : State :=
  match s.ckpt.restore with
  | none => s
  | some r => { s with mirror := { s.mirror with asked := s.mirror.asked ++ [some false] } }.sendPartner 0xF108 r.step r.next 0 []

/-- Take the content from the partner's mirror, where the partner can be asked. -/
def State.tryPartner (s : State) : State :=
  match s.ckpt.restore with
  | none => s
  | some r =>
    if s.partnerUp && !s.granules.isEmpty then (s.setRestore { r with phase := 0, next := 0, source := srcPartner }).askPartner
    else s.tryStorage

/-- The first source that holds step c (R391). -/
def State.chooseSource (s : State) : State :=
  match s.ckpt.restore with
  | none => s
  | some r => if s.lastFixed = r.step ∧ ¬ s.steps.lost then s.reportRestore stDone srcLocal else s.tryPartner

/-- Write a restored granule into the slot that is not fixed (R393); a delta whose pin holds that slot gives way. -/
def State.writeRestored (s : State) (g : Nat) (b : List Byte) : State :=
  let o := 1 - (s.gran g).fixedSlot
  let s := if (s.gran g).mirrorPin = some o then s.yieldDelta else s
  (s.setGran g { s.gran g with restored := true }).hbmWrite (s.slotAddr g o) b false

/-- A granule of the partner's mirror arrives. -/
def State.partnerData (s : State) (r : Restore) (m : Msg) : State :=
  if m.word.getLsbD 0 ∨ m.step.toNat ≠ r.step then (s.endSlots false).tryStorage
  else match decodeGranule (m.data.take m.value.toNat), s.granules[r.next]? with
    | some b, some g =>
      let s := s.writeRestored g b
      if r.next + 1 < s.granules.length then (s.setRestore { r with next := r.next + 1 }).askPartner
      else s.reportRestore stDone srcPartner
    | _, _ => s.reportRestore stDigestMismatch srcPartner

/-- MIRROR_DATA (R39, R366, R377, R391, R393): the answers come in the order of the reads, each for the repair or the restore that asked. -/
def execMirrorData (m : Msg) (s : State) : Out :=
  s.onMsg m (fun s =>
    if m.coord.toNat ≠ s.partner then s
    else match s.mirror.asked with
    | [] => s
    | asker :: rest =>
      let s := { s with mirror := { s.mirror with asked := rest } }
      match asker with
      | none => s
      | some true => s.repairAnswer (if m.word.getLsbD 0 then none else decodeGranule (m.data.take m.value.toNat))
      | some false => match s.ckpt.restore with
        | none => s
        | some r => if r.phase = 0 ∧ r.source = srcPartner then s.partnerData r m else s)

/-- The link to the partner is lost while a restore reads from it (R393). -/
def State.restoreLinkDown (s : State) (port : Nat) : State :=
  match s.ckpt.restore with
  | none => s
  | some r => if port = s.partnerPort ∧ r.phase = 0 ∧ r.source = srcPartner then s.reportRestore stFault srcPartner else s

/- Storage. -/

/-- The shape of a shard header is the module's own (R393). -/
def State.shardShape (s : State) (h : List Byte) : Bool :=
  decide (bytesAt h 24 3 ++ bytesAt h 7 1 ++ bytesAt h 28 2 ++ [0, 0] ++ bytesAt h 128 64 = s.shapeBytes)

/-- Read the next block of the shard: block b through record b mod T. -/
def State.askBlock (s : State) : State :=
  match s.ckpt.restore with
  | none => s
  | some r =>
    let e := r.index.getD r.next (0, 0)
    s.emit (.storageRead (r.records.getD (r.next % r.records.length) 0) (s.shardAddr r.records r.slot + e.1) e.2)

/-- The header arrives (R391, R393). -/
def State.takeHeader (s : State) (r : Restore) (h : List Byte) : State :=
  if fieldAt h 0 4 ≠ 0x44535854 ∨ fieldAt h 16 8 ≠ r.step then s.reportRestore stRestoreMixed srcNone
  else if !s.shardShape h then s.reportRestore stRestoreShape srcStorage
  else if fieldAt h 48 4 ≠ s.contentBlocks.length then s.reportRestore stDigestMismatch srcStorage
  else (s.setRestore { r with hdr := h, phase := 2 }).emit
    (.storageRead (r.records.headD 0) (s.shardAddr r.records r.slot + fieldAt h 64 8) (16 * s.contentBlocks.length))

/-- The whole content is there: its digest is that of the header, or the restore fails. -/
def State.endBlocks (s : State) (r : Restore) : State :=
  if Config.sha512 (s.restoredContent srcStorage) = BitVec.ofNat 512 (fieldAt r.hdr 256 64) then s.reportRestore stDone srcStorage
  else s.reportRestore stDigestMismatch srcStorage

/-- The index arrives. -/
def State.takeIndex (s : State) (r : Restore) (b : List Byte) : State :=
  let index := (List.range s.contentBlocks.length).map (fun k => (fieldAt b (16 * k) 8, fieldAt b (16 * k + 8) 4))
  let r := { r with index := index, phase := 3, next := 0 }
  let s := s.setRestore r
  if index = [] then s.endBlocks r else s.askBlock

/-- The raw bytes of a stored block: MAGIC, block number and lengths right, and every page decodes (R383, R393). -/
def unstore (num rawLen : Nat) (b : List Byte) : Option (List Byte) :=
  if fieldAt b 0 4 = 0x4B425854 ∧ fieldAt b 4 4 = num ∧ fieldAt b 12 4 = rawLen ∧ 16 + fieldAt b 8 4 ≤ b.length then
    decodePages ((rawLen + 4095) / 4096) ((b.drop 16).take (fieldAt b 8 4))
  else none

/-- A block arrives: a granule is written, a frozen-table block compared. -/
def State.takeBlock (s : State) (r : Restore) (b : List Byte) : State :=
  let blk := s.contentBlocks.getD r.next (0, 2)
  let own := s.blockBytes blk
  match unstore r.next own.length b with
  | none => s.reportRestore stDigestMismatch srcStorage
  | some raw =>
    if blk.2 = 2 ∧ raw ≠ own then s.reportRestore stDigestMismatch srcStorage
    else
      let s := if blk.2 = 2 then s else s.writeRestored blk.1 raw
      let r := { r with next := r.next + 1 }
      let s := s.setRestore r
      if r.next < s.contentBlocks.length then s.askBlock else s.endBlocks r

/-- STORAGE_READ_RESPONSE (R148, R391, R393, R394). -/
def execStorageReadResponse (data : List Byte) (ok : Bool) (s : State) : Out :=
  if !s.hubUp then .next s else
  match s.ckpt.restore with
  | none => .next s
  | some r =>
    if r.phase = 5 then .next (s.decideRestore (some (if ok then data else [])))
    else if r.phase = 6 then .next (s.setRestore { r with phase := 5 })
    else if r.phase = 1 ∨ r.phase = 2 ∨ r.phase = 3 then
      if !ok then .next (s.reportRestore stFault srcStorage)
      else if r.phase = 1 then .next (s.takeHeader r data)
      else if r.phase = 2 then .next (s.takeIndex r data)
      else .next (s.takeBlock r data)
    else .next s

/- Messages and the command. -/

/-- RESTORE_REPORT (R384, R394). -/
def execRestoreReport (m : Msg) (s : State) : Out :=
  s.onMsg m (fun s =>
    if !s.isRoot then s else
    s.restoreReport { coord := m.coord.toNat, step := m.step.toNat, status := bits m.word.toNat 0 8, source := bits m.word.toNat 8 2,
                      shape := bytesAt m.data 0 72, digest := BitVec.ofNat 512 (fieldAt m.data 72 64) })

/-- RESTORE_END (R394, R395). -/
def execRestoreEnd (m : Msg) (s : State) : Out :=
  s.onFlood m 0xF006 (fun s => if m.coord = 0 then s.restoreEnd m.step.toNat m.word.toNat else s)

/-- GATHER_TIMEOUT (R389, R394): of a cut whose reports are not all in, or of a restore. -/
def execGatherTimeout (s : State) : Out :=
  if !s.hubUp || !s.isRoot then .next s
  else if s.ckpt.cutHnd.isSome ∧ (s.o kCutState = cutStreaming ∨ s.o kCutState = cutGathering) then .next (s.failCut 8)
  else match s.ckpt.restore with
    | none => .next s
    | some r => if r.phase = 5 ∨ r.phase = 6 then .next s else .next s.gatherDone

end Sys2Proof.Machine
end

