-- ==== Sys2Proof/Machine/TorusLink.lean ====
section
/-! DEFINITION. The torus link layer (R295-R315, R319): receiving flits, training, negotiation, lane sparing and the loss of a link. -/

namespace Sys2Proof.Machine

/- States (R309). -/
def lsDisabled : Nat := 0
def lsDetect : Nat := 1
def lsEqualize : Nat := 2
def lsAlign : Nat := 3
def lsNegotiate : Nat := 4

/-- Entries of a port: ACTIVE_LANES, SPARE_LANES, RETRAINS, REPLAYED_FLITS, CRC_ERRORS, PROTOCOL_ERRORS, REFUSE_REASON, LANES_RETIRED. -/
def kActiveLanes (p : Nat) : Nat := kLink p 2
def kSpareLanes (p : Nat) : Nat := kLink p 3
def kPeerRecord (p : Nat) : Nat := kLink p 5
def kRetrains (p : Nat) : Nat := kLink p 6
def kReplayed (p : Nat) : Nat := kLink p 7
def kCrcErrors (p : Nat) : Nat := kLink p 8
def kFecCorrected (p : Nat) : Nat := kLink p 9
def kLinkProtocol (p : Nat) : Nat := kLink p 0x0A
def kPortEnable (p : Nat) : Nat := kLink p 0x0C
def kRefuseReason (p : Nat) : Nat := kLink p 0x0D
def kLanesRetired (p : Nat) : Nat := kLink p 0x0E

def State.setLinkState (s : State) (p v : Nat) : State := s.put (kLink p 1) v

/-- An event on a torus port: none while the hub does not run. -/
def State.onLink (s : State) (p : Nat) (f : State → Out) : Out :=
  if 6 ≤ p then .refused .illFormed else if !s.hubUp then .next s else f s

/- Lanes (R298, R313). -/

def laneSpare : Nat := 0xFE
def laneRetired : Nat := 0xFF

/-- Active lanes of a map. -/
def mapWidth (m : List Nat) : Nat := (m.filter (fun b => decide (b < 32))).length

/-- The widest width that a count of good lanes allows; 0 for none. -/
def widthFor (n : Nat) : Nat := if 32 ≤ n then 32 else if 24 ≤ n then 24 else if 16 ≤ n then 16 else 0

/-- The logical lanes of the w lowest-numbered good lanes; other good lanes are spare. -/
def narrowMap (good : List Nat) (w : Nat) : List Nat :=
  (List.range 34).map (fun i => if ¬ good.contains i then laneRetired else if good.idxOf i < w then good.idxOf i else laneSpare)

/-- A map at full width: lanes 0-31 at their own numbers, and the lowest-numbered spares in place of those that are not good. -/
def wideMap (good : List Nat) : List Nat :=
  let lost := (List.range 32).filter (fun i => !good.contains i)
  let spares := [32, 33].filter (fun i => good.contains i)
  (List.range 34).map (fun i =>
    if ¬ good.contains i then laneRetired else if i < 32 then i else lost.getD (spares.idxOf i) laneSpare)

/-- The map of a link-up over its good lanes, in rising order. -/
def freshMap (good : List Nat) : List Nat := if widthFor good.length = 32 then wideMap good else narrowMap good (widthFor good.length)

/-- Lanes that a map does not leave out. -/
def mapGood (m : List Nat) : List Nat := (List.range 34).filter (fun i => decide (m.getD i laneRetired ≠ laneRetired))

/-- The map once a lane is retired (R313): a spare takes its logical lane; else the width degrades to 24, and then to 16. -/
def repairMap (m : List Nat) (x : Nat) : List Nat :=
  let cut := m.set x laneRetired
  let good := mapGood cut
  let w := mapWidth m
  if 32 ≤ m.getD x laneRetired then cut
  else match cut.findIdx? (fun b => decide (b = laneSpare)) with
    | some k => if w = 32 then cut.set k (m.getD x 0) else narrowMap good (min 16 (widthFor good.length))
    | none => narrowMap good (if w = 32 then min 24 (widthFor good.length) else min 16 (widthFor good.length))

/-- The lanes of a map that are spare: the two of R298 at full width. -/
def mapSpares (m : List Nat) : Nat := if mapWidth m = 32 then (m.filter (fun b => decide (b = laneSpare))).length else 0

/-- A map as a LANE_MAP record lists it is one: 34 lanes, and the logical lanes 0 to w − 1 once each. -/
def mapLegal (m : List Nat) : Bool :=
  decide (m.length = 34) && m.all (fun b => decide (b < 32 ∨ b = laneSpare ∨ b = laneRetired)) &&
  decide (mapWidth m = 32 ∨ mapWidth m = 24 ∨ mapWidth m = 16) && (List.range (mapWidth m)).all (fun i => m.contains i)

/-- Adopt a map. -/
def State.setMap (s : State) (p : Nat) (m : List Nat) : State :=
  (s.setLink p { s.link p with map := m, nextMap := [] }).put (kSpareLanes p) (mapSpares m)

/-- Retire a lane (R313): it stays retired until it is proved, for which the spec has no command. -/
def State.retireLane (s : State) (p lane : Nat) : State :=
  let l := s.link p
  if l.retired.contains lane then s else
  let l := { l with retired := insSet lane l.retired }
  ((s.setLink p l).put (kLanesRetired p) l.retired.length).raise 0x0303 p lane

/-- The lane map that a repair starts from: the one that waits for its ACCEPTs, else the one in force. -/
def Link.latestMap (l : Link) : List Nat := if l.nextMap.isEmpty then l.map else l.nextMap

/-- Send the lane map (R313): LANE_MAP and its 34 bytes. -/
def State.sendMap (s : State) (p : Nat) : State := s.controlFlit p (5 :: (s.link p).latestMap.map (BitVec.ofNat 8))

/- Loss of a link (R306, R310, R315). -/

/-- The port on which flits from a coordinate arrive: the last axis of their route (R307). -/
def State.arrivalPort (s : State) (src : Nat) : Option Nat :=
  let c := s.coord
  if coordZ c ≠ coordZ src then some (otherWay (axisPort (coordZ src) (coordZ c) s.dimZ 2))
  else if coordY c ≠ coordY src then some (otherWay (axisPort (coordY src) (coordY c) s.dimY 1))
  else if coordX c ≠ coordX src then some (otherWay (axisPort (coordX src) (coordX c) s.dimX 0))
  else none

/-- The units or the credits of a stream of the image are routed over the link of a port. -/
def State.crosses (s : State) (p : Nat) (d : StreamD) : Bool :=
  let past := fun (e : W32) => decide (epType e = epTorus) && (decide (s.routePort (epCoord e) = some p) || decide (s.arrivalPort (epCoord e) = some p))
  past d.src || past d.dst

/-- The image's streams that cross the link of a port; chain hops between modules are among them (R320). -/
def State.linkStreams (s : State) (p : Nat) : List StreamD := match s.image with
  | none => []
  | some im => im.streams.filter (fun d => s.crosses p d)

/-- Set the books of streams afresh (R226). -/
def State.resetBooks (s : State) (ds : List StreamD) : State :=
  { s with streams := s.streams.map (fun b => match ds.find? (fun d => decide (d.num = b.num)) with
      | none => b
      | some d => s.newBook d.num d) }

/-- The link carries the image's traffic: the module sends a halt wave (R315, R413). -/
def State.linkTraffic (s : State) (p : Nat) : State := if s.linkStreams p = [] then s else s.haltWave 8

/-- Flits that came by a port whose link goes DOWN owe it no credit any more, and flits that wait at that port give back the credits of the
ports they came by. -/
def State.freeQueue (s : State) (p : Nat) : State :=
  let gone := (s.link p).queue.filter (fun e => decide (e.1 < 6 ∧ e.1 ≠ p))
  let s := { s with links := s.links.map (fun (l : Link) => { l with queue := l.queue.map (fun e => if e.1 = p then (6, e.2) else e) }) }
  gone.foldl (fun t e => t.leaveBuffer e.1 (flClass e.2)) s

/-- A link leaves service for a state: retry buffer, books and queue are gone, and the streams that cross it are reset (R306). What the
mirror and a restore do is R360-R366 and R394's. -/
def State.dropLink (s : State) (p dest : Nat) : State :=
  let was := s.linkState p
  let s := s.freeQueue p
  let l := s.link p
  let s := (s.setLink p { Link.empty with retired := l.retired, flap := l.flap }).setLinkState p dest
  let s := (s.put (kActiveLanes p) 0).put (kSpareLanes p) 2
  if was = lsActive ∨ was = lsRetrain then ((s.resetBooks (s.linkStreams p)).mirrorLinkDown p).restoreLinkDown p else s

/-- The link goes DOWN, and at once to DETECT (R310). -/
def State.linkDown (s : State) (p : Nat) : State := (s.dropLink p lsDetect).linkTraffic p

/-- The port becomes FAULTED (R315, R472). -/
def State.linkFaulted (s : State) (p : Nat) : State :=
  let s := s.dropLink p lsFaulted
  (s.raise 0x0302 p (if s.linkStreams p = [] then 0 else 1)).linkTraffic p

/- Link-up (R310-R312). -/

/-- SIGNAL_DETECT (R310): `lanes` has a bit for each of the 34 lanes that carries signal; a retired lane takes no part. -/
def execSignalDetect (port : Nat) (lanes : Nat) (s : State) : Out :=
  s.onLink port (fun s =>
    let seen := (List.range 34).filter (fun i => Nat.testBit lanes i && !(s.link port).retired.contains i)
    if s.linkState port ≠ lsDetect ∨ seen.length < 16 then .next s
    else .next ((s.setLink port { s.link port with detected := seen }).setLinkState port lsEqualize))

/-- EQUALIZATION_COMPLETE (R310): lanes that fail are left out, and the sides exchange lane maps (R309). -/
def execEqualizationComplete (port : Nat) (trained : List Nat) (s : State) : Out :=
  s.onLink port (fun s =>
    if s.linkState port ≠ lsEqualize then .next s else
    let good := (s.link port).detected.filter (fun i => trained.contains i)
    .next ((((s.setLink port { s.link port with detected := good }).setMap port (freshMap good)).setLinkState port lsAlign).sendMap port))

/-- DIMS of a peer record (R311). -/
def State.dimsWord (s : State) : Nat := (s.dimX - 1) * 1024 + (s.dimY - 1) * 32 + (s.dimZ - 1)

/-- The module's own peer record (R311). -/
def State.peerRecordBytes (s : State) (p : Nat) : List Byte :=
  [2, 1, BitVec.ofNat 8 p, BitVec.ofNat 8 (mapWidth (s.link p).map)] ++ leBytes 2 s.coord ++ leBytes 2 s.dimsWord ++ leBytes 4 s.jobId ++
  leBytes 2 64 ++ leBytes 2 512 ++ leBytes 2 2048 ++ leBytes 2 64 ++ identityHash s.grade

/-- ALIGN_COMPLETE (R310). -/
def execAlignComplete (port : Nat) (s : State) : Out :=
  s.onLink port (fun s =>
    if s.linkState port ≠ lsAlign ∨ mapWidth (s.link port).map = 0 then .next s
    else
      let s := s.setLinkState port lsNegotiate
      .next (s.controlFlit port (bytesAt (s.peerRecordBytes port) 0 232)))

/-- RXBUF k of a peer record. -/
def peerRxbuf (rec : List Byte) (k : Nat) : Nat := fieldAt rec (12 + 2 * k) 2

/-- The least B_k of a torus peer (R305). -/
def peerMinimum : List Nat := [16, 128, 512, 16]

/-- The first check of R312 that a peer record fails; 0 for none. -/
def State.refuseReason (s : State) (p : Nat) (rec : List Byte) : Nat :=
  if rec.getD 1 0 ≠ 1 ∨ 2 ^ 15 ≤ fieldAt rec 4 2 ∨ 2 ^ 15 ≤ fieldAt rec 6 2 ∨ (rec.drop 28).any (fun b => decide (b ≠ 0)) then 1
  else if (rec.getD 2 0).toNat ≠ otherWay p then 2
  else if fieldAt rec 6 2 ≠ s.dimsWord then 3
  else if fieldAt rec 4 2 ≠ s.neighbour s.coord p then 4
  else if fieldAt rec 8 4 ≠ s.jobId then 5
  else if (List.range 4).any (fun k => decide (peerRxbuf rec k < peerMinimum.getD k 0)) then 6
  else 0

/-- ACCEPT sent and received: the port is ACTIVE, and its books are set (R305, R310). -/
def State.linkActive (s : State) (p : Nat) : State :=
  let l := s.link p
  if !l.acceptSent || !l.acceptGot then s else
  let s := s.setLink p { l with txSeq := 0, rxSeq := 0, retry := [], nakSent := false, credits := l.peerBuf, rxUse := [0, 0, 0, 0],
                                owed := [0, 0, 0, 0], sinceMark := 0 }
  let s := (s.setLinkState p lsActive).put (kActiveLanes p) (mapWidth l.map)
  (s.mirrorLinkUp p).drainPort p 513

/-- PEER_RECORD (R311, R312): kept, checked, and answered with ACCEPT or REFUSE. -/
def execPeerRecord (port : Nat) (rec : List Byte) (s : State) : Out :=
  s.onLink port (fun s =>
    if rec.length ≠ 232 ∨ rec.getD 0 0 ≠ 2 then .refused .illFormed
    else if s.linkState port ≠ lsNegotiate then .next s else
    let s := s.put (kPeerRecord port) (ofLe rec)
    let r := s.refuseReason port rec
    if r = 0 then
      let s := s.setLink port { s.link port with acceptSent := true, peerBuf := (List.range 4).map (peerRxbuf rec) }
      .next ((s.controlFlit port [3]).linkActive port)
    else
      let s := (s.controlFlit port [4, BitVec.ofNat 8 r]).put (kRefuseReason port) r
      .next ((s.raise 0x0301 port r).linkFaulted port))

/-- TORUS_REFUSE (R310, R472). -/
def execTorusRefuse (port : Nat) (reason : Byte) (s : State) : Out :=
  s.onLink port (fun s =>
    if s.linkState port ≠ lsNegotiate then .next s else .next ((s.raise 0x0301 port reason.toNat).linkFaulted port))

/-- LINK_UP_TIMEOUT (R310, R312). -/
def execLinkUpTimeout (port : Nat) (s : State) : Out :=
  s.onLink port (fun s =>
    if s.linkState port ∈ [lsDetect, lsEqualize, lsAlign, lsNegotiate] then .next ((s.put (kRefuseReason port) 6).linkFaulted port)
    else .next s)

/- Lane repair (R313, R314). -/

/-- Enter RETRAIN, sending the lane map (R310, R313). -/
def State.enterRetrain (s : State) (p : Nat) : State :=
  let s := s.setLink p { s.link p with mapSent := true, acceptSent := false, acceptGot := false }
  let s := if s.linkState p = lsRetrain then s else (s.setLinkState p lsRetrain).bump32 (kRetrains p) 1
  s.sendMap p

/-- Retire a lane and repair the link; with fewer than 16 good lanes it goes DOWN (R313). -/
def State.repairLink (s : State) (p lane : Nat) : State :=
  let m := repairMap (s.link p).latestMap lane
  let s := s.retireLane p lane
  if mapWidth m = 0 then s.linkDown p else (s.setLink p { s.link p with nextMap := m }).enterRetrain p

/-- The flap score of a lane. -/
def Link.score (l : Link) (lane : Nat) : Nat := SMap.get 0 lane l.flap
def kFlapLimit : Nat := 0x700605

/-- TORUS_LANE_FAULT (R313, R314): the link retrains. A lane that has not recovered, or whose flap score reaches FLAP_LIMIT, is retired. -/
def execTorusLaneFault (port : Nat) (lane : Nat) (recovered : Bool) (s : State) : Out :=
  s.onLink port (fun s =>
    if 34 ≤ lane then .refused .illFormed
    else if (s.linkState port ≠ lsActive ∧ s.linkState port ≠ lsRetrain) ∨ (s.link port).map.getD lane laneRetired = laneRetired then .next s
    else
      let n := (s.link port).score lane + 1
      let s := s.setLink port { s.link port with flap := SMap.put 0 lane n (s.link port).flap }
      if !recovered || decide (s.o kFlapLimit ≤ n) then .next (s.repairLink port lane) else .next (s.enterRetrain port))

/-- FLAP_DECAY (R314). -/
def execFlapDecay (port : Nat) (lane : Nat) (s : State) : Out :=
  s.onLink port (fun s =>
    if 34 ≤ lane then .refused .illFormed
    else .next (s.setLink port { s.link port with flap := SMap.put 0 lane ((s.link port).score lane - 1) (s.link port).flap }))

/-- Send again every flit that is held for retry, in order (R303). -/
def State.resend (s : State) (p : Nat) : State :=
  let l := s.link p
  let s := s.bump64 (kReplayed p) l.retry.length
  l.retry.foldl (fun t e => t.putFlit p (e.2.header.toNat + (t.link p).ackFields false) e.2.payload) s

/-- The new map is accepted by both sides, and takes effect: the port is ACTIVE and its retry buffer replays (R306, R313). -/
def State.retrained (s : State) (p : Nat) : State :=
  let l := s.link p
  if !l.acceptSent || !l.acceptGot then s else
  let s := ((s.setMap p l.latestMap).setLinkState p lsActive).put (kActiveLanes p) (mapWidth l.latestMap)
  ((s.resend p).returnOwed p 8).drainPort p 513

/-- TORUS_ACCEPT (R310, R313). -/
def execTorusAccept (port : Nat) (s : State) : Out :=
  s.onLink port (fun s =>
    let t := s.setLink port { s.link port with acceptGot := true }
    if s.linkState port = lsNegotiate then .next (t.linkActive port)
    else if s.linkState port = lsRetrain then .next (t.retrained port)
    else .next s)

/-- Retire the lanes that the peer's map retires. -/
def State.retireMapped (s : State) (p : Nat) (m : List Nat) : State :=
  ((List.range 34).filter (fun i => decide (m.getD i 0 = laneRetired))).foldl (fun t i => t.retireLane p i) s

/-- The peer's map in ACTIVE or RETRAIN (R313): adopted and accepted, unless the module has retired a lane that it uses; then the module
sends its own. -/
def State.peerMap (s : State) (p : Nat) (m : List Nat) : State :=
  let own := (s.link p).retired
  let s := s.retireMapped p m
  if (mapGood m).any (fun i => own.contains i) then
    let was := (s.link p).latestMap
    let m := ((s.link p).retired.filter (fun i => (mapGood was).contains i)).foldl repairMap was
    if mapWidth m = 0 then s.linkDown p else (s.setLink p { s.link p with nextMap := m }).enterRetrain p
  else
    let s := s.setLink p { s.link p with nextMap := m }
    let s := if (s.link p).mapSent ∧ s.linkState p = lsRetrain then s else s.enterRetrain p
    ((s.setLink p { s.link p with acceptSent := true }).controlFlit p [3]).retrained p

/-- LANE_MAP (R309, R313). In ALIGN a lane that the peer leaves out is left out. -/
def execLaneMap (port : Nat) (map : List Byte) (s : State) : Out :=
  s.onLink port (fun s =>
    let m := map.map (fun b => b.toNat)
    if !mapLegal m then .next s
    else if s.linkState port = lsAlign then
      let good := (s.link port).detected.filter (fun i => (mapGood m).contains i)
      .next ((s.setLink port { s.link port with detected := good }).setMap port (freshMap good))
    else if s.linkState port = lsActive ∨ s.linkState port = lsRetrain then .next (s.peerMap port m)
    else .next s)

/-- RETRAIN_TIMEOUT (R310). -/
def execRetrainTimeout (port : Nat) (s : State) : Out :=
  s.onLink port (fun s => if s.linkState port = lsRetrain then .next (s.linkDown port) else .next s)

/-- LOSS_OF_SIGNAL (R310): more than half the lanes, or the peer, is gone. -/
def execLossOfSignal (port : Nat) (lanesLost : Nat) (peerDown : Bool) (s : State) : Out :=
  s.onLink port (fun s =>
    if s.linkState port = lsActive ∧ (peerDown ∨ s.o (kActiveLanes port) < 2 * lanesLost) then .next (s.linkDown port) else .next s)

end Sys2Proof.Machine
end

