-- ==== Sys2Proof/Machine/Resets.lean ====
section
/-! DEFINITION. The reset domains (R408-R412): what a join, a die, the hub and the whole module lose, and how the hub starts (R496). -/

namespace Sys2Proof.Machine

/- Joins (R272, R282, R294). -/

def kExpRate : Nat := 0x730004

/-- The joins of a die. -/
def State.dieJoins (s : State) (d : Nat) : List Nat :=
  s.grade.joins.filter (fun k => decide ((k < 4 ∧ ((bridgeDies k).1 = d ∨ (bridgeDies k).2 = d)) ∨ k = 4 + d ∨ (k = kExpansion ∧ d = 0)))

/-- A join goes DOWN with its retry state: its books and the streams that cross it are reset (R282). A FAULTED or an EMPTY join stays so. -/
def State.joinOff (s : State) (key : Nat) : State :=
  let ds := s.joinStreams key
  let s := s.setJoin key { s.join key with fwd := default, rev := default, wait := [], owed := [], phase := 0, rate := 0 }
  let s := if s.joinState key = jsFaulted ∨ s.joinState key = jsEmpty then s else s.put (kJoin key 1) jsDown
  let s := if key = kExpansion then s.put kExpRate 0 else s
  s.resetBooks ds

/-- A join is UP with its books set (R284): `books` is what the other end buffers. -/
def State.joinOn (s : State) (key rate : Nat) (books : List Nat) : State :=
  let s := s.setJoin key { s.join key with fwd := .fresh books, rev := .fresh joinBuffers, phase := 0, rate := rate }
  let s := s.put (kJoin key 1) jsUp
  if key = kExpansion then s.put kExpRate rate else s

/- Dies (R409-R411). -/

/-- The streams with an endpoint on die d. -/
def State.dieStreams (s : State) (d : Nat) : List StreamD := match s.image with
  | none => []
  | some im => im.streams.filter (fun e =>
      decide ((epType e.src = epCore ∧ lcoreDie (epLcore e.src) = d) ∨ (epType e.dst = epCore ∧ lcoreDie (epLcore e.dst) = d)))

/-- Set the state of a die's stacks, but for a FAILED one. -/
def State.setStacks (s : State) (d v : Nat) : State :=
  [2 * d, 2 * d + 1].foldl (fun t n => if t.o (kStack n 1) = 5 then t else t.put (kStack n 1) v) s

/-- Base store of die d outside the ledger area is zeroed (R409). -/
def State.zeroBase (s : State) (d : Nat) : State :=
  let mine := fun (k : Nat) => decide (k / 2 ^ 31 = d)
  { s with mem := { s.mem with base := s.mem.base.filter (fun e => !mine e.1), basePoison := s.mem.basePoison.filter (fun k => !mine k),
                               cache := s.mem.cache.filter (fun la => decide (la / 2 ^ 29 ≠ d)) } }

/-- Every byte of die d's HBM is lost (R187), with its poison list, what stood before it, and the inbound mirror (R360). -/
def State.loseHbm (s : State) (d : Nat) : State :=
  let s := { s with mem := { s.mem with
    hbm := s.mem.hbm.filter (fun e => decide (hbmDie e.1 ≠ d)), poison := s.mem.poison.filter (fun la => decide (hbmDie (64 * la) ≠ d)),
    wcb := s.mem.wcb.filter (fun e => decide (e.die ≠ d)), overflow := delSet d s.mem.overflow } }
  (s.put (0x820011 + d) 0).dropSource

/-- The narrow window of die d and the requests of its cores are dropped. -/
def State.cancelNarrow (s : State) (d : Nat) : State :=
  { s with mem := { s.mem with
      narrow := s.mem.narrow.filter (fun e => decide (e.die ≠ d)),
      narrowWait := s.mem.narrowWait.filter (fun r => decide (coreDie r.p ≠ d)),
      served := s.mem.served.filter (fun r => decide (coreDie r.1.p ≠ d)) } }

/-- Core p in reset: contexts and stores are cleared; its counters, state and number stay (R408). -/
def State.resetCore (s : State) (p : Nat) : State := (s.setCore p Core.empty).put (kCore p 4) 0

def State.dieCores (s : State) (d : Nat) : List Nat := (List.range s.grade.cores).filter (fun p => decide (coreDie p = d))

/-- A replay that uses spares of die d starts again (R411). -/
def State.restartReplays (s : State) (d : Nat) : State :=
  (s.ledger.queue.filter (fun r => r.running && r.cores.any (fun e => decide (coreDie e.2 = d)))).foldl (fun t r =>
    let t := { t with ledger := { t.ledger with queue := t.ledger.queue.map (fun e =>
      if e = r then r.rewind else e) } }
    (t.dropBooks r).releaseCores (r.cores.map (fun e => e.2))) s

/-- What a die reset does to the steps (R411): not covered, an orderly one is a DIE_RESET; past the limit of reruns it is a TIMEOUT (R402, R413). -/
def State.dieResetSteps (s : State) (orderly : Bool) : State :=
  if s.image.isNone then s
  else if !orderly then ({ s with steps := { s.steps with lost := true } } : State).haltWave 0x0B
  else if s.steps.rollback.isSome ∨ s.mstate ∉ [MState.running, .stopping, .recovering] ∨ ¬ s.hubUp then s
  else if s.passedOut then s.haltWave 0x0A
  else if s.covers then s.rerunLocal.streamReset else s.haltWave 1

/-- The shards of the cuts that have been granted fail with cause RESET (R379, R389). -/
def State.shardReset (s : State) : State :=
  let gone := s.ckpt.cuts
  let s := s.failShards (fun _ => true) 7
  gone.foldl (fun t c => t.shardFailed { t.newShard c.1 c.2.1 c.2.2 with blocks := [] } 7) { s with ckpt := { s.ckpt with cuts := [] } }

/-- The sideband message that tells a neighbour of die d's reset; its argument is d. -/
def sbDieReset : Nat := 4

/-- A join of a key. -/
def joinOf (key : Nat) : Join := if key < 4 then .bridge key else if key < 8 then .hub (key - 4) else .expansion

/-- The hub tells the neighbours of die d of its orderly reset (R292); a join that is UP has nothing left to drain. -/
def State.tellNeighbours (s : State) (d : Nat) : State :=
  ((s.dieJoins d).filter s.joinUp).foldl (fun t k => t.emit (.sideband (joinOf k) sbDieReset d)) s

/-- Streams whose routes have changed get tags on the joins that they now cross. -/
def State.retag (s : State) : State := s.grade.joins.foldl (fun t k => t.setTags (t.join k).tags k) s

/-- Compute die d enters reset (R292, R408-R411). A disorderly event on a die in an orderly reset makes it disorderly. -/
def State.resetDie (s : State) (d : Nat) (orderly clock : Bool) : State :=
  let was := SMap.get 0 d s.power.dieReset
  if was = 2 ∨ (was = 1 ∧ orderly) then s else
  let s := { s with power := { s.power with dieReset := SMap.put 0 d (if orderly then 1 else 2) s.power.dieReset } }
  let s := if was = 0 then s.bump32 (kDie d 3) 1 else s
  let s := if clock then (s.bump32 (kDie d 4) 1).put 0xA20300 (s.o 0xA20300 &&& (0x1F - 2 ^ d)) else s
  let ds := s.dieStreams d ++ (s.dieJoins d).flatMap s.joinStreams
  let s := if orderly then (s.flushWhere (fun e => decide (e.die = d))).tellNeighbours d else s
  let s := (s.shardReset.restartReplays d).dieResetSteps orderly
  let s := (s.dieJoins d).foldl State.joinOff s
  let s := ((s.put (kDie d 1) (if clock then 3 else 2)).resetBooks ds).retag
  let s := ((s.dieCores d).foldl State.resetCore s).cancelNarrow d
  if orderly then (s.zeroBase d).setStacks d 2 else ((s.zeroBase d).loseHbm d).setStacks d 4

/-- The die that a join DOWN makes the module reset, and whether orderly (R410). A die whose joins are gone with it resets no further. -/
def State.joinFault (s : State) (key : Nat) : State :=
  let s := s.joinOff key
  if key < 4 then
    let d := max (bridgeDies key).1 (bridgeDies key).2
    s.resetDie d (decide (s.joinState (4 + d) = jsUp)) false
  else s.resetDie (key - 4) false false

/- Retained entries. -/

/-- Ranges of the dictionary: first and last index, first and last subindex. -/
def inRanges (l : List (Nat × Nat × Nat × Nat)) (key : Nat) : Bool :=
  l.any (fun r => decide (r.1 ≤ key / 256 ∧ key / 256 ≤ r.2.1 ∧ r.2.2.1 ≤ key % 256 ∧ key % 256 ≤ r.2.2.2))

/-- The counters of the dictionary, which no reset but power-up clears (R142, R465). -/
def counterRanges : List (Nat × Nat × Nat × Nat) :=
  [(0x3000, 0x3030, 3, 4), (0x4000, 0x423F, 6, 9), (0x4000, 0x423F, 0x0B, 0x0E), (0x5001, 0x5001, 5, 5),
   (0x5020, 0x5020, 0x40, 0x40), (0x5021, 0x5021, 1, 10), (0x5035, 0x5035, 1, 5), (0x5035, 0x5035, 8, 8), (0x5042, 0x5042, 1, 2),
   (0x5043, 0x5043, 1, 5), (0x5062, 0x5062, 6, 9), (0x5064, 0x5064, 3, 3), (0x6023, 0x6023, 1, 3), (0x6030, 0x6030, 1, 8),
   (0x7000, 0x7005, 6, 10), (0x7000, 0x7005, 0x0E, 0x0F), (0x7100, 0x7103, 0x0C, 0x0F), (0x7100, 0x7103, 0x1C, 0x1F),
   (0x7200, 0x7213, 5, 6), (0x7200, 0x7213, 8, 8), (0x7300, 0x7300, 5, 5), (0x7300, 0x7300, 7, 7), (0x8000, 0x8007, 4, 6),
   (0x8100, 0x8100, 0x31, 0x54), (0x8200, 0x8200, 4, 6), (0x8300, 0x8300, 2, 4), (0x8400, 0x8400, 2, 4), (0x9100, 0x9100, 0x21, 0x22),
   (0xA002, 0xA002, 1, 2), (0xA012, 0xA012, 1, 8), (0xA102, 0xA102, 0, 0), (0xB102, 0xB102, 1, 2), (0xC010, 0xC010, 4, 5)]

/-- The entries kept in flash (R464 and the tables): among them the areas' states, the map's count, what R403 keeps of a core, and the spare
modules that retired ones have left (R283). -/
def flashRanges : List (Nat × Nat × Nat × Nat) :=
  [(0x1021, 0x1021, 1, 3), (0x2021, 0x2021, 0, 0), (0x4000, 0x423F, 0x10, 0x10), (0x5060, 0x5060, 1, 8), (0x5062, 0x5062, 4, 5),
   (0x7006, 0x7006, 1, 3), (0x7100, 0x7103, 2, 2), (0x7200, 0x7203, 3, 3), (0x7100, 0x7103, 4, 0x0B), (0x7100, 0x7103, 0x14, 0x18), (0x7110, 0x7110, 3, 5),
   (0xB000, 0xB000, 2, 7), (0xB010, 0xB010, 1, 24), (0xC020, 0xC020, 1, 0x18), (0xC030, 0xC030, 1, 3)]

/-- NODE_ID: sampled at power-up, kept until input power is lost (R521). -/
def kNodeId : Nat := 0x102000

/-- An entry that a module reset keeps. -/
def keptOverReset (key : Nat) : Bool := inRanges flashRanges key || inRanges counterRanges key || decide (key = kNodeId)

/-- CORE_STATE over a module reset: a FENCED or a RETIRED core stays so; a core of the map is ACTIVE; any other is SPARE (R249-R251, R403).
PRESUMED: the module ships with no core retired by manufacturing repair, which R3 leaves open (log 118). -/
def State.coreStates (s : State) : State :=
  (List.range s.grade.cores).foldl (fun t p =>
    let st := t.coreState p
    let kept := decide (st = csRetired ∨ st = csFenced)
    match t.numberOf p with
    | some l => (t.setCoreState p csActive).put (kCore p 2) l
    | none => (t.setCoreState p (if kept then st else csSpare)).put (kCore p 2) 0xFFFF) s

/- The hub's start (R496). -/

/-- FW_STATE of an area: 1 valid. -/
def State.areaValid (s : State) (x : Nat) : Bool := decide (s.o (0xB00004 + x) = 1)

/-- VERSION of an area. -/
def State.areaVersion (s : State) (x : Nat) : Nat := s.o (0xB00002 + x)

/-- The image that FW_BOOT_SELECT names; with 0xFF the valid one of the higher VERSION, A when equal. -/
def State.bootFirst (s : State) : Nat :=
  let sel := s.o 0xB00006
  if sel ≤ 1 then sel
  else if s.areaValid 0 && s.areaValid 1 then (if s.areaVersion 0 < s.areaVersion 1 then 1 else 0)
  else if s.areaValid 1 then 1 else 0

/-- The hub starts: the image chosen, else the other, else FAULTED with FIRMWARE_REJECTED logged for each (R32, R496). -/
def State.startHub (s : State) (first : Nat) : State :=
  if s.areaValid first then { s with fw := { s.fw with started := first } }
  else if s.areaValid (1 - first) then { s with fw := { s.fw with started := 1 - first, oneStart := none } }
  else
    let s := { s with fw := { s.fw with started := 2, oneStart := none }, power := { s.power with hubReset := 0 } }
    ((s.raise 0x0701 0 0).raise 0x0701 1 0).setM .faulted

/- The hub (R412, R530). -/

/-- A port's link goes DOWN with the hub: a DISABLED port and a FAULTED one stay. -/
def State.hubLink (s : State) (p : Nat) : State :=
  if s.linkState p = lsDisabled ∨ s.linkState p = lsFaulted then s else s.dropLink p lsDetect

/-- Sessions, windows and QPs end without a message; each storage QP enters the error state (R436, R530). -/
def State.dropManagement (s : State) : State :=
  let s := { s with sessions := [], windows := [], pfc := [], opensSec := 0, opensAt := 0, mem := { s.mem with waiting := [] },
                    storage := s.storage.map (fun (q : StorageQp) => if q.state = 0 then q else { q with state := 2 }) }
  let s := (List.range 16).foldl (fun t n => ((t.put (0x910001 + n) 0).put (0xA00101 + n) 2).put (0xA10101 + n) 1) s
  (List.range 4).foldl (fun t p => (t.put (okey (0x7100 + p) 1) 0).put (okey (0x7100 + p) 0x11) 0) (s.put 0x711001 0)

/-- What the hub was doing for a command ends with it; a firmware area being written stays invalid (R497). -/
def State.dropHubWork (s : State) : State :=
  let s := if s.jobs.load.isSome then s.put 0x201001 0 else s
  let s := ({ s.shardReset with ckpt := { s.shardReset.ckpt with waitHnd := none } } : State).failCut 7
  { s with ckpt := { s.ckpt with writes := [], restore := none, restoreReports := [] },
           fw := { s.fw with updateHnd := none, updateImg := none },
           jobs := { s.jobs with load := none, loadResult := none, loadImage := none, repair := [],
                                 reset := s.jobs.reset.filter (fun e => decide (e.2.1 = 1)) } }

/-- The hub enters reset (R412, R530). An orderly reset writes the event buffer first; a watchdog reset loses it (R505). -/
def State.resetHub (s : State) (orderly : Bool) (first : Nat) : State :=
  let s := if orderly then s.flushLog else { s with logBuf := [] }
  let s := { s with power := { s.power with hubReset := 1 } }
  let s := (List.range 6).foldl State.hubLink s
  let s := ((List.range s.grade.dies).map (fun d => 4 + d)).foldl State.joinOff s
  let s := (s.dropManagement.dropHubWork.put 0x304001 2).put kBgDefer 0
  ((s.put kAlertFlags 0).put 0xB03000 0).startHub first

/- The module (R408, R142). -/

/-- What a join keeps over a module reset (R283): its retired modules stay retired until they are proved, and their channels stay moved. -/
def JoinSt.afterReset (j : JoinSt) : JoinSt :=
  let moved := j.chans.filter (fun e => decide (e.2.module ≠ e.1))
  { (default : JoinSt) with
    retired := j.retired, chans := moved.map (fun e => (e.1, { module := e.2.module, width := 64, up := true, times := [] })) }

/-- Everything but flash, the counters and the housekeeping domain is lost; the module waits to start. `kept` says which entries stay. -/
def State.wipe (s : State) (kept : Nat → Bool) : State :=
  let states := (List.range s.grade.cores).filter (fun p => decide (s.coreState p = csFenced ∨ s.coreState p = csRetired))
  let links := s.links.map (fun (l : Link) => { Link.empty with retired := l.retired })
  let t := { s with
    mstate := .off, obj := s.obj.filter (fun e => kept e.1), cores := [], mem := .empty, image := none, streams := [], steps := .empty,
    ledger := .empty, mirror := .empty, ckpt := .empty, sessions := [], windows := [], storage := List.replicate 8 .unused, pfc := [],
    links := links, joins := (s.joins.map (fun e => (e.1, e.2.afterReset))).filter (fun e => decide (e.2 ≠ default)), logBuf := [],
    armed := [], jobs := .empty, opensSec := 0, opensAt := 0, recalAt := [], loadReport := [], attestReport := [], causeLog := [],
    frozenDigests := [], frozenStale := false,
    proving := { s.proving with active := [], due := [], marked := [], remap := [], pass := false },
    fw := { s.fw with activate := none, oneStart := none, updateHnd := none, updateImg := none },
    power := { s.power with dieReset := [], hubReset := 0, vinLow := false } }
  states.foldl (fun t p => t.put (kCore p 1) (s.coreState p)) t

/-- The module starts: rails good, PGOOD high, state BOOT, firmware chosen (R496, R511). -/
def State.bootModule (s : State) : State :=
  let s := { s with mstate := .boot, power := { s.power with railsOn := true, expRails := true, pgood := some true } }
  s.startHub s.bootFirst

/-- A module reset that keeps the rails (R408): a shard fails (R389), the event buffer is written, and the module enters BOOT. -/
def State.moduleReset (s : State) : State := (s.shardReset.flushLog.wipe keptOverReset).bootModule

/-- A failed start (R496): counted, and the next start takes the other image; the third in a row resets the module. -/
def State.failStart (s : State) : State :=
  let s := s.bump32 0xB00007 1
  let n := s.fw.failsRow + 1
  let other := 1 - min 1 s.fw.started
  if 3 ≤ n then { s with fw := { s.fw with failsRow := 0 } }.moduleReset
  else ({ s with logBuf := [], fw := { s.fw with failsRow := n, oneStart := none } } : State).startHub other

end Sys2Proof.Machine
end

