-- ==== Sys2Proof/Machine/Scrub.lean ====
section
/-! DEFINITION. Patrol scrubbing (R199-R201), and the recalibration and retraining of HBM stacks (R186, R487). -/

namespace Sys2Proof.Machine

/- Places. -/

/-- Where a line of HBM lies: a slot of a state granule, the journal, the mirror reserve, or anything else. -/
inductive HbmPlace where
  | slot (g slot : Nat) | journal | reserve (granule slot : Nat) | other
  deriving DecidableEq, Repr

/-- The granule and slot of an address of a STATE region or of the history region (R16, R126). -/
def State.slotAt (s : State) (a : Nat) : Option (Nat × Nat) :=
  let g := match s.regions.find? (fun r => decide (r.kind = rkState ∧ r.addr ≤ a ∧ a < r.addr + 2 * r.sizeMib * mib)) with
    | some r => some (r.addr / mib + (a - r.addr) / mib % r.sizeMib)
    | none =>
      let base := s.historyBase * mib + s.imageArea % mib
      if 0 < s.historyMib ∧ base ≤ a ∧ a < base + 2 * s.historyMib * mib then
        some (s.historyBase + (a - base) / mib % s.historyMib) else none
  match g with
  | none => none
  | some g => if s.slotAddr g 0 / mib ≤ a / mib ∧ a < s.slotAddr g 0 + mib then some (g, 0) else some (g, 1)

def State.hbmPlace (s : State) (a : Nat) : HbmPlace :=
  let die := hbmDie a
  let l := hbmLocal a
  let base := s.ledgerBase die
  if base + s.o (0x502011 + die) * mib ≤ l then .journal
  else if base ≤ l then .other
  else if base ≤ l + s.mirrorShare * mib then
    let j := die * s.mirrorShare + (l + s.mirrorShare * mib - base) / mib
    .reserve (j / 2) (j % 2)
  else match s.slotAt a with
    | none => .other
    | some (g, k) => .slot g k

/- Outcomes of a hit (R199). -/

/-- Poison one unit that the journal holds; which one a line keeps is the ledger's own record, so it is left free. -/
def State.poisonJournal (s : State) : State :=
  let d := s.draw
  let n := s.ledger.units.foldl (fun k u => k + u.2.2.length) 0
  if n = 0 then d.2 else
  let i := d.1.toNat % n
  let us := (s.ledger.units.foldl (fun (a : Nat × List (Nat × Nat × List SUnit)) u =>
    (a.1 + u.2.2.length, a.2 ++ [(u.1, u.2.1, (u.2.2.zipIdx a.1).map (fun e => if e.2 = i then (e.1.1, true) else e.1))])) (0, [])).2
  { d.2 with ledger := { d.2.ledger with units := us } }

/-- A hit in a slot of a granule: the fixed slot falls under R39, an unfixed step's slot makes that step suspect, a pinned slot that was
freed fails its shard (R377). -/
def State.slotHit (s : State) (la g k : Nat) : State :=
  let r := s.gran g
  if k = r.fixedSlot then s.parityFixed g
  else
    let s := s.poisonLine la
    let s := (s.failShards (fun h => h.blocks.contains (g, k)) 5).settleHeld
    match r.writer with
    | none => s
    | some n => s.mark n r.segs .scrub

/-- A hit in the mirror reserve (R365). -/
def State.reserveHit (s : State) (g k : Nat) : State :=
  if s.inSlotOf g = some k then s.invalidGranule g
  else match s.mirror.inPartial with
    | none => s
    | some d => if d.got.contains g then { s with mirror := { s.mirror with inPartial := some { d with good := false } } } else s

/-- What a scrub hit on a line of HBM brings about. -/
def State.hbmScrubHit (s : State) (la : Nat) : State :=
  match s.hbmPlace (64 * la) with
  | .slot g k => s.slotHit la g k
  | .journal => s.poisonJournal
  | .reserve g k => s.reserveHit g k
  | .other => s.poisonLine la

/-- A line with a repeated hit is queued for repair (R200): counted once, as one row. -/
def State.repeatHit (s : State) (stack la : Nat) : State :=
  let n := SMap.get 0 la s.mem.scrubHits
  let s := { s with mem := { s.mem with scrubHits := SMap.put 0 la (min 2 (n + 1)) s.mem.scrubHits } }
  if n = 1 then s.put (kStack stack 7) (min 65535 (s.o (kStack stack 7) + 1)) else s

/- The passes (R200). `scrubAt` counts the lines read of each memory: stacks 0-7, base stores 8 + d, core stores 16 + p. -/

def State.scrubbed (s : State) (key : Nat) : Nat := SMap.get 0 key s.mem.scrubAt
def State.scrubNext (s : State) (key : Nat) : State :=
  { s with mem := { s.mem with scrubAt := SMap.put 0 key (s.scrubbed key + 1) s.mem.scrubAt } }

/-- Lines of a stack, of a base store and of a core store. -/
def stackLines : Nat := 750000000
def baseLines : Nat := 2 ^ 31 / 256
def coreLines : Nat := 2621440 / 256

/-- The module line of the i-th line of a stack (R184); alone on its die a stack holds its whole local space (R420). -/
def State.stackLine (s : State) (n i : Nat) : Nat :=
  hbmAddr (n / 2) 0 / 64 + (if s.oneStack (n / 2) then i else i / 64 * 128 + 64 * (n % 2) + i % 64)

/-- Completed passes over all stacks in use: those of the grade that have not FAILED (R420). -/
def State.hbmPasses (s : State) : Nat :=
  match ((List.range s.grade.stacks).filter (fun n => decide (s.o (kStack n 1) ≠ stackFailed))).map (fun n => s.scrubbed n / stackLines) with
  | [] => 0
  | m :: t => t.foldl min m

/-- Scrub one line of a stack. -/
def State.scrubHbm (s : State) (n : Nat) (hit : Bool) : State :=
  let la := s.stackLine n (s.scrubbed n % stackLines)
  let before := s.hbmPasses
  let s := s.scrubNext n
  let s := s.bump32 0x820004 (s.hbmPasses - before)
  let s := if hit then s.bump64 (kStack n 4) 1 else s
  if hit || s.hbmLineHit la then ((((s.bump64 0x820006 1).repeatHit n la).hbmScrubHit la)).poisonFull else s

/-- A unit of a 256 B line of an SRAM, which the hit leaves free. -/
def State.freeUnit (s : State) (a : Nat) : Nat × State :=
  let d := s.draw
  (a + 64 * (d.1.toNat % 4), d.2)

/-- Bytes of the partitions of a die, both copies. -/
def State.partitionBytes (s : State) (die : Nat) : Nat := 2 * s.o (0x810001 + die) * mib

/-- A hit in the base store of a die. -/
def State.baseScrubHit (s : State) (die a : Nat) : State :=
  if 0x70000000 ≤ a then s.haltWave 5
  else if s.partitionBytes die ≤ a then
    let d := s.draw
    let mine := s.mem.cache.filter (fun l => decide (l / 2 ^ 29 = die))
    if mine = [] then d.2 else
    ({ d.2 with mem := { d.2.mem with cache := delSet (mine.getD (d.1.toNat % mine.length) 0) d.2.mem.cache } }).bump64 (0x810051 + die) 1
  else
    let u := s.freeUnit a
    { u.2 with mem := { u.2.mem with basePoison := poisonWrite u.2.mem.basePoison (baseKey die u.1) 64 true } }

def State.scrubBase (s : State) (die : Nat) (hit : Bool) : State :=
  let a := s.scrubbed (8 + die) % baseLines * 256
  let s := s.scrubNext (8 + die)
  if hit then (s.bump64 0x820005 1).baseScrubHit die a
  else if s.baseHit (baseKey die a) 256 then s.bump64 0x820005 1 else s

def State.scrubCore (s : State) (p : Nat) (hit : Bool) : State :=
  let a := s.scrubbed (16 + p) % coreLines * 256
  let s := s.scrubNext (16 + p)
  let known := (s.core p).csPoison.any (fun k => decide (a ≤ k ∧ k < a + 256))
  let s := if hit || known then s.bump64 0x820005 1 else s
  if hit then
    let u := s.freeUnit a
    let c := u.2.core p
    u.2.setCore p { c with csPoison := poisonWrite c.csPoison u.1 64 true }
  else s

/-- Background work runs: the module has power and is out of reset. -/
def State.live (s : State) : Bool := decide (s.mstate ≠ .off) && !s.power.rstAsserted

/-- PATROL_SCRUB_READ (R200, R488): the next line of a memory; none while its deferral bit is set or its stack is not in service. -/
def execPatrolScrubRead (m : ScrubMem) (hit : Bool) (s : State) : Out :=
  match m with
  | .hbm n =>
    if s.grade.stacks ≤ n then .refused .illFormed
    else if s.live && !s.obit kBgDefer 0 && decide (s.o (kStack n 1) = 0) then .next (s.scrubHbm n hit) else .next s
  | .baseStore d =>
    if s.grade.dies ≤ d then .refused .illFormed
    else if s.live && !s.obit kBgDefer 1 && s.dieUp d then .next (s.scrubBase d hit) else .next s
  | .coreStore p =>
    if s.grade.cores ≤ p then .refused .illFormed
    else if s.live && !s.obit kBgDefer 2 && s.dieUp (coreDie p) then .next (s.scrubCore p hit) else .next s

/- Recalibration (R486-R488). -/

def kHbmTemp (n : Nat) : Nat := 0xA20111 + n

/-- The sensed temperature of a stack, m°C, and how far it is from that of its last recalibration. -/
def State.hbmTemp (s : State) (n : Nat) : Int := signed 32 (s.o (kHbmTemp n))
def State.tempMoved (s : State) (n : Nat) : Bool := decide (5000 ≤ (s.hbmTemp n - SMap.get 0 n s.recalAt).natAbs)

/-- HBM_RECALIBRATION: a READY stack is held as though it retrained; bit 7 defers it unless its temperature moved by 5 K, and the two stacks
of a die are never held together. -/
def execHbmRecalibration (n : Nat) (s : State) : Out :=
  if s.grade.stacks ≤ n then .refused .illFormed
  else if s.live && decide (s.o (kStack n 1) = 0) && decide (s.o (kStack (n / 2 * 2 + (1 - n % 2)) 1) ≠ 1) &&
      (!s.obit kBgDefer 7 || s.tempMoved n) then
    .next { s.put (kStack n 1) 1 with recalAt := SMap.put 0 n (s.hbmTemp n) s.recalAt }
  else .next s

/-- HBM_RETRAIN_COMPLETE (R186): the stack resumes service, and the entries that filled meanwhile are flushed (R189). -/
def execHbmRetrainComplete (n : Nat) (s : State) : Out :=
  if s.grade.stacks ≤ n then .refused .illFormed
  else if s.o (kStack n 1) = 1 then
    .next ((List.range 64).foldl (fun t k => t.flushDue (n / 2) (64 * (n % 2) + k) (fun e => decide (e.mask = BitVec.allOnes 64)))
      (s.put (kStack n 1) 0)).poisonFull
  else .next s

end Sys2Proof.Machine
end

