-- ==== Sys2Proof/Machine/Joins.lean ====
section
/-! DEFINITION. The die-to-die joins (R272-R293): frames and credits, lane repair, negotiation, and the expansion site. -/

namespace Sys2Proof.Machine

/-- A join of the grade (R272). -/
def State.hasJoin (s : State) (j : Join) : Bool :=
  (match j with
   | .bridge n => decide (n < 4)
   | .hub d => decide (d < 4)
   | .expansion => true) && s.grade.joins.contains (joinKey j)

/-- An event on a join: the grade has it, or the command is ill-formed; nothing happens without power or in reset. -/
def State.onJoin (s : State) (j : Join) (f : Nat → State → Out) : Out :=
  if !s.hasJoin j then .refused .illFormed else if !s.live then .next s else f (joinKey j) s

/- Capability records (R285, R287). -/

/-- CAPS of a compute die of the grade, and of the hub. -/
def Grade.caps (g : Grade) : Nat := if g.fp64 then 0x3F else 0x3D
def hubCaps : Nat := 0x21

/-- A capability record as one little-endian number. -/
def capabilityRecord (kind end_ gen caps : Nat) : Nat :=
  kind + (Config.makerFields end_).toNat * 2 ^ 16 + gen * 2 ^ 64 + 2 ^ 72 + caps * 2 ^ 96 + 64 * 2 ^ 128 + 128 * 2 ^ 144 + 1024 * 2 ^ 160 +
    32 * 2 ^ 176

def Grade.dieRecord (g : Grade) (d : Nat) : Nat := capabilityRecord 1 d 1 g.caps
def hubRecord : Nat := capabilityRecord 2 4 0 hubCaps

/-- WORKING_CAPS: what every present die reports (R287). -/
def State.workingCaps (s : State) : Nat :=
  (List.range s.grade.dies).foldl (fun c d => c &&& bits (s.o (kDie d 2)) 96 32) 0xFFFFFFFF

/-- Fields of a record. -/
def recKind (r : BitVec 256) : Nat := bits r.toNat 0 16
def recVersion (r : BitVec 256) : Nat := bits r.toNat 72 8
def recEndpoints (r : BitVec 256) : Nat := bits r.toNat 80 16
def recStreams (r : BitVec 256) : Bool := r.getLsbD 96
def recBuffer (r : BitVec 256) (k : Nat) : Nat := bits r.toNat (128 + 16 * k) 16

/-- The least buffers that the other end declares (R280). -/
def leastBuffers (key : Nat) : List Nat := if key = kExpansion then [16, 0, 64, 0] else joinBuffers

/-- The first reason of R286 that a record meets; 0 for none. -/
def refusal (key : Nat) (r : BitVec 256) : Nat :=
  if recVersion r ≠ 1 then 1
  else if !recStreams r ∨ recKind r ≠ (if key = kExpansion then 0x10 else 1) then 2
  else if (List.range 4).any (fun k => decide (recBuffer r k < (leastBuffers key).getD k 0)) then 3
  else if key = kExpansion ∧ (recEndpoints r = 0 ∨ 256 < recEndpoints r) then 4
  else 0

/- The expansion site. -/

def kExpProtocol : Nat := 0x730005
def kExpRefuse : Nat := 0x730006

/-- The vats with streams to or from the expansion site take their running step as a covered timeout (R291, R399). -/
def State.expansionSteps (s : State) : State :=
  if s.image.isNone ∨ ¬ s.hasExpansionStreams ∨ s.steps.rollback.isSome ∨ s.mstate ∉ [MState.running, .stopping, .recovering] ∨
      ¬ s.hubUp then s
  else if s.covers then s.rerunLocal else s.haltWave 1

/-- The expansion link is lost (R292). -/
def State.expansionLost (s : State) : State := (s.joinOff kExpansion).expansionSteps

/-- The expansion join becomes FAULTED (R291, R292, R472). -/
def State.expansionFaulted (s : State) (reason : Nat) : State :=
  let s := ((s.joinOff kExpansion).put (kJoin kExpansion 1) jsFaulted).raise 0x0305 reason 0
  if s.image.isSome then s.haltWave 9 else s

/-- The partner broke a rule of frames (R291): the second time before the step of the first is FIXED, the join is FAULTED. -/
def State.violation (s : State) : State :=
  let s := s.bump32 kExpProtocol 1
  let again := match (s.join kExpansion).violated with
    | none => false
    | some n => decide (s.lastFixed < n)
  if again then s.expansionFaulted 0
  else (s.setJoin kExpansion { s.join kExpansion with violated := some s.firstUnfixed }).expansionLost

/-- A join is lost: a die fault, or the loss of the expansion link. -/
def State.joinLost (s : State) (key : Nat) : State := if key = kExpansion then s.expansionLost else s.joinFault key

/-- A bad frame (R276, R291). -/
def State.badFrame (s : State) (key : Nat) : State :=
  if key = kExpansion then s.violation else (s.bump32 (kJoin key 8) 1).joinFault key

/- Frames (R275, R276, R280). -/

def frType (h : W64) : Nat := bits h.toNat 62 2
def frPoison (h : W64) : Bool := h.getLsbD 59
def frTag (h : W64) : Nat := bits h.toNat 32 16
def frCreditTag (h : W64) : Nat := bits h.toNat 16 16
def frCreditCount (h : W64) : Nat := bits h.toNat 8 8

/-- The stream of a tag of a join (R276). -/
def State.tagged (s : State) (key tag : Nat) : Option StreamD :=
  if tag = 0 then none else match (s.join key).tags[tag - 1]? with
    | none => none
    | some n => s.streamD? n

/-- A tag of the module's own hub, ledger and class-0 traffic, which no partner carries (R276). -/
def ownTag (key tag : Nat) : Bool := decide (key ≠ kExpansion ∧ 0xE000 ≤ tag ∧ tag ≤ 0xEFFF)

/-- A tag is assigned: to a stream of the image, or to the module's own traffic. -/
def State.tagOk (s : State) (key tag : Nat) : Bool := (s.tagged key tag).isSome || ownTag key tag

/-- The credit fields are well-formed, and their tag is assigned. -/
def State.creditOk (s : State) (key : Nat) (h : W64) : Bool :=
  if frCreditTag h = 0 then decide (frCreditCount h = 0)
  else decide (frCreditCount h ≠ 0) &&
    (s.tagOk key (frCreditTag h) || decide (0xFFF0 ≤ frCreditTag h ∧ frCreditTag h ≤ 0xFFF3))

/-- A frame breaks R275 or R276. -/
def State.frameBroken (s : State) (key : Nat) (unit : Bool) (h : W64) : Bool :=
  decide (1 < frType h) || decide (bits h.toNat 48 11 ≠ 0) || decide (bits h.toNat 0 8 ≠ 0) || !s.creditOk key h ||
  (if unit then !s.tagOk key (frTag h) else decide (frClass h ≠ 0) || frPoison h || decide (frTag h ≠ 0) || decide (frCreditTag h = 0))

/-- Join credits of class k come back. The partner returns them for what it was sent, never more; within the package they were on their way
(K), in the direction that the frame is answering, or where it does not say, in either (DESIGN CHOICE, log 112). -/
def State.joinReturn (s : State) (key k n : Nat) (dirs : List Bool) : Option State :=
  if key = kExpansion then
    let b := (s.join key).fwd
    if n ≤ b.sent.getD k 0 then some (s.onBook (key, false) (fun b => { b with sent := classSub b.sent k n })) else none
  else some (dirs.foldl (fun (t : State × Nat) r =>
    let m := min t.2 (((t.1.join key).book r).back.getD k 0)
    (t.1.onBook (key, r) (fun b => { b with back := classSub b.back k m }), t.2 - m)) (s, n)).1

/-- Stream credits come back (R225): the partner may return no more than it holds (R290). -/
def State.streamReturn (s : State) (key : Nat) (d : StreamD) (n : Nat) : Option State :=
  match s.book? d.num with
  | none => some s
  | some b =>
    if key = kExpansion then
      if epType d.dst = epExpansion ∧ b.credits + b.returning + n ≤ s.bookCredits d then some (s.setBook { b with returning := b.returning + n })
      else none
    else
      let m := min n b.returning
      some (s.setBook { b with returning := b.returning - m, credits := b.credits + m })

/-- Take the credit return of a frame, for frames of the given directions; none is a violation. -/
def State.takeFrameCredits (s : State) (key : Nat) (dirs : List Bool) (h : W64) : Option State :=
  if frCreditTag h = 0 then some s
  else if 0xFFF0 ≤ frCreditTag h then s.joinReturn key (frCreditTag h - 0xFFF0) (frCreditCount h) dirs
  else match s.tagged key (frCreditTag h) with
    | none => some s
    | some d => s.streamReturn key d (frCreditCount h)

/-- The direction in which a stream crosses a join. -/
def State.hopOf (s : State) (key : Nat) (d : StreamD) : Option Bool := ((s.streamHops d).find? (fun h => decide (h.1 = key))).map (fun h => h.2)

/-- The directions whose credits a unit frame of a tag can return: those of the frames that cross the other way. -/
def State.unitDirs (s : State) (key tag : Nat) : List Bool := match (s.tagged key tag).bind (s.hopOf key) with
  | none => [false, true]
  | some r => [!r]

/-- Take a unit: within the package it enters the receive buffer (H); from the partner it goes to its stream, for a stream credit, and
its join credit goes back. None is a violation. -/
def State.takeUnitFrame (s : State) (key : Nat) (h : W64) (unit : Line) : Option State :=
  let k := frClass h
  match s.tagged key (frTag h) with
  | none => if key = kExpansion then none else some s
  | some d =>
    if key ≠ kExpansion then match s.hopOf key d with
      | none => some s
      | some r =>
        let there := decide (((s.join key).book r).held.getD k 0 < s.framesOn (key, r) k)
        some (if there then s.onBook (key, r) (fun b => { b with held := classAdd b.held k 1 }) else s)
    else match s.book? d.num with
      | none => some s
      | some b =>
        if epType d.src ≠ epExpansion ∨ d.cls ≠ k ∨ b.credits = 0 then none
        else some ((s.setBook { b with credits := b.credits - 1, flying := b.flying ++ [(unit, frPoison h)] }).sendCredits (0xFFF0 + k) 1)

/-- D2D_UNIT_FRAME (R275, R276, R280, R291). -/
def execD2dUnitFrame (j : Join) (header : W64) (unit : Line) (s : State) : Out :=
  s.onJoin j (fun key s =>
    if frType header = 1 then .refused .illFormed
    else if s.joinState key ≠ jsUp then .next s
    else if s.frameBroken key true header then .next (s.badFrame key)
    else match (s.takeFrameCredits key (s.unitDirs key (frTag header)) header).bind (fun t => t.takeUnitFrame key header unit) with
      | none => .next (s.badFrame key)
      | some t => .next t)

/-- D2D_CREDIT_FRAME (R275, R276, R280). -/
def execD2dCreditFrame (j : Join) (header : W64) (s : State) : Out :=
  s.onJoin j (fun key s =>
    if frType header = 0 then .refused .illFormed
    else if s.joinState key ≠ jsUp then .next s
    else if s.frameBroken key false header then .next (s.badFrame key)
    else match s.takeFrameCredits key [false, true] header with
      | none => .next (s.badFrame key)
      | some t => .next t)

/- Lane faults of channels (R283). -/

def State.setChan (s : State) (key r : Nat) (c : Chan) : State :=
  s.setJoin key { s.join key with chans := SMap.put (freshChan r) r c (s.join key).chans }

/-- Write an entry that bridge and hub joins have and the expansion join has not. -/
def State.putJoin (s : State) (key sub v : Nat) : State := if key = kExpansion then s else s.put (kJoin key sub) v

/-- A retrain of a join begins (R281): frames for the partner wait, and RATE_GTS reads 0 (R294). -/
def State.retrainJoin (s : State) (key : Nat) : State :=
  let s := s.put (kJoin key 1) jsTraining
  if key = kExpansion then s.put kExpRate 0 else s.bump32 (kJoin key 5) 1

/-- A channel goes down (R283, R472). -/
def State.channelDown (s : State) (key r : Nat) : State :=
  let c := s.chan key r
  let s := (s.setChan key r { c with up := false }).raise 0x0304 (kJoin key 0 / 256) r
  let s := (s.putJoin key 2 (s.o (kJoin key 2) - 1)).putJoin key 4 (s.o (kJoin key 4) - 1)
  if (List.range (joinChannels key)).any (fun i => (s.chan key i).up) then s.retrainJoin key else s.joinLost key

/-- The lowest-numbered spare module of a bridge join (R273, R283); none is left on one whose spares are spent. -/
def State.spareModule (s : State) (key : Nat) : Option Nat :=
  if 4 ≤ key then none else
  [12, 13, 14, 15].find? (fun m => !(s.join key).retired.contains m && !(s.join key).chans.any (fun e => decide (e.2.module = m)))

/-- The repair of a channel's lane fault, in the order of R283; three retrains within 1 s are a repair that failed. DESIGN CHOICE:
the count starts again with a spare module or at x32, and the retrain that the move costs is not in it (log 111). -/
def State.repairChannel (s : State) (key r : Nat) (laneOk : Bool) : State :=
  let c := s.chan key r
  let times := c.times.filter (fun t => decide (s.uptimeMs < t + 1000)) ++ [s.uptimeMs]
  if laneOk ∧ times.length < 3 then (s.setChan key r { c with times := times }).retrainJoin key
  else match (if c.width = 64 then s.spareModule key else none) with
  | some m =>
    let s := s.setChan key r { c with module := m, times := [] }
    let s := s.setJoin key { s.join key with retired := insSet c.module (s.join key).retired }
    (s.put (kJoin key 3) (s.o (kJoin key 3) - 1)).retrainJoin key
  | none =>
  if c.width = 64 then
    ((s.setChan key r { c with width := 32, times := [] }).putJoin key 4 (s.o (kJoin key 4) + 1)).retrainJoin key
  else s.channelDown key r

/-- A join is in service: UP, or in a retrain. -/
def State.inService (s : State) (key : Nat) : Bool :=
  decide (s.joinState key = jsUp ∨ (s.joinState key = jsTraining ∧ (s.join key).phase = 0))

/-- D2D_LANE_FAULT (R283). -/
def execD2dLaneFault (j : Join) (chan : Nat) (laneRepairable : Bool) (s : State) : Out :=
  s.onJoin j (fun key s =>
    if joinChannels key ≤ chan then .refused .illFormed
    else if !s.inService key || !(s.chan key chan).up then .next s
    else .next (s.repairChannel key chan laneRepairable))

/-- D2D_RETRAIN_COMPLETE (R281): the retry buffers replay; a retrain that fails takes the join DOWN (R282). -/
def execD2dRetrainComplete (j : Join) (ok : Bool) (s : State) : Out :=
  s.onJoin j (fun key s =>
    if s.joinState key ≠ jsTraining ∨ (s.join key).phase ≠ 0 then .next s
    else if ok then
      let s := s.put (kJoin key 1) jsUp
      .next (if key = kExpansion then (s.put kExpRate (s.join key).rate).sendFrames else s.bump64 (kJoin key 6) 1)
    else .next (s.joinLost key))

/-- D2D_LINK_LOSS (R292). -/
def execD2dLinkLoss (j : Join) (s : State) : Out :=
  s.onJoin j (fun key s => if s.inService key then .next (s.joinLost key) else .next s)

/- Negotiation (R284-R288). -/

/-- Numbers of the module's sideband messages: a piece of its capability record, ACCEPT, REFUSE; 4 tells of a die's reset, 5 is
STREAM_RESET. DESIGN CHOICE: R284 numbers steps, not messages (log 84). -/
def sbRecord : Nat := 1
def sbAccept : Nat := 2
def sbRefuse : Nat := 3

/-- A rate that the join may train to (R274). -/
def rateOk (key rate : Nat) : Bool := if key = kExpansion then [4, 8, 12, 16, 24, 32].contains rate else decide (rate = 32)

/-- The dies at the ends of a join. -/
def joinDies (key : Nat) : List Nat :=
  if key < 4 then [(bridgeDies key).1, (bridgeDies key).2] else if key < 8 then [key - 4] else [0]

/-- A join may train: it is DOWN (an EMPTY site being populated), was not refused, and its ends have power and clock. -/
def State.mayTrain (s : State) (key : Nat) : Bool :=
  decide (s.joinState key = jsDown ∨ s.joinState key = jsEmpty) && !(s.join key).refused &&
  (if key = kExpansion then s.power.expRails else decide (key < 4) || decide (s.power.hubReset = 0))

/-- The record of the module's end of a join (R284): the first die's, the hub's on a hub join, die 0's at the site. -/
def State.ownRecord (s : State) (key : Nat) : Nat :=
  if key < 4 then s.o (kDie (bridgeDies key).1 2) else if key < 8 then s.o 0x304002 else s.o (kDie 0 2)

/-- A record on the sideband: messages of 8 B each. -/
def State.sendRecord (s : State) (j : Join) (rec : Nat) : State :=
  (List.range 4).foldl (fun t i => t.emit (.sideband j sbRecord (bits rec (64 * i) 64))) s

/-- A join has trained, and the module end sends its record (R284). -/
def State.trained (s : State) (j : Join) (rate : Nat) : State :=
  let key := joinKey j
  let s := s.setJoin key { s.join key with phase := 1, rate := rate, endpoints := [] }
  let s := (joinDies key).foldl (fun (t : State) d => if SMap.has d t.power.dieReset then t.put (kDie d 1) 1 else t) s
  (s.put (kJoin key 1) jsTraining).sendRecord j (s.ownRecord key)

/-- D2D_LINK_UP (R284). -/
def execD2dLinkUp (j : Join) (rateGts : Nat) (s : State) : Out :=
  s.onJoin j (fun key s =>
    if !rateOk key rateGts then .refused .illFormed else if !s.mayTrain key then .next s else .next (s.trained j rateGts))

/-- The module end sends REFUSE (R286): the join stays DOWN until the next module reset. -/
def State.refuseJoin (s : State) (j : Join) (reason : Nat) : State :=
  let key := joinKey j
  let s := (s.setJoin key { s.join key with refused := true, phase := 0 }).emit (.sideband j sbRefuse reason)
  if key = kExpansion then (s.joinOff key).put kExpRefuse reason else s.joinFault key

/-- The module end sends ACCEPT (R284): books set, and STREAM_RESET to an expansion partner (R290, R292). -/
def State.acceptJoin (s : State) (j : Join) : State :=
  let key := joinKey j
  let r := (s.join key).record
  let books := if key = kExpansion then [recBuffer r 0, 0, recBuffer r 2, 0] else joinBuffers
  let s := (s.joinOn key (s.join key).rate books).emit (.sideband j sbAccept 0)
  let s := s.put 0x200200 s.workingCaps
  if key = kExpansion ∧ s.image.isSome then s.streamReset else s

/-- The other end's record arrives (R285, R286): kept, and refused or accepted, the partner's after its endpoint records. -/
def State.takeRecord (s : State) (j : Join) (rec : BitVec 256) : State :=
  let key := joinKey j
  let s := if key = kExpansion then s.setJoin key { s.join key with record := rec } else s.put (kDie ((joinDies key).getLastD 0) 2) rec.toNat
  let r := refusal key rec
  if r ≠ 0 then s.refuseJoin j r
  else if key = kExpansion then s.setJoin key { s.join key with phase := 2 }
  else s.acceptJoin j

/-- CAPABILITY_RECORD (R285-R287). -/
def execCapabilityRecord (j : Join) (rec : BitVec 256) (s : State) : Out :=
  s.onJoin j (fun key s => if (s.join key).phase ≠ 1 then .next s else .next (s.takeRecord j rec))

/-- An endpoint record is well-formed and follows the one before it (R288). -/
def endpointOk (last : Option (BitVec 128)) (r : BitVec 128) : Bool :=
  let v := r.toNat
  let cls := bits v 13 2
  decide (cls = 0 ∨ cls = 2) && decide (bits v 8 5 = 0) && decide (bits v 24 8 = 0) &&
  (if bits v 15 1 = 1 then decide (4 ≤ bits v 16 8) else decide (bits v 16 8 = 0)) &&
  (match last with
   | none => true
   | some p => decide (bits p.toNat 0 8 < bits v 0 8))

/-- ENDPOINT_RECORD (R284, R288). -/
def execEndpointRecord (rec : BitVec 128) (s : State) : Out :=
  s.onJoin .expansion (fun key s =>
    let q := s.join key
    if q.phase ≠ 2 then .next s
    else if !endpointOk q.endpoints.getLast? rec then .next (s.refuseJoin .expansion 4)
    else
      let s := s.setJoin key { q with endpoints := q.endpoints ++ [rec] }
      if q.endpoints.length + 1 = recEndpoints q.record then .next (s.acceptJoin .expansion) else .next s)

/-- NEGOTIATION_TIMEOUT (R284, R286). -/
def execNegotiationTimeout (j : Join) (s : State) : Out :=
  s.onJoin j (fun key s => if (s.join key).phase = 0 then .next s else .next (s.refuseJoin j 5))

/-- EXPANSION_DOWN_TIMEOUT (R292): FAULTED, reporting the reason of a refusal. -/
def execExpansionDownTimeout (s : State) : Out :=
  s.onJoin .expansion (fun key s =>
    if s.joinState key = jsDown ∨ (s.joinState key = jsTraining ∧ (s.join key).phase ≠ 0) then .next (s.expansionFaulted (s.o kExpRefuse))
    else .next s)

/-- EXPANSION_RAIL_OVERCURRENT (R508): both rails go off until the next module reset, and the link is lost. -/
def execExpansionRailOvercurrent (s : State) : Out :=
  s.onJoin .expansion (fun key s =>
    let t := { s with power := { s.power with expRails := false } }
    if s.joinState key = jsUp ∨ s.joinState key = jsTraining then .next t.expansionLost else .next t)

end Sys2Proof.Machine
end

