-- ==== Sys2Proof/Machine/Hub.lean ====
section
/-! DEFINITION. Events of the dies and the hub (R292, R408-R412, R496-R498, R420, R503, R475): what happens, by row, when each resets,
returns, or ends a job of its own. -/

namespace Sys2Proof.Machine

/- Dies. -/

/-- An event of die d. -/
def State.onDie (s : State) (d : Nat) (f : State → Out) : Out :=
  if s.grade.dies ≤ d then .refused .illFormed else if !s.live then .next s else f s

/-- DIE_WATCHDOG_EXPIRY (R410). -/
def execDieWatchdogExpiry (d : Nat) (s : State) : Out := s.onDie d (fun s => .next (s.resetDie d false false))

/-- DIE_PLL_LOSS (R292, R410). -/
def execDiePllLoss (d : Nat) (s : State) : Out := s.onDie d (fun s => .next (s.resetDie d false true))

/-- The joins that die d needs to return: all of its own but the expansion join. -/
def State.dieJoined (s : State) (d : Nat) : Bool :=
  (s.dieJoins d).all (fun k => decide (k = kExpansion ∨ s.joinState k = jsUp))

/-- Complete each RESET_DOMAIN that waits for die d. -/
def State.completeDieReset (s : State) (d : Nat) : State :=
  let mine := fun (e : Hnd × Nat × Nat) => decide (e.2.1 = 1 ∧ e.2.2 = d)
  let hs := s.jobs.reset.filter mine
  let s := { s with jobs := { s.jobs with reset := s.jobs.reset.filter (fun e => !mine e) } }
  hs.foldl (fun (t : State) e => t.complete e.1 stDone []) s

/-- Die d is back (R408, R409): its stacks have trained, and its ACTIVE cores are bound anew (R405). -/
def State.dieBack (s : State) (d : Nat) : State :=
  let s := { s with power := { s.power with dieReset := SMap.put 0 d 0 s.power.dieReset } }
  let s := ((s.put (kDie d 1) 0).put 0xA20300 (s.o 0xA20300 ||| 2 ^ d)).setStacks d 0
  let s := [2 * d, 2 * d + 1].foldl (fun (t : State) n => if t.o (kStack n 1) = 5 then t else t.bump32 (kStack n 6) 1) s
  let s := (s.dieCores d).foldl (fun (t : State) p => match t.numberOf p with
    | none => t
    | some l => if t.coreState p = csActive then t.rebind p l else t) s
  (s.completeDieReset d).workDone

/-- DIE_RESET_COMPLETE (R408, R293). -/
def execDieResetComplete (d : Nat) (s : State) : Out :=
  s.onDie d (fun s => if SMap.has d s.power.dieReset && s.dieJoined d then .next (s.dieBack d) else .next s)

/-- HBM_STACK_FAILURE (R420): the die's HBM is lost (log 90); with an image bound the module sends DIE_LOST. -/
def execHbmStackFailure (stack : Nat) (s : State) : Out :=
  if s.grade.stacks ≤ stack then .refused .illFormed
  else if !s.live then .next s
  else
    let s := s.put (kStack stack 1) 5
    if s.image.isNone then .next (s.loseHbm (stack / 2))
    else
      let s := s.shardReset.loseHbm (stack / 2)
      .next (({ s with steps := { s.steps with lost := true } } : State).haltWave 0x0B)

/- The hub. -/

/-- HUB_WATCHDOG_EXPIRY (R412, R505). -/
def execHubWatchdogExpiry (s : State) : Out :=
  if s.hubUp && decide (s.mstate ≠ .boot) then .next (s.resetHub false s.bootFirst) else .next s

/-- The started image has reached Level M (R496, R498): an activation's changes are made. -/
def State.startDone (s : State) : State :=
  let x := s.fw.started
  let was := s.o 0xB00001
  let s := { s.put 0xB00001 x with fw := { s.fw with failsRow := 0 } }
  match s.fw.oneStart with
  | none => if was = x then s else s.raise 0x0702 x (s.areaVersion x)
  | some (_, dflt, floor) =>
    let e := if x = 0 then s.fw.epochA else s.fw.epochB
    let s := { s with fw := { s.fw with oneStart := none, floor := if floor then max s.fw.floor e else s.fw.floor } }
    (if dflt then s.put 0xB00006 x else s).raise 0x0702 x (s.areaVersion x)

/-- LINK_STATE as the hub comes up (R310): DETECT, or DISABLED where the axis has dimension 1 or the port is off. -/
def State.dimOf (s : State) (p : Nat) : Nat := s.o (0x700601 + p / 2)
def State.startLink (s : State) (p : Nat) : State :=
  s.setLinkState p (if 1 < s.dimOf p ∧ s.o (kPortEnable p) = 1 then lsDetect else lsDisabled)

/-- Every unfixed step that the module had not reported ready is discarded (R412). Halts that the reset held back follow (log 126). -/
def State.hubReturnSteps (s : State) : State :=
  let held := s.steps.heldHalts
  let s := { s with steps := { s.steps with heldHalts := [] } }
  let s := if s.image.isSome ∧ s.mstate ∈ [MState.running, .stopping, .recovering] then
      let ready := s.steps.ownReady
      (s.discardWhere (fun r => decide (ready < r.n)) 0x0C).haltWave 0x0C
    else s
  held.foldl State.haltWave s

/-- HUB_RETURN (R412). The hub joins and the links come up again by their own rows. -/
def execHubReturn (s : State) : Out :=
  if !s.live ∨ s.power.hubReset = 0 ∨ 2 ≤ s.fw.started then .next s
  else
    let s := { s with power := { s.power with hubReset := 0 } }
    .next (s.put 0x304001 0).startDone.hubReturnSteps.proveDue

/-- The logical numbers of the first power-up (R249): the first 128 cores of a die that are not retired. -/
def State.firstMap (s : State) : State :=
  if s.logicalMap ≠ [] then s else
  (List.range s.grade.dies).foldl (fun t d =>
    let ps := ((t.dieCores d).filter (fun p => decide (t.coreState p ≠ csRetired))).take 128
    (ps.zipIdx).foldl (fun t e => t.setLcore (128 * d + e.2) (some e.1)) t) s

/-- The exchange of R284 on a join between two dies, or a die and the hub, as the package comes up: both ends are there. -/
def State.negotiate (s : State) (key : Nat) : State :=
  let other := BitVec.ofNat 256 (s.o (kDie ((joinDies key).getLastD 0) 2))
  (s.trained (joinOf key) 32).takeRecord (joinOf key) other

/-- The dies, stacks and joins as the package comes up (R284, R294, R408): every join but the expansion join is UP. A retired module is no
spare. -/
def State.packageUp (s : State) : State :=
  let s := (List.range s.grade.dies).foldl (fun (t : State) d =>
    ((t.put (kDie d 1) 0).put (kDie d 2) (s.grade.dieRecord d)).setStacks d 0) s
  let s := (s.put 0x304001 0).put 0x304002 hubRecord
  let s := (s.grade.joins.filter (fun k => decide (k ≠ kExpansion))).foldl State.negotiate s
  let s := if s.grade.expansion then s.put (kJoin kExpansion 1) jsEmpty else s
  (s.put 0x200200 s.workingCaps).put 0xA20300 (2 ^ s.grade.dies - 1 + 0x10)

/-- HUB_BOOT_COMPLETE (R32, R249, R496, R511): STANDBY. -/
def execHubBootComplete (s : State) : Out :=
  if s.mstate ≠ .boot ∨ !s.hubUp ∨ 2 ≤ s.fw.started then .next s
  else .next (((List.range 6).foldl State.startLink (s.startDone.packageUp.firstMap.coreStates)).setM .standby)

/-- BOOT_WATCHDOG (R496): the start has failed. -/
def execBootWatchdog (s : State) : Out :=
  if s.live ∧ s.fw.started < 2 ∧ (s.mstate = .boot ∨ s.power.hubReset ≠ 0) then .next s.failStart else .next s

/-- ACTIVATION_HUB_RESET (R498): the hub starts the chosen image for this one start. -/
def execActivationHubReset (s : State) : Out :=
  match s.fw.activate with
  | none => .next s
  | some a =>
    if !s.hubUp then .next s
    else .next (({ s with fw := { s.fw with activate := none, oneStart := some a } } : State).resetHub true a.1)

/- Jobs that run on their own. -/

/-- FIRMWARE_WRITE_COMPLETE (R497). -/
def execFirmwareWriteComplete (ok : Bool) (s : State) : Out :=
  match s.fw.updateHnd, s.fw.updateImg with
  | some h, some (x, version, epoch, digest) =>
    if !s.hubUp then .next s else
    let s := { s with fw := { s.fw with updateHnd := none, updateImg := none } }
    if ok then
      let f := s.fw
      let s := { s with fw := if x = 0 then { f with epochA := epoch, digestA := digest } else { f with epochB := epoch, digestB := digest } }
      .next (((s.put (0xB00002 + x) version).put (0xB00004 + x) 1).complete h stDone [version])
    else .next (s.complete h stFault [])
  | _, _ => .next s

/-- Rows of a stack that wait for repair, and its repair rows left. -/
def State.candidates (s : State) (n : Nat) : Nat := s.o (kStack n 7)
def State.spareRowsLeft (s : State) (n : Nat) : Nat := s.o (0xC02001 + n)

/-- Repair r rows of stack n (R503). -/
def State.repairRows (s : State) (n r : Nat) : State :=
  ((s.put (kStack n 7) (s.candidates n - r)).put (0xC02001 + n) (s.spareRowsLeft n - r)).put (0xC02011 + n) (min 65535 (s.o (0xC02011 + n) + r))

/-- HBM_REPAIR_COMPLETE (R503). -/
def execHbmRepairComplete (stack : Nat) (s : State) : Out :=
  match s.jobs.repair.find? (fun e => decide (e.2 = stack)) with
  | none => .next s
  | some (h, n) =>
    if !s.hubUp then .next s else
    let c := s.candidates n
    let r := min c (s.spareRowsLeft n)
    let s := { s with jobs := { s.jobs with repair := s.jobs.repair.erase (h, n) } }
    .next ((((s.repairRows n r).bump32 (kStack n 6) 1).put (kStack n 1) 0).complete h stDone [r, c - r])

/-- RESET_DOMAIN passes its limit: the domain is left as it stands, a die reading FAILED (R475). -/
def State.resetLimit (s : State) (handle : W32) : State := match s.jobs.reset.find? (fun e => decide (e.1.handle = handle)) with
  | none => s
  | some (h, dom, i) =>
    let s := { s with jobs := { s.jobs with reset := s.jobs.reset.erase (h, dom, i) } }
    (if dom = 1 then s.put (kDie i 1) 4 else s).complete h stTimeout []

/-- UPDATE_FIRMWARE passes its limit: the area stays invalid (R504). -/
def State.updateLimit (s : State) (handle : W32) : State := match s.fw.updateHnd with
  | none => s
  | some h =>
    if h.handle ≠ handle then s
    else ({ s with fw := { s.fw with updateHnd := none, updateImg := none } } : State).complete h stTimeout []

/-- REPAIR_HBM passes its limit: rows already repaired stay repaired (R504); how many is left open. -/
def State.repairLimit (s : State) (handle : W32) : State := match s.jobs.repair.find? (fun e => decide (e.1.handle = handle)) with
  | none => s
  | some (h, n) =>
    let (v, s) := s.draw
    let k := v.toNat % (min (s.candidates n) (s.spareRowsLeft n) + 1)
    (({ s with jobs := { s.jobs with repair := s.jobs.repair.erase (h, n) } } : State).repairRows n k).complete h stTimeout []

/-- COMMAND_LIMIT_EXPIRY (R475, R504). -/
def execCommandLimitExpiry (handle : W32) (s : State) : Out := if !s.hubUp then .next s else .next (((s.resetLimit handle).updateLimit handle).repairLimit handle)

/-- SUSPECT_MARK_EXPIRY (R403). -/
def execSuspectMarkExpiry (p : Nat) (s : State) : Out :=
  if s.grade.cores ≤ p then .refused .illFormed
  else if !s.live then .next s
  else .next (s.put (kCore p 0x0F) (s.o (kCore p 0x0F) - 1))

end Sys2Proof.Machine
end

