-- ==== Sys2Proof/Machine/ImageForm.lean ====
section
/-! DEFINITION. The form of a Planil image (R237-R242, R252, R257-R259): its header, section table and records, and their reserved fields. -/

namespace Sys2Proof.Machine

/-- A failure of the verifier (R264, R266): check, section type, entry, offset within the entry, and the status it gives. -/
structure Fail where
  check : Nat
  sec : Nat
  entry : Nat
  offset : Nat
  status : Nat
  deriving DecidableEq, Repr

/-- The header as bytes, and its fields (R237). -/
structure Header where
  raw : List Byte
  arithGen : Nat
  required : Nat
  lcores : Nat
  sections : Nat
  length : Nat
  vats : Nat
  deriving DecidableEq, Repr

def headerOf (b : List Byte) : Header :=
  { raw := b, arithGen := fieldAt b 6 1, required := fieldAt b 8 4, lcores := fieldAt b 12 2, sections := fieldAt b 14 2,
    length := fieldAt b 16 4, vats := fieldAt b 20 2 }

/-- Longest image (R237). -/
def imageMax : Nat := 2 ^ 30

/-- Bits of REQUIRED that the layout of R6 reserves. -/
def requiredReserved : Nat := 0xFFF0000C

/-- The first offset of the header at fault (R237). -/
def headerBad (h : Header) : Option Nat :=
  let b := h.raw
  if fieldAt b 0 4 ≠ 0x4C4E4C50 then some 0
  else if fieldAt b 4 2 ≠ 1 then some 4
  else if fieldAt b 7 1 ≠ 0 then some 7
  else if h.required &&& requiredReserved ≠ 0 then some 8
  else if h.lcores = 0 then some 12
  else if h.sections = 0 ∨ 32 < h.sections then some 14
  else if h.length < 64 + 16 * h.sections ∨ imageMax < h.length then some 16
  else if h.vats = 0 then some 20
  else if fieldAt b 22 42 ≠ 0 then some 22
  else none

/-- A section: type, offset, length and count (R238). -/
structure Section where
  ty : Nat
  off : Nat
  len : Nat
  count : Nat
  res : Nat
  deriving DecidableEq, Repr

def sectionOf (b : List Byte) : Section :=
  { ty := fieldAt b 0 2, off := fieldAt b 4 4, len := fieldAt b 8 4, count := fieldAt b 12 4, res := fieldAt b 2 2 }

/-- Bytes of an entry of a section type, CODE and DATA counting bytes; 0 for a type that does not exist (R238). -/
def entrySize (ty : Nat) : Nat :=
  match ty with
  | 1 => 1
  | 2 => 1
  | 3 => 32
  | 4 => 32
  | 0x0B => 32
  | 0x0F => 32
  | 0x0C => 2
  | 0x0D => 4
  | _ => if 5 ≤ ty ∧ ty ≤ 0x11 then 16 else 0

/-- What is wrong with entry i of the section table, as an offset within it. -/
def sectionBad (h : Header) (ss : List Section) (i : Nat) (e : Section) : Option Nat :=
  let others := ss.take i
  if entrySize e.ty = 0 ∨ others.any (fun f => decide (f.ty = e.ty)) then some 0
  else if e.res ≠ 0 then some 2
  else if e.off % 64 ≠ 0 ∨ e.off < 64 + 16 * h.sections ∨ h.length < e.off + e.len ∨
      others.any (fun f => decide (f.off < e.off + e.len ∧ e.off < f.off + f.len)) then some 4
  else if e.len ≠ e.count * entrySize e.ty then some 8
  else if e.ty = 1 ∧ e.len % 4 ≠ 0 then some 8
  else if e.ty = 3 ∧ e.count ≠ h.vats then some 12
  else none

/-- The first member of a list for which f answers, with its index. -/
def firstBad {α β : Type} (f : Nat → α → Option β) : Nat → List α → Option (Nat × β)
  | _, [] => none
  | i, a :: t => match f i a with
    | some b => some (i, b)
    | none => firstBad f (i + 1) t

/-- The sections that every image has (R238). -/
def requiredSections : List Nat := [1, 2, 3, 4, 5, 0x0E]

/-- The HEADER check (R264). The section table lies in the header's section, and an entry of it counts from its start. -/
def headerCheck (h : Header) (ss : List Section) : Option Fail :=
  match headerBad h with
  | some o => some { check := 1, sec := 0, entry := 0, offset := o, status := stVerifierReject }
  | none => match firstBad (sectionBad h ss) 0 ss with
    | some (i, o) => some { check := 1, sec := 0, entry := 0, offset := 64 + 16 * i + o, status := stVerifierReject }
    | none =>
      if requiredSections.all (fun t => ss.any (fun e => decide (e.ty = t))) then none
      else some { check := 1, sec := 0, entry := 0, offset := 14, status := stVerifierReject }

/- Records. -/

def bindOf (b : List Byte) : Bind :=
  { lcore := fieldAt b 0 2, ctx := bits (fieldAt b 2 1) 6 2, own := [7, 6, 5, 4, 3].map (fun k => Nat.testBit (fieldAt b 3 1) k),
    vat := fieldAt b 4 2, codeBase := fieldAt b 8 2, codeLen := fieldAt b 10 2, entry := fieldAt b 12 2, dmemBase := fieldAt b 14 2,
    dmemLen := fieldAt b 16 2, rangeFirst := fieldAt b 18 2, rangeCount := fieldAt b 20 2, codeOffset := fieldAt b 24 4,
    dmemOffset := fieldAt b 28 4 }

/-- Reserved fields of a record: (first byte, bytes, bits that must be zero). -/
def reservedBad (fields : List (Nat × Nat × Nat)) (b : List Byte) : Option Nat :=
  (fields.find? (fun f => decide (fieldAt b f.1 f.2.1 &&& f.2.2 ≠ 0))).map (fun f => f.1)

def ones (n : Nat) : Nat := 2 ^ (8 * n) - 1

/-- The reserved fields of the records of a section type (R127, R151, R150, R224, R239-R242, R252, R257-R259, R320, R336, R454). -/
def reservedOf (ty : Nat) : List (Nat × Nat × Nat) :=
  match ty with
  | 3 => [(4, 1, 0x3F), (5, 3, ones 3)]
  | 4 => [(2, 1, 0x3F), (3, 1, 7), (6, 2, ones 2), (22, 2, ones 2)]
  | 5 => [(8, 1, 0x1F), (9, 3, ones 3)]
  | 6 => [(5, 3, ones 3), (14, 2, ones 2)]
  | 7 => [(6, 2, ones 2)]
  | 8 => [(6, 2, ones 2), (12, 4, ones 4)]
  | 9 => [(4, 1, 3), (5, 3, ones 3), (12, 4, ones 4)]
  | 0x0A => [(12, 1, 0x3F), (14, 2, ones 2)]
  | 0x0B => [(4, 1, 1), (5, 1, ones 1), (24, 8, ones 8)]
  | 0x0D => [(0, 4, 0x3FFF0000)]
  | 0x0E => [(2, 1, 7), (3, 1, ones 1), (12, 4, ones 4)]
  | 0x0F => [(24, 8, ones 8)]
  | 0x10 => [(0, 1, 0x0F), (1, 1, ones 1), (12, 4, ones 4)]
  | 0x11 => [(2, 2, ones 2), (8, 8, ones 8)]
  | _ => []

def rangeOf (b : List Byte) : Range :=
  { start := fieldAt b 0 4, length := fieldAt b 4 4, kind := bits (fieldAt b 8 1) 5 3, initOffset := fieldAt b 12 4 }

def vatOf (b : List Byte) : Vat :=
  { num := fieldAt b 0 2, parent := fieldAt b 2 2, segment := Nat.testBit (fieldAt b 4 1) 7, tolerance := Nat.testBit (fieldAt b 4 1) 6,
    ilvFirst := fieldAt b 8 4, ilvCount := fieldAt b 12 4 }

/-- A region declaration; its address comes with its placement. -/
def regionOf (b : List Byte) : Region :=
  { num := fieldAt b 0 4, kind := bits (fieldAt b 4 1) 5 3, baseCached := Nat.testBit (fieldAt b 4 1) 4, perm := bits (fieldAt b 4 1) 2 2,
    die := bits (fieldAt b 4 1) 0 2, sizeMib := fieldAt b 8 4, owner := fieldAt b 12 2, addr := 0 }

def scaleOf (b : List Byte) : Scale :=
  { tensor := fieldAt b 0 4, fmt := bits (fieldAt b 4 1) 4 4, mode := bits (fieldAt b 4 1) 2 2, mx := Nat.testBit (fieldAt b 4 1) 1,
    sr := Nat.testBit (fieldAt b 4 1) 0, histLen := fieldAt b 5 1, margin := BitVec.ofNat 32 (fieldAt b 8 4),
    fixedExp := signed 32 (fieldAt b 12 4) }

def cellOf (b : List Byte) : CellRec := { tensor := fieldAt b 0 4, lcore := fieldAt b 4 2, cell := fieldAt b 8 4 }

def stashOf (b : List Byte) : Stash :=
  { num := fieldAt b 0 4, srcFmt := bits (fieldAt b 4 1) 4 4, mode := bits (fieldAt b 4 1) 2 2, region := fieldAt b 8 4 }

/-- A stream declaration; JOURNAL is the loader's (R246). -/
def streamOf (b : List Byte) : StreamD :=
  { num := fieldAt b 0 4, src := BitVec.ofNat 32 (fieldAt b 4 4), dst := BitVec.ofNat 32 (fieldAt b 8 4), cls := bits (fieldAt b 12 1) 6 2,
    journal := false, credits := fieldAt b 13 1 }

def chainOf (b : List Byte) : ChainD :=
  { num := fieldAt b 0 4, op := bits (fieldAt b 4 1) 4 4, mode := bits (fieldAt b 4 1) 2 2, ret := Nat.testBit (fieldAt b 4 1) 1,
    n := fieldAt b 6 2, memberFirst := fieldAt b 8 4, fwdBase := fieldAt b 12 4, retBase := fieldAt b 16 4, decl := fieldAt b 20 4 }

/-- An interleave entry: phase and micro-batch (R150). -/
def ilvOf (b : List Byte) : Nat × Nat := (bits (fieldAt b 0 4) 30 2, fieldAt b 0 2)

def budgetOf (b : List Byte) : Budget :=
  { lcore := fieldAt b 0 2, ctx := bits (fieldAt b 2 1) 6 2, queue := bits (fieldAt b 2 1) 3 3, dmemAddr := fieldAt b 4 4,
    cycles := fieldAt b 8 4 }

def linkOf (b : List Byte) : LinkD :=
  { chain := fieldAt b 0 4, inStream := fieldAt b 4 4, outStream := fieldAt b 8 4, retIn := fieldAt b 12 4, retOut := fieldAt b 16 4,
    position := fieldAt b 20 4 }

def journalOf (b : List Byte) : JournalD :=
  { isInput := decide (bits (fieldAt b 0 1) 4 4 = 0), id := fieldAt b 2 2, target := fieldAt b 4 4, bytes := fieldAt b 8 4 }

/- Reading an image. -/

/-- The bytes of the image area as the loader reads them (R359): n bytes from image offset o. -/
def State.headerAt (s : State) : Header := headerOf (s.imageBytes 0 64)

/-- The section table of a header whose SECTIONS is in range. -/
def State.sectionsAt (s : State) (h : Header) : List Section :=
  (List.range (min 32 h.sections)).map (fun i => sectionOf (s.imageBytes (64 + 16 * i) 16))

def findSection (ss : List Section) (ty : Nat) : Section :=
  (ss.find? (fun e => decide (e.ty = ty))).getD { ty := ty, off := 0, len := 0, count := 0, res := 0 }

/-- The entries of a section, as bytes. -/
def State.entriesAt (s : State) (ss : List Section) (ty : Nat) : List (List Byte) :=
  let e := findSection ss ty
  (List.range e.count).map (fun i => s.imageBytes (e.off + entrySize ty * i) (entrySize ty))

/-- The whole of a section. -/
def State.sectionBytes (s : State) (ss : List Section) (ty : Nat) : List Byte :=
  let e := findSection ss ty
  s.imageBytes e.off e.len

/-- The image that the area holds, its regions not yet placed. -/
def State.parseImage (s : State) (h : Header) (ss : List Section) : Image :=
  { lcores := h.lcores, length := h.length, sections := ss.map (fun e => (e.ty, e.off, e.len, e.count)),
    binds := (s.entriesAt ss 4).map bindOf, ranges := (s.entriesAt ss 5).map rangeOf, vats := (s.entriesAt ss 3).map vatOf,
    regions := (s.entriesAt ss 6).map regionOf, scales := (s.entriesAt ss 7).map scaleOf, cells := (s.entriesAt ss 8).map cellOf,
    stashes := (s.entriesAt ss 9).map stashOf, streams := (s.entriesAt ss 0x0A).map streamOf, chains := (s.entriesAt ss 0x0B).map chainOf,
    members := (s.entriesAt ss 0x0C).map ofLe, ilv := (s.entriesAt ss 0x0D).map ilvOf, budgets := (s.entriesAt ss 0x0E).map budgetOf,
    links := (s.entriesAt ss 0x0F).map linkOf, journal := (s.entriesAt ss 0x10).map journalOf,
    loss := ((s.entriesAt ss 0x11).head?).map (fun b => (fieldAt b 0 2, fieldAt b 4 4)),
    failed := (List.range s.grade.stacks).filter (fun n => decide (s.o (kStack n 1) = stackFailed)) }

/- Placement (R254). -/

/-- MiB that a region takes. -/
def Region.footprint (r : Region) : Nat := if r.kind = rkFrozen then r.sizeMib else 2 * r.sizeMib

/-- The next free MiB of each die's HBM and base store. -/
structure Place4 where
  hbm : SMap Nat
  base : SMap Nat
  deriving DecidableEq, Repr

/-- Place regions in declaration order (R254). HBM regions have module addresses, partitions die-local base-store addresses. -/
def placeGo (p : Place4) : List Region → List Region
  | [] => []
  | r :: t =>
    if r.kind = rkPartition then
      let a := SMap.get 0 r.die p.base
      { r with addr := a * mib } :: placeGo { p with base := SMap.ins r.die (a + r.footprint) p.base } t
    else
      let a := SMap.get 0 r.die p.hbm
      { r with addr := hbmAddr r.die (a * mib) } :: placeGo { p with hbm := SMap.ins r.die (a + r.footprint) p.hbm } t

/-- JOURNAL of a stream, as the loader sets it (R246): its SRC lies outside the segment that holds its DST. -/
def State.journalOf (s : State) (d : StreamD) : Bool :=
  decide (epType d.dst = epCore) &&
  (decide (epType d.src ≠ epCore) || decide (s.segmentOfCore (epLcore d.src) ≠ s.segmentOfCore (epLcore d.dst)))

/-- The image placed, with JOURNAL set. -/
def Image.placed (im : Image) : Image := { im with regions := placeGo { hbm := [], base := [] } im.regions }

end Sys2Proof.Machine
end

