-- ==== Sys2Proof/Machine/Stash.lean ====
section
/-! DEFINITION. The activation stash (R151-R155, R223): units, their slots and their coding. -/

namespace Sys2Proof.Machine

/-- Modes of a stash declaration (R151). -/
def shLossless : Nat := 0
def shBf16 : Nat := 1
def shBlock : Nat := 2

def State.stash? (s : State) (num : Nat) : Option Stash := match s.image with
  | none => none
  | some im => im.stashes.find? (fun d => decide (d.num = num))

/-- The region of a stash. -/
def State.stashRegion (s : State) (d : Stash) : Option Region :=
  s.regions.find? (fun r => decide (r.num = d.region ∧ r.kind = rkStash))

/-- Bytes of the sign-mantissa field of an element (R153). -/
def smBytes (fmt : Nat) : Nat := if fmt = fFP32 then 3 else 1

/-- Slot size (R152). -/
def Stash.slot (d : Stash) : Nat :=
  if d.mode = shLossless then 2 + 64 * (fmtBits d.srcFmt / 8) else if d.mode = shBf16 then 2 else 33

/-- Elements of a unit. -/
def Stash.unit (d : Stash) : Nat := if d.mode = shLossless then 64 else if d.mode = shBf16 then 1 else 32

/- The LOSSLESS coding (R153). -/

/-- Mantissa bits of FP32 or BF16. -/
def mantBits (fmt : Nat) : Nat := if fmt = fFP32 then 23 else 7

def expOf (fmt c : Nat) : Nat := bits c (mantBits fmt) 8

/-- The sign-mantissa field of a code. -/
def smOf (fmt c : Nat) : Nat := bits c (mantBits fmt + 8) 1 * 2 ^ mantBits fmt + bits c 0 (mantBits fmt)

/-- A code from its exponent and sign-mantissa fields. -/
def codeOf (fmt e sm : Nat) : Nat :=
  bits sm (mantBits fmt) 1 * 2 ^ (mantBits fmt + 8) + e % 256 * 2 ^ mantBits fmt + bits sm 0 (mantBits fmt)

/-- Bit length. -/
def bitLen (n : Nat) : Nat := if n = 0 then 0 else Nat.log2 n + 1

/-- The exponent plane as a number. -/
def planeOf (w : Nat) : List Nat → Nat
  | [] => 0
  | d :: t => d + 2 ^ w * planeOf w t

/-- Code a LOSSLESS unit. -/
def losslessCode (fmt : Nat) (cs : List Nat) : List Byte :=
  let es := cs.map (expOf fmt)
  let base := es.foldl min 255
  let ds := es.map (fun e => e - base)
  let w := bitLen (ds.foldl max 0)
  if w = 8 then
    BitVec.ofNat 8 base :: 8 :: cs.flatMap (fun c => leBytes (fmtBits fmt / 8) c)
  else
    BitVec.ofNat 8 base :: BitVec.ofNat 8 w ::
      (cs.flatMap (fun c => leBytes (smBytes fmt) (smOf fmt c)) ++ leBytes ((cs.length * w + 7) / 8) (planeOf w ds))

/-- Bytes that a unit of n elements and WIDTH w takes (R152, R153). -/
def losslessBytes (fmt n w : Nat) : Nat :=
  if w = 8 then 2 + n * (fmtBits fmt / 8) else if 9 ≤ w then 2 else 2 + n * smBytes fmt + (n * w + 7) / 8

/-- Decode a LOSSLESS unit (R153, R155): WIDTH 9 or more gives canonical NaNs. -/
def losslessDecode (fmt n : Nat) (b : List Byte) : List Nat :=
  let base := fieldAt b 0 1
  let w := fieldAt b 1 1
  (List.range n).map (fun i =>
    if 9 ≤ w then (fmtOf fmt).nanCode
    else if w = 8 then fieldAt b (2 + i * (fmtBits fmt / 8)) (fmtBits fmt / 8)
    else
      let sm := fieldAt b (2 + i * smBytes fmt) (smBytes fmt)
      let plane := ofLe (b.drop (2 + n * smBytes fmt))
      codeOf fmt (base + bits plane (i * w) w) sm)

/- Units of a command (R223): unit number from MEM_STEP, first element, count. -/

/-- Blocks of 32 in a row. -/
def rowBlocks (d : LDesc) : Nat := (ldN d 0 + 31) / 32

/-- The units of the core side. -/
def stashUnits (d : Stash) (core : LDesc) : List (Nat × Nat × Nat) :=
  if d.mode = shBlock then
    (List.range (ldRows core * rowBlocks core)).map (fun k =>
      let b := k % rowBlocks core
      (k, k / rowBlocks core * ldN core 0 + 32 * b, min 32 (ldN core 0 - 32 * b)))
  else
    let n := d.unit
    (List.range ((ldCount core + n - 1) / n)).map (fun k => (k, n * k, min n (ldCount core - n * k)))

/-- The unit of element c, and the element's place in it. -/
def stashPlace (d : Stash) (core : LDesc) (c : Nat) : Nat × Nat :=
  if d.mode = shBlock then
    let i := c % ldN core 0
    (c / ldN core 0 * rowBlocks core + i / 32, i % 32)
  else (c / d.unit, c % d.unit)

/-- Elements of unit k of the core side. -/
def stashLen (d : Stash) (core : LDesc) (k : Nat) : Nat :=
  if d.mode = shBlock then min 32 (ldN core 0 - 32 * (k % rowBlocks core)) else min d.unit (ldCount core - d.unit * k)

/-- Address of unit k of a command. -/
def stashAddr (d : Stash) (r : Region) (l : Line) (k : Nat) : Int := (r.addr : Int) + (lsMemStep l + k) * d.slot

/-- Most bytes that a unit of n elements moves. -/
def stashSpan (d : Stash) (n : Nat) : Nat :=
  if d.mode = shLossless then 2 + n * (fmtBits d.srcFmt / 8) else if d.mode = shBf16 then 2 else 1 + n

/-- Rules of a STASH command (R151, R223): the declaration, its region and the core side. -/
def State.stashBad (s : State) (c : LsCmd) : Bool :=
  match s.stash? (lsDecl c.l) with
  | none => true
  | some d =>
    let k := c.core.d
    (s.stashRegion d).isNone || ldBad k || decide (ldSpace k ≠ spCore) || ldIdx k ||
    (if c.e.q = qStore then decide (ldFmt k ≠ d.srcFmt)
     else if d.mode = shBlock then
       (if lsDeliver c.l then decide (ldFmt k ≠ fE4M3) || (match c.core.tab with
          | none => true
          | some t => ldBad t || !tableFits t k)
        else decide (ldFmt k ≠ fFP32 ∧ ldFmt k ≠ fBF16))
     else lsDeliver c.l || (decide (ldBits k = 4) && decide (ldN k 0 % 2 = 1)))

/-- Code a stash unit (R152, R153, R154): BF16 of BF16 is a copy. -/
def stashCode (d : Stash) (els : List El) : List Byte × List CastR :=
  if d.mode = shLossless then (losslessCode d.srcFmt (els.map (fun y => y.code)), [])
  else if d.mode = shBf16 ∧ d.srcFmt = fBF16 then (els.flatMap (fun y => leBytes 2 y.code), [])
  else if d.mode = shBf16 then
    let rs := els.map (fun y => castNum fBF16 .rne y.num)
    (rs.flatMap (fun r => leBytes 2 r.code), rs)
  else
    let r := blockCast fE4M3 (fun _ => .rne) (els.map (fun y => y.num))
    (BitVec.ofNat 8 r.1 :: r.2.map (fun y => BitVec.ofNat 8 y.code), r.2)

/-- Write the units of a store in order until an access faults (R223). A unit whose elements do not all read is not written. -/
def State.putUnits (s : State) (c : LsCmd) (d : Stash) (r : Region) : List (Nat × Nat × Nat) → Run
  | [] => ⟨s, none⟩
  | u :: t =>
    let got := collect (s.readCanon c.e c.core) ((List.range u.2.2).map (fun i => u.2.1 + i))
    match got.2 with
    | some f => ⟨s, some f⟩
    | none =>
      let a := stashAddr d r c.l u.1
      let out := stashCode d got.1
      let hit := got.1.any (fun y => y.hit)
      if s.mapped c.e spHbm a out.1.length true then
        (((s.writeSpan c.e spHbm a.toNat (out.1.map (fun b => (b, hit)))).countCasts out.2).consumeIf c.e hit).putUnits c d r t
      else ⟨s, some (a, 2)⟩

/-- Read a unit of n elements: its bytes and whether they hit. -/
def State.unitBytes (s : State) (c : LsCmd) (d : Stash) (r : Region) (k n : Nat) : Got (List Byte × Bool) :=
  let a := stashAddr d r c.l k
  if !s.mapped c.e spHbm a (stashSpan d n) false then .fault a 1
  else
    let m := if d.mode = shLossless then losslessBytes d.srcFmt n (fieldAt (s.readSpan c.e spHbm a.toNat 2).1 1 1) else stashSpan d n
    .ok (s.readSpan c.e spHbm a.toNat m)

/-- Element c of a stash, as stored. -/
def State.stashEl (s : State) (c : LsCmd) (d : Stash) (r : Region) (n : Nat) : Got El :=
  let p := stashPlace d c.core.d n
  let len := stashLen d c.core.d p.1
  match s.unitBytes c d r p.1 len with
  | .fault a k => .fault a k
  | .ok b =>
    if d.mode = shLossless then
      let code := (losslessDecode d.srcFmt len b.1).getD p.2 0
      .ok { num := decode d.srcFmt code, code := code, hit := b.2 }
    else if d.mode = shBf16 then .ok { num := decode fBF16 (fieldAt b.1 0 2), code := fieldAt b.1 0 2, hit := b.2 }
    else
      let x : El := { num := decode fE4M3 (fieldAt b.1 (1 + p.2) 1), code := fieldAt b.1 (1 + p.2) 1, hit := b.2 }
      .ok (if lsDeliver c.l then x else x.scaled (fieldAt b.1 0 1, false))

/-- The scale byte of table element c. -/
def State.stashScale (s : State) (c : LsCmd) (d : Stash) (r : Region) (n : Nat) : Got El :=
  match s.unitBytes c d r n (stashLen d c.core.d n) with
  | .fault a k => .fault a k
  | .ok b => .ok { num := .fin false 0 0, code := fieldAt b.1 0 1, hit := b.2 }

/-- Elements whose units a load decodes: those of the rows of its target that it may write, and of the first that it may not. -/
def State.stashReads (s : State) (c : LsCmd) : Nat :=
  let k := c.core.d
  let ok := (List.range (ldRows k)).takeWhile (fun r => match s.rowAt c.e k c.core.step (ldRowIx k r) true with
    | .fault _ _ => false
    | .ok _ => true)
  ldN k 0 * min (ldRows k) (ok.length + 1)

/-- LOSSLESS units with a WIDTH of 9 or more that a load decodes (R155): it stops at the first unit that it cannot read. -/
def State.stashBadUnits (s : State) (c : LsCmd) (d : Stash) (r : Region) : Nat :=
  if d.mode ≠ shLossless then 0 else
  let width := fun (u : Nat × Nat × Nat) => match s.unitBytes c d r u.1 u.2.2 with
    | .fault _ _ => none
    | .ok b => some (fieldAt b.1 1 1)
  let us := ((stashUnits d c.core.d).filter (fun u => decide (u.2.1 < s.stashReads c))).map width
  ((us.takeWhile Option.isSome).filter (fun w => decide (9 ≤ w.getD 0))).length

/-- The spans of a command's units in the stash region. -/
def State.stashSpans (s : State) (c : LsCmd) : List (Int × Nat) :=
  match s.stash? (lsDecl c.l) with
  | none => []
  | some d => match s.stashRegion d with
    | none => []
    | some r => (stashUnits d c.core.d).map (fun u => (stashAddr d r c.l u.1, stashSpan d u.2.2))

/-- Load a stash (R223): as stored where the core side has its format, else cast. -/
def State.stashLoad (s : State) (c : LsCmd) (d : Stash) (r : Region) : Run :=
  let stored := if d.mode = shLossless then d.srcFmt else if d.mode = shBf16 then fBF16 else fE4M3
  let k := if ldFmt c.core.d = stored then Caster.raw else .rne
  let s := (s.cacheSpans c.e (s.stashSpans c)).bump64 0x603007 (s.stashBadUnits c d r)
  let x := s.moveAll c.e { c.core with tab := none } k 0 (fun t n => t.stashEl c d r n)
  if !lsDeliver c.l || x.fault.isSome then x else
  match c.core.tab with
  | none => x
  | some t => x.s.moveAll c.e { c.core with d := t, tab := none } .raw 0 (fun t n => t.stashScale c d r n)

/-- Run a STASH command. -/
def State.stashRun (s : State) (c : LsCmd) : Run :=
  match s.stash? (lsDecl c.l) with
  | none => ⟨s, none⟩
  | some d => match s.stashRegion d with
    | none => ⟨s, none⟩
    | some r => if c.e.q = qStore then s.putUnits c d r (stashUnits d c.core.d) else s.stashLoad c d r

end Sys2Proof.Machine
end

