-- ==== Sys2Proof/Machine/LoadEngine.lean ====
section
/-! DEFINITION. The load engine's commands (R207-R223): COPY, STASH, AMAX with its maximum chain (R214), and GATHER with the narrow path
(R192-R194). -/

namespace Sys2Proof.Machine

/-- LOAD_COPY (R210-R212): base store or HBM to core store. -/
def execLoadCopy (p : Nat) (x : Fin 4) (s : State) : Out :=
  s.lsStart p x.val qLoad lkCopy (fun _ c => c.src.spans) (fun _ _ => []) State.copyBad (fun s c => match s.casterOf c with
    | none => s
    | some k => (s.copyRun c k).finish c.e)

/-- LOAD_STASH (R223). -/
def execLoadStash (p : Nat) (x : Fin 4) (s : State) : Out :=
  s.lsStart p x.val qLoad lkStash State.stashSpans (fun _ _ => []) State.stashBad (fun s c => (s.stashRun c).finish c.e)

/- AMAX (R214). -/

/-- The LINKS record of a chain (R320). -/
def State.linkOf (s : State) (chain : Nat) : Option LinkD := match s.image with
  | none => none
  | some im => im.links.find? (fun l => decide (l.chain = chain))

/-- Streams by which member i of a chain receives from the one before, sends to the next, and exchanges the return; none at an end of the
whole chain. -/
structure Hops where
  inS : Option Nat
  outS : Option Nat
  retIn : Option Nat
  retOut : Option Nat
  deriving DecidableEq, Repr

def fieldStream (v : Nat) : Option Nat := if v = noneField then none else some v

def State.hops (s : State) (c : ChainD) (i : Nat) : Hops :=
  let l := s.linkOf c.num
  let of := fun (f : LinkD → Nat) => match l with
    | none => none
    | some l => fieldStream (f l)
  { inS := if 0 < i then some (c.fwdBase + i - 1) else of LinkD.inStream,
    outS := if i + 1 < c.n then some (c.fwdBase + i) else of LinkD.outStream,
    retIn := if i + 1 < c.n then some (c.retBase + i) else of LinkD.retIn,
    retOut := if 0 < i then some (c.retBase + i - 1) else of LinkD.retOut }

/-- Rules of an AMAX (R214, R236): a present-mode or history-mode declaration with a cell here, and a readable tensor. -/
def State.amaxBad (s : State) (c : LsCmd) : Bool :=
  match s.declOf c.l with
  | none => true
  | some d => decide (d.mode = smFixed) || (s.cell? d.tensor ((s.core c.e.p).ctx c.e.x).bind.lcore).isNone || ldBad c.src.d ||
              ldIdx c.src.d || (match c.src.tab with
                | none => false
                | some t => ldBad t || !fmtBlocks (ldFmt c.src.d) || !tableFits t c.src.d)

/-- A unit that carries words in its first elements. -/
def wordUnit (ws : List W32) (poison : Bool) : SUnit := packUnit (ws.flatMap (fun w => leBytes 4 w.toNat)) poison

/-- Word i of a unit. -/
def unitWord (u : SUnit) (i : Nat) : W32 := BitVec.ofNat 32 (bits u.1.toNat (32 * i) 32)

/-- The pair 2^e, 2^-e for a maximum (R214). -/
def State.scalePair (s : State) (d : Scale) (m : SUnit) : SUnit × State :=
  let r := s.chooseExp d (unitWord m 0)
  (wordUnit [pow32 r.1, pow32 (-r.1)] m.2, r.2)

/-- Keep the exponent that an AMAX chose in its step (R142); a replay chooses none of its own. -/
def State.noteChosen (s : State) (e : Eng) (tensor : Nat) (u : SUnit) : State :=
  if s.coreState e.p = csReplay then s
  else s.updStep ((s.core e.p).ctx e.x).step (fun r => { r with chosen := SMap.ins tensor ((bits (unitWord u 0).toNat 23 8 : Int) - 127) r.chosen })

/-- Write the pair into this core's cell. -/
def State.putPair (s : State) (e : Eng) (tensor : Nat) (u : SUnit) : State :=
  let s := s.noteChosen e tensor u
  match s.cell? tensor ((s.core e.p).ctx e.x).bind.lcore with
  | none => s
  | some a => s.setCore e.p ((s.core e.p).csWrite a (leBytes 4 (unitWord u 0).toNat ++ leBytes 4 (unitWord u 1).toNat) u.2)

/-- Phases of an AMAX in its chain: to receive, to send on, to take the return, to pass it back. -/
def phReceive : Nat := 0
def phSend : Nat := 1
def phReturn : Nat := 2
def phBack : Nat := 3

/-- Send one unit of an AMAX through stream port 0, unabsorbed (R345), and enter a phase. -/
def State.amaxSend (s : State) (e : Eng) (stream phase : Nat) (b : ChainBuf) (u : SUnit) : Option State :=
  match s.streamD? stream with
  | none => none
  | some d => (s.sendUnit e.p e.x 0 d u true).map (fun t => t.setChainBuf e { b with phase := phase, got := [u] })

/-- One phase of an AMAX in its chain; none while it waits (R214). A poisoned unit that it receives is consumed (R198). -/
def State.amaxPhase (s : State) (e : Eng) (d : Scale) (h : Hops) : Option State :=
  let b := ((s.core e.p).ctx e.x).chainBuf e.q
  let m := b.got.headD default
  let recv := fun (st : Nat) => match s.streamD? st with
    | none => none
    | some d => s.takeUnit e.p d
  if b.phase = phReceive then match h.inS with
    | none => some (s.setChainBuf e { b with phase := phSend })
    | some st => (recv st).map (fun r =>
        (r.2.consumeIf e r.1.2).setChainBuf e { b with phase := phSend, got := [wordUnit [maxCode (unitWord m 0) (unitWord r.1 0)] (m.2 || r.1.2)] })
  else if b.phase = phSend then match h.outS with
    | none => let r := s.scalePair d m
              some ((r.2.putPair e d.tensor r.1).setChainBuf e { b with phase := phBack, got := [r.1] })
    | some st => s.amaxSend e st phReturn b m
  else if b.phase = phReturn then match h.retIn with
    | none => none
    | some st => (recv st).map (fun r => ((r.2.consumeIf e r.1.2).putPair e d.tensor r.1).setChainBuf e { b with phase := phBack, got := [r.1] })
  else match h.retOut with
    | none => some (s.progress e.p e.x e.q 1)
    | some st => (s.amaxSend e st phBack b m).map (fun t => t.progress e.p e.x e.q 1)

/-- Run an AMAX's phases until it waits or is done; a wait for a credit stalls its sender (R227). Fuel bounds the phases. -/
def State.amaxRun (s : State) (e : Eng) (d : Scale) (h : Hops) : Nat → State
  | 0 => s
  | k + 1 =>
    match ((s.core e.p).ctx e.x).current e.q with
    | none => s
    | some c =>
      if 0 < c.2 then s else match s.amaxPhase e d h with
        | none =>
          let b := ((s.core e.p).ctx e.x).chainBuf e.q
          if b.phase = phSend ∨ b.phase = phBack then s.creditStall e.p else s
        | some t => t.amaxRun e d h k

/-- Measure a tensor (R121): the largest finite |x|, the others counted. -/
def State.measure (s : State) (c : LsCmd) : Run × SUnit :=
  let got := collect (s.readCanon c.e c.src) (List.range (ldCount c.src.d))
  let m := got.1.foldl (fun a y => noteMax a.1 a.2 y.num) ((0 : W32), 0)
  let hit := got.1.any (fun y => y.hit)
  (⟨((s.cacheSpans c.e c.src.spans).bump64 0x603005 m.2).consumeIf c.e hit, got.2⟩, wordUnit [m.1] (hit || c.e.mark))

/-- A started AMAX: measured where its mode asks for it (R125), then through its chain or into its own cell. -/
def State.amaxGo (s : State) (c : LsCmd) : State :=
  match s.declOf c.l with
  | none => s
  | some d =>
    if d.mode = smHistory ∧ s.window d c.e.n ≠ [] then s.progress c.e.p c.e.x c.e.q 1 else
    let r := s.measure c
    match r.1.fault with
    | some f => r.1.s.accessFault c.e.p c.e.x c.e.q f.1 f.2
    | none =>
      let t := r.1.s
      match t.maxChain d.tensor with
      | none => let q := t.scalePair d r.2
                (q.2.putPair c.e d.tensor q.1).progress c.e.p c.e.x c.e.q 1
      | some ch => match t.memberOf ch ((t.core c.e.p).ctx c.e.x).bind.lcore with
        | none => t.badCmd c.e
        | some i => (t.setChainBuf c.e { phase := phReceive, got := [r.2], acc := [], owed := false, toSend := [] }).amaxRun c.e d (t.hops ch i) 5

/-- An AMAX that is under way goes on. -/
def State.amaxOn (s : State) (p x : Nat) (l : Line) : State :=
  match s.declOf l with
  | none => s
  | some d => match s.maxChain d.tensor with
    | none => s
    | some ch => match s.memberOf ch ((s.core p).ctx x).bind.lcore with
      | none => s
      | some i => s.amaxRun (s.eng p x qLoad) d (s.hops ch i) 5

/-- A load command of a kind that is under way. -/
def Core.runningKind (c : Core) (x kind : Nat) : Option Line :=
  match (c.ctx x).current qLoad with
  | none => none
  | some e => if (c.ctx x).alive && !c.halted.contains qLoad && decide (lsKind e.1 = kind ∧ e.2 = 0) then some e.1 else none

/-- AMAX (R214): a first execution measures, and later ones carry it along its maximum chain. -/
def execAmax (p : Nat) (x : Fin 4) (s : State) : Out :=
  match (s.core p).runningKind x.val lkAmax with
  | some l => s.onCore p (fun _ => .next (s.amaxOn p x.val l))
  | none => s.lsStart p x.val qLoad lkAmax (fun _ c => c.src.spans) (fun _ _ => []) State.amaxBad State.amaxGo

/- GATHER (R216, R217). -/

/-- A unit of a gather: its bytes and whether they or its index hit. -/
abbrev GUnit := List Byte × Bool

/-- Read units from k on by the plain path; fuel counts the units left. -/
def State.gatherUnits (s : State) (c : LsCmd) : Nat → Nat → List GUnit × Option (Int × Nat)
  | 0, _ => ([], none)
  | m + 1, k =>
    match s.unitAt c k false with
    | .fault a f => ([], some (a, f))
    | .ok (a, hit) =>
      let b := s.readSpan c.e (ldSpace c.mem.d) a (unitBytesOf c.mem.d)
      let t := s.gatherUnits c m (k + 1)
      ((b.1, b.2 || hit) :: t.1, t.2)

/-- Element n of gathered units; a unit that was not read faults as its access did. -/
def gatherEl (d : LDesc) (us : List GUnit) (f : Int × Nat) (n : Nat) : Got El :=
  let e := ldN d 0
  match us[n / e]? with
  | none => .fault f.1 f.2
  | some u =>
    let i := n % e
    let b := ldBits d
    let code := if b = 4 then bits (fieldAt u.1 (i / 2) 1) (4 * (i % 2)) 4 else fieldAt u.1 (i * b / 8) (b / 8)
    .ok (elOf d (code, u.2))

/-- Write gathered units to the core side, and end the command. -/
def State.gatherPut (s : State) (c : LsCmd) (us : List GUnit) (f : Option (Int × Nat)) : State :=
  match s.casterOf c with
  | none => s
  | some k => (s.moveAll c.e c.dst k (lsIndexBase c.l) (fun _ n => gatherEl c.mem.d us (f.getD (0, 4)) n)).finish c.e

/- The narrow path (R192-R194). -/

/-- The requests of a unit of n bytes at a (R192): two where it crosses a 64 B boundary, each at the place that reads of its first byte go
to; none where one does not read HBM. DESIGN CHOICE (log 107): a unit of 12, 20, 24 or 28 B, which R216 allows and R192 does not list, is a
request of its own size. -/
def State.unitReqs (s : State) (c : LsCmd) (k a n : Nat) (hit : Bool) : Option (List NReq) :=
  let m := min n (64 - a % 64)
  let req := fun (b l : Nat) => match s.readPlace c.e spHbm b with
    | .hbm h => some [{ p := c.e.p, ctx := c.e.x, unit := k, part := b - a, addr := h, size := l, hit := hit : NReq }]
    | _ => none
  match req a m, if m < n then req (a + m) (n - m) else some [] with
  | some r, some t => some (r ++ t)
  | _, _ => none

/-- The requests of a gather from unit k on, at the places its reads go to; none where a unit faults or is not read from HBM. -/
def State.narrowReqs (s : State) (c : LsCmd) : Nat → Nat → Option (List NReq)
  | 0, _ => some []
  | m + 1, k =>
    match s.unitAt c k false with
    | .fault _ _ => none
    | .ok (a, hit) => match s.unitReqs c k a (unitBytesOf c.mem.d) hit, s.narrowReqs c m (k + 1) with
      | some rs, some t => some (rs ++ t)
      | _, _ => none

/-- A gather takes the narrow path (R217). -/
def LsCmd.narrow (c : LsCmd) : Bool := decide (ldSpace c.mem.d = spHbm ∧ unitBytesOf c.mem.d ≤ 32)

/-- Entries of a pseudo-channel's window. -/
def State.nwin (s : State) (die pc : Nat) : List NEntry := s.mem.narrow.filter (fun e => decide (e.die = die ∧ s.linePc die e.line = pc))

def State.setNarrow (s : State) (e : NEntry) : State :=
  { s with mem := { s.mem with narrow := s.mem.narrow.map (fun f => if f.die = e.die ∧ f.line = e.line then e else f) } }

/-- The oldest entry of a window that has not issued its read issues it (R193), while its stack does not retrain (R186). DESIGN CHOICE (log
31): an entry whose read is under way is not the oldest any more. -/
def State.issueNarrow (s : State) (die pc : Nat) : State :=
  match (s.nwin die pc).find? (fun e => e.read.isNone) with
  | none => s
  | some e =>
    if s.o (kStack (s.lineStack die e.line) 1) = 1 then s else
    let a := hbmAddr die (64 * e.line)
    (s.setNarrow { e with read := some (BitVec.ofNat 512 (ofLe (s.hbmBytes a 64)), s.hbmLineHit (a / 64)) }).bump64 0x840004 1

/-- A request enters its window: it joins its line's entry, or takes a free one; none while the window is full. A window that fills issues
its oldest entry. -/
def State.enterNarrow (s : State) (r : NReq) : Option State :=
  let die := hbmDie r.addr
  let line := hbmLocal r.addr / 64
  match s.mem.narrow.find? (fun e => decide (e.die = die ∧ e.line = line)) with
  | some e => some (((s.setNarrow { e with reqs := e.reqs ++ [r] }).bump64 0x840002 1).bump64 0x840003 1)
  | none =>
    let n := (s.nwin die (s.linePc die line)).length
    if 64 ≤ n then none else
    let e : NEntry := { die := die, line := line, reqs := [r], read := none }
    let s := ({ s with mem := { s.mem with narrow := s.mem.narrow ++ [e] } } : State).bump64 0x840002 1
    some (if n = 63 then s.issueNarrow die (s.linePc die line) else s)

/-- Let waiting requests enter, those of one command in order (R193); `held` lists the commands of which one still waits. -/
def State.admitNarrow (s : State) (held : List (Nat × Nat)) : List NReq → State × List NReq
  | [] => (s, [])
  | r :: t =>
    if held.contains (r.p, r.ctx) then let z := s.admitNarrow held t
                                       (z.1, r :: z.2)
    else match s.enterNarrow r with
      | some s => s.admitNarrow held t
      | none => let z := s.admitNarrow ((r.p, r.ctx) :: held) t
                (z.1, r :: z.2)

def State.admitWaiting (s : State) : State :=
  let z := s.admitNarrow [] s.mem.narrowWait
  { z.1 with mem := { z.1.mem with narrowWait := z.2 } }

/-- Forget the requests of a context, which a command no longer under way has left (R400). -/
def State.dropNarrow (s : State) (p x : Nat) : State :=
  let keep := fun (r : NReq) => decide (¬ (r.p = p ∧ r.ctx = x))
  { s with mem := { s.mem with narrow := s.mem.narrow.map (fun (e : NEntry) => { e with reqs := e.reqs.filter keep }),
                               narrowWait := s.mem.narrowWait.filter keep, served := s.mem.served.filter (fun e => keep e.1) } }

/-- A started GATHER: by the narrow path, or unit by unit. -/
def State.gatherGo (s : State) (c : LsCmd) : State :=
  match (if c.narrow then s.narrowReqs c (ldCount c.idx) 0 else none) with
  | some rs =>
    let s := (s.cacheSpans c.e (s.unitSpans c)).dropNarrow c.e.p c.e.x
    { s with mem := { s.mem with narrowWait := s.mem.narrowWait ++ rs } }.admitWaiting
  | none =>
    let g := s.gatherUnits c (ldCount c.idx) 0
    (s.cacheSpans c.e (s.unitSpans c)).gatherPut c g.1 g.2

/-- GATHER (R216, R217). -/
def execGather (p : Nat) (x : Fin 4) (s : State) : Out :=
  s.lsStart p x.val qLoad lkGather State.unitSpans (fun _ _ => []) State.indexBad State.gatherGo

/-- The bytes of unit k that the narrow path has served, its first part before its second. -/
def State.servedUnit (s : State) (p x k : Nat) : GUnit :=
  let l := s.mem.served.filter (fun e => decide (e.1.p = p ∧ e.1.ctx = x ∧ e.1.unit = k))
  let l := match l with
    | [a, b] => if a.1.part ≤ b.1.part then [a, b] else [b, a]
    | _ => l
  (l.flatMap (fun e => e.2.1), l.any (fun e => e.2.2))

/-- No request of a context is still to be served. -/
def State.narrowDone (s : State) (p x : Nat) : Bool :=
  let mine := fun (r : NReq) => decide (r.p = p ∧ r.ctx = x)
  !s.mem.narrowWait.any mine && !s.mem.narrow.any (fun e => e.reqs.any mine)

/-- A gather whose every request is served writes its units. -/
def State.gatherEnd (s : State) (p x : Nat) : State :=
  match (s.core p).runningKind x lkGather with
  | none => s.dropNarrow p x
  | some l =>
    if !s.narrowDone p x then s else
    match s.lsCmd (s.eng p x qLoad) l with
    | .fault _ _ => s
    | .ok c => (s.gatherPut c ((List.range (ldCount c.idx)).map (fun k => s.servedUnit p x k)) none).dropNarrow p x

/-- Serve every request of an entry from the bytes of its read (R194). -/
def NEntry.serve (e : NEntry) (l : Line × Bool) : List (NReq × List Byte × Bool) :=
  e.reqs.map (fun r => (r, bytesAt (leBytes 64 l.1.toNat) (r.addr % 64) r.size, l.2 || r.hit))

/-- The commands that requests belong to. -/
def reqOwners (rs : List NReq) : List (Nat × Nat) := (rs.map (fun r => (r.p, r.ctx))).eraseDups

/-- The read of a window's oldest issued entry returns. -/
def State.returnNarrow (s : State) (die pc : Nat) : State :=
  match (s.nwin die pc).find? (fun e => e.read.isSome) with
  | none => s
  | some e => match e.read with
    | none => s
    | some l =>
      let s := { s with mem := { s.mem with narrow := s.mem.narrow.filter (fun f => decide (¬ (f.die = e.die ∧ f.line = e.line))),
                                            served := s.mem.served ++ e.serve l } }
      (reqOwners e.reqs).foldl (fun t o => t.gatherEnd o.1 o.2) s.admitWaiting

/-- A pseudo-channel of the grade. -/
def State.onPc (s : State) (die pc : Nat) (f : State) : Out :=
  if s.grade.dies ≤ die ∨ 128 ≤ pc then .refused .illFormed else .next f

/-- NARROW_ENTRY_TIMEOUT (R193): 32 cycles have passed since the oldest entry was allocated. -/
def execNarrowEntryTimeout (die pc : Nat) (s : State) : Out := s.onPc die pc (s.issueNarrow die pc)

/-- NARROW_LINE_RETURN (R193, R194). -/
def execNarrowLineReturn (die pc : Nat) (s : State) : Out := s.onPc die pc (s.returnNarrow die pc)

/-- WCB_IDLE_FLUSH (R189): the line's entry is flushed, with the entries of its buffer that are older, oldest first; a
retraining stack holds it (R186). -/
def execWcbIdleFlush (die pc line : Nat) (s : State) : Out :=
  s.onPc die pc (if s.pcHeld die pc then s else (s.flushDue die pc (fun e => decide (e.line = line))).poisonFull)

end Sys2Proof.Machine
end

