-- ==== Sys2Proof/Machine/StoreEngine.lean ====
section
/-! DEFINITION. The store engine's commands (R207-R223). -/

namespace Sys2Proof.Machine

/-- STORE_COPY (R210-R212): core store to base store or HBM. -/
def execStoreCopy (p : Nat) (x : Fin 4) (s : State) : Out :=
  s.lsStart p x.val qStore lkCopy (fun _ _ => []) (fun _ c => c.dst.spans) State.copyBad (fun s c => match s.casterOf c with
    | none => s
    | some k => (s.copyRun c k).finish c.e)

/-- The elements of unit k of the core side. -/
def State.unitEls (s : State) (c : LsCmd) (k : Nat) : List El × Option (Int × Nat) :=
  let n := ldN c.mem.d 0
  collect (s.readCanon c.e c.core) ((List.range n).map (fun i => k * n + i))

/-- Mark elements whose index hit. -/
def markEls (hit : Bool) (els : List El) : List El := els.map (fun y => { y with hit := y.hit || hit })

/-- Write the units of a SCATTER from k on (R218); fuel counts the units left. -/
def State.scatterGo (s : State) (c : LsCmd) (k : Caster) : Nat → Nat → Run
  | 0, _ => ⟨s, none⟩
  | m + 1, u =>
    match s.unitAt c u true with
    | .fault a f => ⟨s, some (a, f)⟩
    | .ok (a, hit) =>
      let got := s.unitEls c u
      let els := markEls hit got.1
      let out := castRow c.e.n (ldFmt c.dst.d) k (lsIndexBase c.l + u * ldN c.mem.d 0) els
      let s := s.putEls c.e (ldSpace c.dst.d) (ldBits c.dst.d) a k out els
      match got.2 with
      | some f => ⟨s, some f⟩
      | none => s.scatterGo c k m (u + 1)

/-- SCATTER (R216, R218). -/
def execScatter (p : Nat) (x : Fin 4) (s : State) : Out :=
  s.lsStart p x.val qStore lkScatter (fun _ _ => []) State.unitSpans State.indexBad (fun s c => match s.casterOf c with
    | none => s
    | some k => (s.scatterGo c k (ldCount c.idx) 0).finish c.e)

/-- Rules of R219 and R236 on a SCATTER_ADD: the formats, and no declaration, the sum being rounded to nearest. -/
def State.addBad (s : State) (c : LsCmd) : Bool :=
  s.indexBad c || decide (ldFmt c.dst.d ∉ [fFP32, fBF16, fFP16]) || decide (ldFmt c.src.d ≠ fFP32 ∧ ldFmt c.src.d ≠ ldFmt c.dst.d) ||
  decide (lsDecl c.l ≠ noneField)

/-- One accumulated element (R219): the sum is exact before its one rounding. -/
def addEl (fmt : Nat) (m : Nat × Bool) (v : El) : El × CastR :=
  let r := castNum fmt .rne (Num.add false (decode fmt m.1) v.num)
  ({ num := v.num, code := r.code, hit := m.2 || v.hit }, r)

/-- The area of an engine: its step's own, or its replay's. -/
def Eng.addArea (e : Eng) : Nat := if e.replay then e.area + 1 else 0

/-- Another core has accumulated into some byte of [a, a + n) in the step, and nothing that could order it before this core has come by a stream
(R219, R268). -/
def State.addClash (s : State) (e : Eng) (space : Nat) (a n : Nat) : Bool :=
  s.mem.added.any (fun b => decide (b.n = e.n ∧ b.area = e.addArea ∧ b.p ≠ e.p ∧ b.space = space ∧ a < b.addr + b.bytes ∧ b.addr < a + n) &&
    !b.after.contains e.p)

/-- Note a unit that a SCATTER_ADD has accumulated into. -/
def State.noteAdd (s : State) (e : Eng) (space : Nat) (a n : Nat) : State :=
  let b : Added := { n := e.n, p := e.p, area := e.addArea, space := space, addr := a, bytes := n, after := [] }
  { s with mem := { s.mem with added := b :: s.mem.added.filter (fun c => decide (c ≠ b)) } }

/-- The codes that an accumulation leaves: free where another core's overlaps (R268, log 110). -/
def State.addCodes (s : State) (clash : Bool) (b : Nat) (codes : List (Nat × Bool)) : List (Nat × Bool) × State :=
  if !clash then (codes, s)
  else (codes.zipIdx.map (fun c => ((Config.freeValue (s.fresh + c.2)).toNat % 2 ^ b, c.1.2)), { s with fresh := s.fresh + codes.length })

/-- Accumulate into the units from u on (R219); fuel counts the units left. -/
def State.addGo (s : State) (c : LsCmd) : Nat → Nat → Run
  | 0, _ => ⟨s, none⟩
  | m + 1, u =>
    match s.unitAt c u true with
    | .fault a f => ⟨s, some (a, f)⟩
    | .ok (a, hit) =>
      if !s.mapped c.e (ldSpace c.dst.d) a (unitBytesOf c.dst.d) false then ⟨s, some (a, 4)⟩ else
      let got := s.unitEls c u
      let s := s.cow c.e (ldSpace c.dst.d) a (unitBytesOf c.dst.d)
      let b := ldBits c.dst.d
      let rs := (markEls hit got.1).zipIdx.map (fun y => addEl (ldFmt c.dst.d) (s.codeAt c.e (ldSpace c.dst.d) b a y.2) y.1)
      let w := s.addCodes (s.addClash c.e (ldSpace c.dst.d) a (unitBytesOf c.dst.d)) b (rs.map (fun r => (r.1.code, r.1.hit)))
      let out : CastOut := ⟨w.1, [], rs.map (fun r => r.2)⟩
      let s := (w.2.putEls c.e (ldSpace c.dst.d) b a .rne out (rs.map (fun r => r.1))).noteAdd c.e (ldSpace c.dst.d) a (unitBytesOf c.dst.d)
      match got.2 with
      | some f => ⟨s, some f⟩
      | none => s.addGo c m (u + 1)

/-- SCATTER_ADD (R216, R219). -/
def execScatterAdd (p : Nat) (x : Fin 4) (s : State) : Out :=
  s.lsStart p x.val qStore lkScatterAdd State.unitSpans State.unitSpans State.addBad
    (fun s c => ((s.cacheSpans c.e (s.unitSpans c)).addGo c (ldCount c.idx) 0).finish c.e)

/-- STORE_STASH (R223). -/
def execStoreStash (p : Nat) (x : Fin 4) (s : State) : Out :=
  s.lsStart p x.val qStore lkStash (fun _ _ => []) State.stashSpans State.stashBad (fun s c => (s.stashRun c).finish c.e)

end Sys2Proof.Machine
end

