-- ==== Sys2Proof/Machine/VerifyForm.lean ====
section
/-! DEFINITION. The verifier's checks of an image's records (R264): resources, vat tree, declarations, placement and reserves. Code, templates
and groups stand in VerifyCode. -/

namespace Sys2Proof.Machine

/-- A rejection. -/
def reject (check sec entry offset : Nat) : Option Fail :=
  some { check := check, sec := sec, entry := entry, offset := offset, status := stVerifierReject }

/-- The image needs a unit that is absent (R270). -/
def absent (sec entry offset : Nat) : Option Fail := some { check := 3, sec := sec, entry := entry, offset := offset, status := stAbsent }

/-- The first failure of a list of checks. -/
def firstFail : List (Unit → Option Fail) → Option Fail
  | [] => none
  | f :: t => match f () with
    | some e => some e
    | none => firstFail t

/-- The first record of a section at fault, f answering the offset. -/
def onRecords {α : Type} (check sec : Nat) (l : List α) (f : Nat → α → Option Nat) : Option Fail :=
  match firstBad f 0 l with
  | some (i, o) => reject check sec i o
  | none => none

/-- An offset at fault where the condition holds. -/
def atOff (o : Nat) (bad : Bool) : Option Nat := if bad then some o else none

/-- The first offset at fault. -/
def firstOff : List (Option Nat) → Option Nat
  | [] => none
  | some o :: _ => some o
  | none :: t => firstOff t

/-- Ranges [a, a + n) and [b, b + m) meet. -/
def meet (a n b m : Nat) : Bool := decide (a < b + m ∧ b < a + n)

/- Units (R7, R224, R270, R287, R289). -/

/-- Bits of 0x2000:00 for die d and its stacks. -/
def dieUnits (d : Nat) : Nat := 2 ^ (16 + d) + 3 * 2 ^ (8 + 2 * d)

/-- The dies that an image's content needs; a logical core past the last die is the RESOURCES check's. -/
def Image.dies (im : Image) : List Nat :=
  ((List.range ((im.lcores + 127) / 128) ++ im.binds.map (fun b => lcoreDie b.lcore) ++ im.regions.map (fun r => r.die)).filter
    (fun d => decide (d < 4))).eraseDups

/-- Units that the records of an image need; the FP64 lanes come with its groups. -/
def Image.units (im : Image) (fp64 : Bool) : Nat :=
  (im.dies.foldl (fun m d => m ||| dieUnits d) (if fp64 then 1 else 0)) |||
  (if im.streams.any (fun d => decide (epType d.src = epExpansion ∨ epType d.dst = epExpansion)) then 2 else 0)

/-- An expansion endpoint that the partner has not declared. -/
def State.endpointMissing (s : State) (e : W32) : Bool :=
  decide (epType e = epExpansion) && (!s.grade.expansion || (s.endpointOf (epNumber e)).isNone)

/-- Records that need an absent unit (R270). -/
def State.unitsRecords (s : State) (h : Header) (im : Image) : Option Fail :=
  let g := s.grade
  firstFail
    [fun _ => if h.required &&& g.presentUnits ≠ h.required then absent 0 0 8 else none,
     fun _ => if g.dies < (min im.lcores 512 + 127) / 128 then absent 0 0 12 else none,
     fun _ => (firstBad (fun _ (b : Bind) => atOff 0 (decide (g.dies ≤ lcoreDie b.lcore ∧ b.lcore < 512))) 0 im.binds).bind
                (fun e => absent 4 e.1 e.2),
     fun _ => (firstBad (fun _ (r : Region) => atOff 4 (decide (g.dies ≤ r.die))) 0 im.regions).bind (fun e => absent 6 e.1 e.2),
     fun _ => (firstBad (fun _ (d : StreamD) => firstOff [atOff 4 (s.endpointMissing d.src), atOff 8 (s.endpointMissing d.dst)]) 0
                im.streams).bind (fun e => absent 0x0A e.1 e.2)]

/- Resources (R41, R57, R225, R239, R240). -/

/-- The records of one logical core before record i. -/
def Image.bindsBefore (im : Image) (i lcore : Nat) : List Bind := (im.binds.take i).filter (fun c => decide (c.lcore = lcore))

/-- What is wrong with the resources of binding i. -/
def Image.bindBad (im : Image) (raw : List Byte) (code data i : Nat) (b : Bind) : Option Nat :=
  let old := im.bindsBefore i b.lcore
  firstOff
    [atOff 0 (decide (im.lcores ≤ b.lcore)), atOff 2 (old.any (fun c => decide (c.ctx = b.ctx))), reservedBad (reservedOf 4) raw,
     atOff 8 (decide (16384 < b.codeBase + b.codeLen) || old.any (fun c =>
       meet c.codeBase c.codeLen b.codeBase b.codeLen &&
       !decide (c.codeBase = b.codeBase ∧ c.codeLen = b.codeLen ∧ c.codeOffset = b.codeOffset))),
     atOff 10 (decide (b.codeLen = 0 ∨ 16384 < b.codeLen)), atOff 12 (decide (b.codeLen ≤ b.entry)),
     atOff 14 (decide (8192 < b.dmemBase + b.dmemLen) || old.any (fun c => meet c.dmemBase c.dmemLen b.dmemBase b.dmemLen)),
     atOff 16 (decide (b.dmemLen = 0 ∨ 8192 < b.dmemLen)), atOff 18 (decide (im.ranges.length < b.rangeFirst + b.rangeCount)),
     atOff 20 (decide (b.rangeCount = 0 ∨ 64 < b.rangeCount)),
     atOff 24 (decide (b.codeOffset % 4 ≠ 0 ∨ code < b.codeOffset + 4 * b.codeLen)),
     atOff 28 (decide (data < b.dmemOffset + 4 * b.dmemLen))]

/-- Bytes of core store (R41). -/
def coreStoreBytes : Nat := 16 * csBank

/-- What is wrong with a range record (R240). -/
def rangeRecBad (raw : List Byte) (data : Nat) (r : Range) : Option Nat :=
  firstOff
    [atOff 0 (decide (r.start % 64 ≠ 0)),
     atOff 4 (decide (r.length % 64 ≠ 0 ∨ r.length = 0 ∨ coreStoreBytes < r.start + r.length)),
     atOff 8 (decide (3 < r.kind)), reservedBad (reservedOf 5) raw,
     atOff 12 (if r.kind = rgStatic then decide (data < r.initOffset + r.length) else decide (r.initOffset ≠ noneField))]

/-- Ranges of a binding. -/
def Image.rangesOf (im : Image) (b : Bind) : List Range := (im.ranges.drop b.rangeFirst).take b.rangeCount

/-- Staging bytes of a logical core's contexts (R57). -/
def Image.staging (im : Image) (lcore : Nat) : Nat :=
  (((im.binds.filter (fun b => decide (b.lcore = lcore))).flatMap im.rangesOf).filter (fun r => decide (r.kind = rgStaging))).foldl
    (fun n r => n + r.length) 0

/-- Credits of the streams that end at one core port (R225). -/
def Image.portCredits (im : Image) (e : W32) : Nat :=
  ((im.streams.filter (fun d => decide (d.dst = e))).map (fun d => d.credits)).foldl (· + ·) 0

/-- The RESOURCES check of the records (R264). -/
def State.resourcesRecords (s : State) (t : State) (ss : List Section) (im : Image) : Option Fail :=
  let code := (findSection ss 1).len
  let data := (findSection ss 2).len
  let raw4 := t.entriesAt ss 4
  let raw5 := t.entriesAt ss 5
  firstFail
    [fun _ => if min s.healthyLcores s.grade.lcores < im.lcores then reject 5 0 0 12 else none,
     fun _ => if 1024 < im.vats.length then reject 5 0 0 20 else none,
     fun _ => onRecords 5 4 im.binds (fun i b => im.bindBad (raw4.getD i []) code data i b),
     fun _ => onRecords 5 5 im.ranges (fun i r => rangeRecBad (raw5.getD i []) data r),
     fun _ => onRecords 5 4 im.binds (fun _ b => atOff 18 (decide (2097152 < im.staging b.lcore))),
     fun _ => onRecords 5 0x0A im.streams (fun _ d => atOff 13 (decide (epType d.dst = epCore) && decide (256 < im.portCredits d.dst)))]

/- The vat tree (R242-R245). -/

/-- What is wrong with vat i. -/
def State.vatBad (t : State) (raw : List Byte) (im : Image) (i : Nat) (v : Vat) : Option Nat :=
  let children := im.vats.any (fun w => decide (w.parent = v.num))
  let segs := t.segments
  firstOff
    [atOff 0 (decide (v.num ≠ i)), atOff 2 (if i = 0 then decide (v.parent ≠ 0xFFFF) else decide (i ≤ v.parent)),
     reservedBad (reservedOf 3) raw, atOff 2 (t.isLeaf v.num == children),
     atOff 4 (segs.contains i && segs.any (fun g => decide (g ≠ i) && t.beneath i g)),
     atOff 12 (decide (im.ilv.length < v.ilvFirst + v.ilvCount) || (children && decide (v.ilvCount ≠ 0)))]

/-- The TREE check: every logical core of the image lies in one segment, with all its contexts (R245). -/
def State.treeCheck (t : State) (ss : List Section) (im : Image) : Option Fail :=
  let raw := t.entriesAt ss 3
  firstFail
    [fun _ => onRecords 6 3 im.vats (fun i v => t.vatBad (raw.getD i []) im i v),
     fun _ => onRecords 6 4 im.binds (fun _ b => atOff 4 (decide (im.vats.length ≤ b.vat))),
     fun _ => onRecords 6 4 im.binds (fun _ b => atOff 4 (decide (t.segmentOf b.vat = none) ||
                im.binds.any (fun c => decide (c.lcore = b.lcore ∧ t.segmentOf c.vat ≠ t.segmentOf b.vat)))),
     fun _ => if (List.range im.lcores).all (fun l => im.binds.any (fun b => decide (b.lcore = l))) then none else reject 6 0 0 12]

/- Encodings of the declarations (R127, R151, R224, R252, R258, R259, R318, R320, R336, R371). -/

/-- A reserved endpoint type or a non-zero reserved bit. -/
def endpointBad (e : W32) : Bool :=
  if epType e = epCore then decide (bits e.toNat 10 18 ≠ 0)
  else if epType e = epTorus then decide (bits e.toNat 10 3 ≠ 0)
  else if epType e = epExpansion then decide (bits e.toNat 8 20 ≠ 0)
  else true

/-- Reserved codes of a record of a section, as an offset. -/
def codeBad (ty : Nat) (raw : List Byte) : Option Nat :=
  match ty with
  | 6 => let r := regionOf raw
         firstOff [atOff 4 (decide (4 < r.kind ∨ r.perm = 0)), atOff 8 (decide (r.sizeMib = 0))]
  | 7 => let d := scaleOf raw
         atOff 4 (decide (d.mode = 3) || fmtReserved d.fmt)
  | 9 => let d := stashOf raw
         atOff 4 (decide (d.mode = 3) || fmtReserved d.srcFmt)
  | 0x0A => let d := streamOf raw
            firstOff [atOff 4 (endpointBad d.src), atOff 8 (endpointBad d.dst), atOff 12 (decide (d.cls ≠ 0 ∧ d.cls ≠ 2)),
                      atOff 13 (decide (d.credits < 4))]
  | 0x0B => let d := chainOf raw
            atOff 4 (decide (4 < d.op ∨ d.mode = 3))
  | 0x0E => atOff 2 (decide (4 < (budgetOf raw).queue))
  | 0x10 => firstOff [atOff 0 (decide (1 < bits (fieldAt raw 0 1) 4 4)),
                      if bits (fieldAt raw 0 1) 4 4 = 1 then
                        firstOff [atOff 2 (decide (4 ≤ fieldAt raw 2 2)), atOff 8 (decide (fieldAt raw 8 4 ≠ 0))]
                      else none]
  | _ => none

/-- Reserved codes and fields of the declarations, section by section. -/
def State.declEncoding (t : State) (ss : List Section) : Option Fail :=
  firstFail ([6, 7, 8, 9, 0x0A, 0x0B, 0x0D, 0x0E, 0x0F, 0x10].map (fun ty => fun (_ : Unit) =>
    onRecords 7 ty (t.entriesAt ss ty) (fun _ raw => firstOff [reservedBad (reservedOf ty) raw, codeBad ty raw])))

/- Core-store ranges and banks (R61, R240). -/

/-- Ranges of two contexts of one core, or of one context, that meet where they may not. -/
def rangesClash (a b : Range) : Bool :=
  meet a.start a.length b.start b.length && !(decide (a.kind = rgStatic ∧ b.kind = rgStatic ∧ a.start = b.start ∧ a.length = b.length))

/-- Clashes within a list. -/
def clashIn : List Range → Bool
  | [] => false
  | a :: t => t.any (rangesClash a) || clashIn t

/-- What binding i may not own or list beside the bindings of its core before it. -/
def Image.ownershipBad (im : Image) (i : Nat) (b : Bind) : Option Nat :=
  let old := im.bindsBefore i b.lcore
  firstOff
    [atOff 3 (old.any (fun c => (List.range 5).any (fun k => c.own.getD k false && b.own.getD k false))),
     atOff 18 (clashIn (im.rangesOf b) || old.any (fun c => (im.rangesOf c).any (fun r => (im.rangesOf b).any (rangesClash r))))]

/- Placement and reserves (R126, R185, R202, R252, R254, R327, R328, R359, R460). -/

/-- MiB of the pending ledger share and mirror share of a die. -/
def State.pendingLedger (s : State) : Nat := s.grade.shareMib (s.o 0x502000)
def State.pendingMirror (s : State) : Nat := s.o kMirrorReserve / s.grade.dies

/-- The die-local address that the regions of a die may not pass, under the pending reserves; on die 0 the history region and the image
area lie above it. -/
def State.regionTop (s : State) (im : Image) (die : Nat) : Nat :=
  s.dieBytes die - (s.pendingLedger + s.pendingMirror + (if die = 0 then 1024 + 2 * im.historyMib else 0)) * mib

/-- MiB of partitions of a die before and with region i. -/
def Image.partitionMib (im : Image) (i die : Nat) : Nat :=
  (((im.regions.take (i + 1)).filter (fun r => decide (r.kind = rkPartition ∧ r.die = die))).map (fun r => r.sizeMib)).foldl (· + ·) 0

/-- Base-cached regions of a die among the first i + 1. -/
def Image.cachedCount (im : Image) (i die : Nat) : Nat :=
  ((im.regions.take (i + 1)).filter (fun r => decide (r.die = die) && r.baseCached)).length

/-- What is wrong with placed region i. -/
def State.regionBad (s : State) (im : Image) (i : Nat) (r : Region) : Option Nat :=
  firstOff
    [atOff 0 ((im.regions.take i).any (fun q => decide (q.num = r.num))),
     atOff 4 (decide (r.kind = rkFrozen ∧ r.perm ≠ 1) || (decide (r.kind = rkPartition) && r.baseCached) ||
              decide (16 < im.cachedCount i r.die)),
     atOff 8 (if r.kind = rkPartition then decide (896 < im.partitionMib i r.die)
              else decide (s.regionTop im r.die < hbmLocal r.addr + r.footprint * mib)),
     atOff 12 (decide (im.vats.length ≤ r.owner))]

/-- MiB of a die's replay area (R328). -/
def State.replayMib (t : State) (die : Nat) : Nat := t.segments.foldl (fun m g => max m (t.footprint g die)) 0

/-- Pages that the JOURNAL records ask of a die (R331, R371). -/
def Image.journalPages (im : Image) (die : Nat) : Nat :=
  (im.journal.map (fun d =>
    if d.isInput then
      (if im.regions.any (fun r => decide (r.num = d.target ∧ r.die = die)) then d.inputPages else 0)
    else if d.id = die then d.target else 0)).foldl (· + ·) 0

/-- What is wrong with JOURNAL record i (R336, R371). -/
def State.journalBad (s : State) (im : Image) (i : Nat) (d : JournalD) : Option Nat :=
  let old := (im.journal.take i).filter (fun e => e.isInput == d.isInput)
  firstOff
    [atOff 2 (old.any (fun e => decide (e.id = d.id)) || (!d.isInput && decide (s.grade.dies ≤ d.id))),
     if d.isInput then firstOff
       [atOff 8 (decide (d.bytes = 0 ∨ d.bytes % 64 ≠ 0)),
        atOff 4 (!im.regions.any (fun r => decide (r.num = d.target ∧ r.kind = rkWork ∧ 3 * d.bytes ≤ r.sizeMib * mib)))]
     else none]

/-- The records' part of the MEMORY check. -/
def State.memoryRecords (s : State) (t : State) (im : Image) : Option Fail :=
  let dies := List.range s.grade.dies
  let room := fun d => s.pendingLedger - t.replayMib d
  firstFail
    [fun _ => onRecords 10 6 im.regions (fun i r => s.regionBad im i r),
     fun _ => if dies.all (fun d => decide (t.replayMib d + 1024 ≤ s.pendingLedger)) then none else reject 10 0 0 0,
     fun _ => onRecords 10 0x10 im.journal (fun i d => s.journalBad im i d),
     fun _ => if dies.all (fun d => decide (im.journalPages d ≤ room d)) then none else reject 10 0x10 0 0]

/- Rules of declarations (R143, R171, R230, R236, R257, R258, R289, R318, R320, R326, R460). -/

/-- What is wrong with scale declaration i (R143). -/
def Image.scaleBad (im : Image) (i : Nat) (d : Scale) : Option Nat :=
  let m := d.margin.toNat
  firstOff
    [atOff 0 ((im.scales.take i).any (fun e => decide (e.tensor = d.tensor))),
     atOff 4 ((decide (d.mode ≠ smFixed) && !decide (d.fmt = 2 ∨ (4 ≤ d.fmt ∧ d.fmt ≤ 10))) || (d.mx && !fmtBlocks d.fmt)),
     atOff 5 (decide (64 < d.histLen) || (decide (d.histLen ≠ 0) && decide (d.mode ≠ smHistory))),
     atOff 8 (decide (m % 2 ^ 31 ≠ 0) && !decide (0x3F800000 ≤ m ∧ m ≤ 0x47800000)),
     atOff 12 (decide (d.fixedExp < -63 ∨ 63 < d.fixedExp))]

/-- What is wrong with cell i (R257). -/
def Image.cellBad (im : Image) (c : CellRec) : Option Nat :=
  firstOff
    [atOff 0 (!im.scales.any (fun d => decide (d.tensor = c.tensor))),
     atOff 8 (decide (c.cell % 8 ≠ 0) || !((im.binds.filter (fun b => decide (b.lcore = c.lcore))).flatMap im.rangesOf).any
       (fun r => decide (r.kind = rgCells) && r.holds c.cell 8))]

/-- What is wrong with stash declaration i (R171). -/
def Image.stashBad (im : Image) (i : Nat) (d : Stash) : Option Nat :=
  firstOff
    [atOff 0 ((im.stashes.take i).any (fun e => decide (e.num = d.num))),
     atOff 4 (decide (d.srcFmt ∉ [1, 2, 3]) || decide (d.mode = shLossless ∧ d.srcFmt = 2)),
     atOff 8 (!im.regions.any (fun r => decide (r.num = d.region ∧ r.kind = rkStash)))]

/-- A core endpoint of the image, or another kind of endpoint. -/
def Image.coreEndpoint (im : Image) (e : W32) : Bool := decide (epType e ≠ epCore ∨ epLcore e < im.lcores)

/-- The endpoint of TYPE 0x1 names a coordinate of the island that is not this module (R318, R326). -/
def State.torusEndpoint (s : State) (e : W32) : Bool :=
  let c := epCoord e
  decide (coordX c < s.dimX ∧ coordY c < s.dimY ∧ coordZ c < s.dimZ ∧ c ≠ s.coord)

/-- An expansion endpoint agrees with its stream (R289). -/
def State.endpointAgrees (s : State) (d : StreamD) (e : W32) (sink : Bool) : Bool :=
  match s.endpointOf (epNumber e) with
  | none => false
  | some r => (Nat.testBit r.toNat 15 == sink) && decide (bits r.toNat 13 2 = d.cls)

/-- What is wrong with stream i. -/
def State.streamBad (s : State) (im : Image) (i : Nat) (d : StreamD) : Option Nat :=
  let old := im.streams.take i
  let torus := decide (epType d.src = epTorus ∨ epType d.dst = epTorus)
  let one := fun (e : W32) (sink : Bool) =>
    (decide (epType e = epTorus) && !s.torusEndpoint e) || !im.coreEndpoint e ||
    (decide (epType e = epExpansion) && (!s.endpointAgrees d e sink || old.any (fun f => decide (f.src = e ∨ f.dst = e))))
  firstOff
    [atOff 0 (old.any (fun e => decide (e.num = d.num)) || (torus && decide (d.num = 0 ∨ 0xEFFF < d.num))),
     atOff 4 (one d.src false || (torus && decide (epType d.src ≠ epCore ∧ epType d.dst ≠ epCore))), atOff 8 (one d.dst true)]

/-- Members of a chain. -/
def Image.membersOf (im : Image) (c : ChainD) : List Nat := (im.members.drop c.memberFirst).take c.n

/-- The image declares stream num from one logical core to another. -/
def Image.hop (im : Image) (num from_ dest : Nat) : Bool :=
  im.streams.any (fun d => decide (d.num = num ∧ epType d.src = epCore ∧ epLcore d.src = from_ ∧ epType d.dst = epCore ∧ epLcore d.dst = dest))

/-- What is wrong with chain i (R230, R236, R258). -/
def Image.chainBad (im : Image) (i : Nat) (c : ChainD) : Option Nat :=
  let ms := im.membersOf c
  let least := if im.links.any (fun l => decide (l.chain = c.num)) then 1 else 2
  let hops := List.range (c.n - 1)
  firstOff
    [atOff 0 ((im.chains.take i).any (fun e => decide (e.num = c.num))), atOff 4 (decide (c.mode ≠ cmFp32 ∧ c.op ≠ coSum)),
     atOff 6 (decide (c.n < least ∨ 512 < c.n)),
     atOff 8 (decide (ms.length ≠ c.n) || !decide (ms.Nodup) || ms.any (fun l => decide (im.lcores ≤ l))),
     atOff 12 (!hops.all (fun k => im.hop (c.fwdBase + k) (ms.getD k 0) (ms.getD (k + 1) 0))),
     atOff 16 (if c.ret then !hops.all (fun k => im.hop (c.retBase + k) (ms.getD (k + 1) 0) (ms.getD k 0)) else decide (c.retBase ≠ noneField)),
     atOff 20 (decide (c.decl ≠ noneField) && (!im.scales.any (fun d => decide (d.tensor = c.decl ∧ d.mode ≠ smFixed)) ||
       decide (c.op ≠ coMax ∨ c.mode ≠ cmFp32) || !c.ret || (im.chains.take i).any (fun e => decide (e.decl = c.decl))))]

/-- A stream number of a LINKS record is a torus stream of the direction at a member's core. -/
def Image.linkStream (im : Image) (num lcore : Nat) (into : Bool) : Bool :=
  im.streams.any (fun d => decide (d.num = num) &&
    (if into then decide (epType d.src = epTorus ∧ epType d.dst = epCore ∧ epLcore d.dst = lcore)
     else decide (epType d.dst = epTorus ∧ epType d.src = epCore ∧ epLcore d.src = lcore)))

/-- What is wrong with LINKS record i (R320, R326). -/
def Image.linkBad (im : Image) (i : Nat) (l : LinkD) : Option Nat :=
  match im.chains.find? (fun c => decide (c.num = l.chain)) with
  | none => some 0
  | some c =>
    let ms := im.membersOf c
    let first := ms.getD 0 0
    let last := ms.getD (c.n - 1) 0
    let ok := fun (num lcore : Nat) (into need : Bool) =>
      if need then im.linkStream num lcore into else decide (num = noneField)
    firstOff
      [atOff 0 ((im.links.take i).any (fun e => decide (e.chain = l.chain))),
       atOff 4 (!ok l.inStream first true (decide (l.inStream ≠ noneField))),
       atOff 8 (!ok l.outStream last false (decide (l.outStream ≠ noneField))),
       atOff 12 (!ok l.retIn last true (c.ret && decide (l.outStream ≠ noneField))),
       atOff 16 (!ok l.retOut first false (c.ret && decide (l.inStream ≠ noneField)))]

/-- The LOSS section (R454, R460). -/
def State.lossCheck (t : State) (ss : List Section) (im : Image) : Option Fail :=
  match t.entriesAt ss 0x11 with
  | [] => none
  | raw :: more =>
    if more ≠ [] then reject 0x0B 0x11 1 0 else
    let l := fieldAt raw 0 2
    let a := fieldAt raw 4 4
    match firstOff
      [reservedBad (reservedOf 0x11) raw, atOff 0 (decide (im.lcores ≤ l)),
       atOff 4 (decide (a % 4 ≠ 0) || !((im.binds.filter (fun b => decide (b.lcore = l))).flatMap im.rangesOf).any
         (fun r => decide (r.kind = rgWork) && r.holds a 4))] with
    | some o => reject 0x0B 0x11 0 o
    | none => none

/-- The records' part of the MODES check. -/
def State.modesRecords (s : State) (t : State) (ss : List Section) (im : Image) : Option Fail :=
  firstFail
    [fun _ => onRecords 0x0B 7 im.scales im.scaleBad,
     fun _ => onRecords 0x0B 8 im.cells (fun _ c => im.cellBad c),
     fun _ => onRecords 0x0B 9 im.stashes im.stashBad,
     fun _ => onRecords 0x0B 0x0A im.streams (fun i d => s.streamBad im i d),
     fun _ => onRecords 0x0B 0x0B im.chains im.chainBad,
     fun _ => onRecords 0x0B 0x0F im.links im.linkBad,
     fun _ => t.lossCheck ss im]

/- Interleave lifetimes (R150, R171). -/

/-- The interleave entries of a vat. -/
def Image.ilvOfVat (im : Image) (v : Vat) : List (Nat × Nat) := (im.ilv.drop v.ilvFirst).take v.ilvCount

/-- Entry k of a table has no earlier forward entry where it needs one, or the reserved phase. -/
def ilvBad (l : List (Nat × Nat)) (k : Nat) : Bool :=
  let e := l.getD k (0, 0)
  decide (e.1 = 3) || (decide (e.1 ≠ 0) && !(l.take k).any (fun f => decide (f.1 = 0 ∧ f.2 = e.2)))

/-- First forward and last backward entry of a micro-batch. -/
def ilvSpan (l : List (Nat × Nat)) (mb : Nat) : Nat × Nat :=
  let at_ := fun (p : Nat) => (List.range l.length).filter (fun k => decide (l.getD k (0, 0) = (p, mb)))
  ((at_ 0).headD 0, (at_ 1).getLastD ((at_ 0).headD 0))

/-- The spans of two micro-batches overlap. -/
def spansMeet (l : List (Nat × Nat)) (a b : Nat) : Bool :=
  let x := ilvSpan l a
  let y := ilvSpan l b
  decide (a ≠ b) && l.any (fun e => decide (e.2 = a)) && l.any (fun e => decide (e.2 = b)) && decide (x.1 ≤ y.2 ∧ y.1 ≤ x.2)

/-- The interleave tables. -/
def Image.ilvCheck (im : Image) : Option Fail :=
  match im.vats.findSome? (fun v =>
    ((List.range v.ilvCount).find? (ilvBad (im.ilvOfVat v))).map (fun k => v.ilvFirst + k)) with
  | some k => reject 0x0C 0x0D k 0
  | none => none

end Sys2Proof.Machine
end

