-- ==== Sys2Proof/Machine/Trace.lean ====
section
/-! DEFINITION. What the verifier reads of an image's control code (R57, R259, R264, R265): each bound context's instructions are followed from
its entry point over the image's own data, and every value that only a run could give (core store that is not STATIC, the step number) is
left unknown. Where the path or an entry depends on such a value the trace is not exact. -/

namespace Sys2Proof.Machine

/-- What a followed context does: it pushes an entry from an address, waits on a counter or signals one. -/
inductive TraceEv where
  | push (q : Nat) (addr : Option Nat) (entry : Option Line) (patch : Bool)
  | wait (ctr value : Nat)
  | sig (ctr : Nat)
  deriving DecidableEq, Repr

/-- A context as followed: unlisted registers are zero, unlisted words of data memory those of the image, or unknown once a store went to an
unknown address. `fin` says how it ended: exactly, or on an unknown value. -/
structure Tracer where
  pc : Nat
  g : SMap (Option W32)
  words : SMap (Option W32)
  blind : Bool
  evs : List TraceEv
  fin : Option Bool
  deriving DecidableEq, Repr

def Tracer.reg (t : Tracer) (r : Nat) : Option W32 := if r = 0 then some 0 else if SMap.has r t.g then SMap.get none r t.g else some 0
def Tracer.set (t : Tracer) (r : Nat) (v : Option W32) : Tracer := { t with g := SMap.ins r v t.g, pc := t.pc + 4 }
def Tracer.note (t : Tracer) (e : TraceEv) : Tracer := { t with evs := t.evs ++ [e], pc := t.pc + 4 }
def Tracer.stop (t : Tracer) (exact : Bool) : Tracer := { t with fin := some exact }

/-- A followed value of two others. -/
def both (a b : Option W32) (f : W32 → W32 → W32) : Option W32 := a.bind (fun x => b.map (f x))

/-- A word of data memory as followed. -/
def Tracer.word (t : Tracer) (dmem : SMap Byte) (a : Nat) : Option W32 :=
  if SMap.has a t.words then SMap.get none a t.words else if t.blind then none else some (BitVec.ofNat 32 (Memory.num dmem a 4))

/-- The entry at a data address, where all its words are known. -/
def Tracer.entry (t : Tracer) (k : Ctx) (dmem : SMap Byte) (a : Nat) : Option Line :=
  let ws := (List.range 16).map (fun i => if k.inPartition (a + 4 * i) then t.word dmem (a + 4 * i) else none)
  if ws.all Option.isSome then some (BitVec.ofNat 512 (ofLe (ws.flatMap (fun w => leBytes 4 (w.getD 0).toNat)))) else none

/-- Go to a target: one outside the code traps, and ends the context (R50). -/
def Tracer.goTo (t : Tracer) (k : Ctx) (a : Option W32) : Tracer :=
  match a with
  | none => t.stop false
  | some a => if k.inCode a then { t with pc := a.toNat } else t.stop true

/-- The conditions of branches 0x10-0x15. -/
def branchTaken (op : Nat) (a b : W32) : Bool :=
  if op = 0x10 then decide (a = b) else if op = 0x11 then decide (a ≠ b) else if op = 0x12 then a.slt b
  else if op = 0x13 then !a.slt b else if op = 0x14 then a.ult b else !a.ult b

/-- The core-store word of an LCS: none where it traps, unknown outside STATIC ranges. -/
def State.traceLcs (t : State) (k : Ctx) (c : Core) (a : Nat) : Option (Option W32) :=
  let sc := t.scope k
  if a % 4 ≠ 0 || !sc.reads a 4 then none
  else if sc.inKind rgStatic a 4 then some (some (BitVec.ofNat 32 (ofLe (c.csBytes a 4)))) else some none

/-- Follow one instruction (R47, R48). -/
def State.traceInstr (s : State) (k : Ctx) (c : Core) (w : Nat) (t : Tracer) : Tracer :=
  let op := bits w 26 6
  let r1 := bits w 21 5
  let a := t.reg (bits w 16 5)
  let b := t.reg (bits w 11 5)
  let imm : W16 := BitVec.ofNat 16 w
  let addr := a.map (fun x => (x + imm.signExtend 32).toNat)
  if op = 1 then t.set r1 (both a b (aluWord (bits w 0 11)))
  else if op = 2 then t.set r1 (a.map (fun x => x + imm.signExtend 32))
  else if op = 3 then t.set r1 (a.map (fun x => x &&& imm.zeroExtend 32))
  else if op = 4 then t.set r1 (a.map (fun x => x ||| imm.zeroExtend 32))
  else if op = 5 then t.set r1 (some (imm.zeroExtend 32 <<< 16))
  else if op = 8 then match addr with
    | none => t.set r1 none
    | some m => if k.inPartition m then t.set r1 (t.word c.dmem m) else t.stop true
  else if op = 9 then match addr with
    | none => { t with words := [], blind := true, pc := t.pc + 4 }
    | some m => if k.inPartition m then { t with words := SMap.ins m (t.reg r1) t.words, pc := t.pc + 4 } else t.stop true
  else if op = 0x0A then match addr with
    | none => t.set r1 none
    | some m => match s.traceLcs k c m with
      | none => t.stop true
      | some v => t.set r1 v
  else if 0x10 ≤ op ∧ op ≤ 0x15 then match t.reg r1, a with
    | some x, some y => if branchTaken op x y then t.goTo k (some (BitVec.ofNat 32 t.pc + 4 * imm.signExtend 32)) else { t with pc := t.pc + 4 }
    | _, _ => t.stop false
  else if op = 0x18 then (t.set r1 (some (BitVec.ofNat 32 (t.pc + 4)))).goTo k
    (some (BitVec.ofNat 32 t.pc + 4 * (BitVec.ofNat 21 w).signExtend 32))
  else if op = 0x19 then (t.set r1 (some (BitVec.ofNat 32 (t.pc + 4)))).goTo k (a.map (fun x => x + imm.signExtend 32))
  else if op = 0x20 then
    let patch := Nat.testBit w 10
    let hi := t.reg ((bits w 11 5 + 1) % 32)
    let e := (a.bind (fun x => t.entry k c.dmem x.toNat)).bind (fun e =>
      if patch then b.bind (fun lo => hi.map (fun hi => patched e true lo hi)) else some e)
    t.note (.push (bits w 23 3) (a.map (fun x => x.toNat)) e patch)
  else if op = 0x21 then t.note (.wait (bits w 22 4) (bits w 0 16))
  else if op = 0x22 then t.note (.sig (bits w 22 4))
  else if op = 0x24 then t.set r1 none
  else t.stop true

/-- Follow instructions; fuel bounds them. -/
def State.traceGo (s : State) (k : Ctx) (c : Core) : Nat → Tracer → Tracer
  | 0, t => t.stop false
  | n + 1, t =>
    if t.fin.isSome then t
    else if !k.inCode (BitVec.ofNat 32 t.pc) then t.stop false
    else s.traceGo k c n (s.traceInstr k c (Memory.num c.imem t.pc 4) t)

/-- Instructions that the verifier follows of one context. -/
def traceFuel : Nat := 65536

/-- A bound context's trace: its core and number, its events, and whether they are all that a run can do. -/
structure Trace where
  p : Nat
  x : Nat
  evs : List TraceEv
  exact_ : Bool
  deriving DecidableEq, Repr

/-- An event whose entry is known. -/
def TraceEv.known (e : TraceEv) : Bool := match e with
  | .push _ a l _ => a.isSome && l.isSome
  | _ => true

/-- The trace of context x of core p. -/
def State.trace (s : State) (p x : Nat) : Trace :=
  let c := s.core p
  let k := c.ctx x
  let t := s.traceGo k c traceFuel
    { pc := 4 * (k.bind.codeBase + k.bind.entry), g := [], words := [], blind := false, evs := [], fin := none }
  { p := p, x := x, evs := t.evs, exact_ := decide (t.fin = some true) && t.evs.all TraceEv.known }

/-- The traces of every bound context. -/
def State.traces (s : State) : List Trace :=
  s.cores.flatMap (fun c => ((List.range 4).filter (fun x => (c.2.ctx x).bound)).map (fun x => s.trace c.1 x))

/-- The entries that a trace pushes from an address of a queue, and whether each is patched. -/
def Trace.pushesOf (t : Trace) (q a : Nat) : List Bool := t.evs.filterMap (fun e => match e with
  | .push q' a' _ patch => if q' = q ∧ a' = some a then some patch else none
  | _ => none)

/- Which commands may have started while another has not completed (R52, R55, R57). -/

/-- A run as far as it can go: what the control code has left, with the place of each event, each queue's commands in order, and the
counters. -/
structure Going where
  code : List (Nat × TraceEv)
  queues : SMap (List (Nat × Line))
  ctrs : SMap W16
  deriving DecidableEq, Repr

def Going.counter (g : Going) (c : Nat) : Nat := (SMap.get 0 c g.ctrs).toNat
def Going.bump (g : Going) (c : Nat) : Going := { g with ctrs := SMap.put 0 c (SMap.get 0 c g.ctrs + 1) g.ctrs }

/-- The control code goes on by one event, where it may. -/
def Going.control (g : Going) : Option Going :=
  match g.code with
  | [] => none
  | (i, .push q _ e _) :: t =>
    let l := SMap.get [] q g.queues
    if 256 < l.length then none else some { g with code := t, queues := SMap.put [] q (l ++ [(i, e.getD 0)]) g.queues }
  | (_, .wait c v) :: t => if scSatisfied (g.counter c) v then some { g with code := t } else none
  | (_, .sig c) :: t => some ({ g with code := t }.bump c)

/-- The head of a queue whose wait is satisfied. -/
def Going.head (g : Going) (q : Nat) : Option (Nat × Line) :=
  match SMap.get [] q g.queues with
  | [] => none
  | h :: _ => if !entWaitEn h.2 || scSatisfied (g.counter (entWaitCtr h.2)) (entWaitVal h.2) then some h else none

/-- A queue's head completes, where it may start and is not the one that never completes. -/
def Going.complete (g : Going) (stuck q : Nat) : Option Going :=
  match g.head q with
  | none => none
  | some h => if h.1 = stuck then none else
    let g := { g with queues := SMap.put [] q ((SMap.get [] q g.queues).drop 1) g.queues }
    some (if entSigEn h.2 then g.bump (entSigCtr h.2) else g)

/-- Command `want` can start while command `stuck` never completes; fuel bounds the run's events. -/
def Going.reaches (stuck want : Nat) : Nat → Going → Bool
  | 0, _ => false
  | n + 1, g =>
    if (List.range 5).any (fun q => (g.head q).any (fun h => decide (h.1 = want))) then true
    else match g.control with
      | some h => h.reaches stuck want n
      | none => match (List.range 5).findSome? (g.complete stuck) with
        | some h => h.reaches stuck want n
        | none => false

/-- In a trace, event j can start before event i has completed. -/
def Trace.overtakes (t : Trace) (i j : Nat) : Bool :=
  Going.reaches i j (2 * t.evs.length + 2) { code := (List.range t.evs.length).zip t.evs, queues := [], ctrs := [] }

/- Core-store spans of the commands of a trace. -/

/-- The engine of a followed context. -/
def State.traceEng (s : State) (t : Trace) (q : Nat) : Eng :=
  let k := (s.core t.p).ctx t.x
  { p := t.p, x := t.x, q := q, n := 0, vat := k.bind.vat, die := coreDie t.p, replay := false, seg := 0 }

/-- The element rows of a descriptor under a step: address and bytes. -/
def ldSpans (d : LDesc) (step : Int) : List (Int × Nat) :=
  (List.range (ldRows d)).map (fun r => (ldRowAddr d step (ldRowIx d r), ldRowBytes d))

/-- Core-store rows of a side, with its table's. -/
def Side.coreRows (f : Side) : List (Int × Nat) :=
  let of := fun (d : LDesc) => if ldSpace d = spCore then ldSpans d f.step else []
  of f.d ++ (f.tab.toList).flatMap of

/-- The core-store spans that a stream command reads and writes (R229). -/
def stSpans (e : Line) : List (Int × Nat × Bool) :=
  let n := 64 * stCount e
  (if stOp e = 1 then [] else [(stLocalAddr e 0, n, false)]) ++
  (if stOp e = 1 ∨ (stOp e = 2 ∧ 2 ≤ stRole e) then [(stOutAt e 0, n, true)] else [])

/-- Core-store spans that the bundles of a group read. -/
def Group.readSpans (g : Group) : List (Int × Nat) :=
  (opsTo g.bundles g.descs (g.bundles.length - 1)).flatMap (fun o => (List.range o.reach).flatMap (fun i =>
    (opAccess o.op o.desc (entVbase g.entry) o.t (o.t + i)).filterMap (fun a => if a.write then none else some ((a.addr : Int), a.size))))

/-- Core-store spans that a command reads. -/
def State.traceReads (s : State) (t : Trace) (q : Nat) (l : Line) : List (Int × Nat) :=
  if q = qBundle then ((s.core t.p).fillGroup t.x l).readSpans
  else if 3 ≤ q then (stSpans l).filterMap (fun e => if e.2.2 then none else some (e.1, e.2.1))
  else match s.lsCmd (s.traceEng t q) l with
    | .fault _ _ => []
    | .ok c => (if q = qStore then c.src.coreRows else []) ++ (if kindIndexed (lsKind l) then ldSpans c.idx 0 else [])

/-- Core-store spans that a load writes. -/
def State.traceLoads (s : State) (t : Trace) (l : Line) : List (Int × Nat) :=
  if lsKind l = lkAmax then [] else
  match s.lsCmd (s.traceEng t qLoad) l with
  | .fault _ _ => []
  | .ok c => c.dst.coreRows

/-- Two lists of spans share a byte. -/
def spansShare (a b : List (Int × Nat)) : Bool := a.any (fun x => b.any (fun y => decide (x.1 < y.1 + y.2 ∧ y.1 < x.1 + x.2)))

/-- A load of the trace reuses staging that an earlier command reads, and its wait does not cover that command's completion (R57). -/
def State.stagingBad (s : State) (t : Trace) : Bool :=
  let cmds := ((List.range t.evs.length).zip t.evs).filterMap (fun e => match e.2 with
    | .push q _ (some l) _ => some (e.1, q, l)
    | _ => none)
  (cmds.filter (fun c => decide (c.2.1 = qLoad))).any (fun c =>
    let w := s.traceLoads t c.2.2
    !w.isEmpty && (cmds.takeWhile (fun r => decide (r.1 < c.1))).any (fun r =>
      spansShare w (s.traceReads t r.2.1 r.2.2) && t.overtakes r.1 c.1))

end Sys2Proof.Machine
end

