-- ==== Sys2Proof/Machine/VerifyCode.lean ====
section
/-! DEFINITION. The verifier on what runs (R49, R74, R101, R143, R171, R202, R236, R259, R265): instructions, queue-entry templates, bundle
groups with their descriptors, engine commands and budgets, in the state that binding would give each logical core. -/

namespace Sys2Proof.Machine

/- Instructions (R47-R49). -/

/-- An instruction with a reserved OP or FUNC, or a non-zero reserved field. -/
def instrBad (w : Nat) : Bool :=
  let op := bits w 26 6
  if op = 1 then decide (11 < bits w 0 11)
  else if op ∈ [2, 3, 4, 8, 9, 0x0A, 0x10, 0x11, 0x12, 0x13, 0x14, 0x15, 0x18, 0x19] then false
  else if op = 5 then decide (bits w 16 5 ≠ 0)
  else if op = 0x20 then
    decide (4 < bits w 23 3 ∨ bits w 21 2 ≠ 0 ∨ bits w 0 10 ≠ 0) || (Nat.testBit w 10 && decide (bits w 11 5 = 31))
  else if op = 0x21 then decide (bits w 16 6 ≠ 0)
  else if op = 0x22 then decide (bits w 16 6 ≠ 0 ∨ bits w 0 16 ≠ 0)
  else if op = 0x23 then decide (bits w 0 26 ≠ 0)
  else if op = 0x24 then decide (bits w 16 5 ≠ 0 ∨ 1 < bits w 0 16)
  else true

/-- PUSH with PATCH onto a queue (R48). -/
def patchesQueue (q w : Nat) : Bool := decide (bits w 26 6 = 0x20 ∧ bits w 23 3 = q) && Nat.testBit w 10

/- The state that binding would give. -/

/-- A core on the die of a logical core, one for each (R248). -/
def verifyCore (l : Nat) : Nat := 144 * (l / 128) + l % 128

/-- The reserves of each die, in MiB. -/
def State.setReserves (s : State) (ledger mirror : Nat) : State :=
  (List.range s.grade.dies).foldl (fun t d => t.put (0x502001 + d) ledger) { s with mirror := { s.mirror with share := mirror } }

/-- The module with the image bound to such cores under the pending reserves (R359); nothing of it is kept. -/
def State.verifyState (s : State) (im : Image) : State :=
  let t := { s with image := some im }
  let im := { im with streams := im.streams.map (fun d => { d with journal := t.journalOf d }) }
  let core := fun (l : Nat) => (im.binds.filter (fun b => decide (b.lcore = l))).foldl (fun c b => s.loadBind im c b) Core.empty
  { s.setReserves s.pendingLedger s.pendingMirror with image := some im, cores := (List.range im.lcores).map (fun l => (verifyCore l, core l)) }

/-- A template: its BUDGETS record, the entry, and the engine that would take it (R259). -/
structure Template where
  i : Nat
  b : Budget
  e : Line
  eng : Eng
  patched : Bool
  deriving DecidableEq, Repr

/-- The code words of a binding, as loaded. -/
def State.codeWords (t : State) (p : Nat) (b : Bind) : List Nat :=
  (List.range b.codeLen).map (fun k => Memory.num (t.core p).imem (4 * (b.codeBase + k)) 4)

/-- A template is pushed with PATCH: by its context's trace, or where that is not exact by some PUSH with PATCH onto its queue. -/
def State.templatePatched (t : State) (tr : List Trace) (b : Budget) : Bool :=
  let p := verifyCore b.lcore
  match tr.find? (fun r => decide (r.p = p ∧ r.x = b.ctx)) with
  | none => false
  | some r => if r.exact_ then (r.pushesOf b.queue b.dmemAddr).any id
              else (t.codeWords p ((t.core p).ctx b.ctx).bind).any (patchesQueue b.queue)

/-- The template of budget record i, where the record names 64 B of a bound context's partition. -/
def State.template? (t : State) (tr : List Trace) (i : Nat) (b : Budget) : Option Template :=
  let p := verifyCore b.lcore
  let k := (t.core p).ctx b.ctx
  if k.bound && decide (b.dmemAddr % 64 = 0 ∧ 4 * k.bind.dmemBase ≤ b.dmemAddr ∧ b.dmemAddr + 64 ≤ 4 * (k.bind.dmemBase + k.bind.dmemLen)) then
    some { i := i, b := b, e := BitVec.ofNat 512 (Memory.num (t.core p).dmem b.dmemAddr 64),
           eng := { p := p, x := b.ctx, q := b.queue, n := 0, vat := k.bind.vat, die := lcoreDie b.lcore, replay := false, seg := 0 },
           patched := t.templatePatched tr b }
  else none

/-- The list with indices. -/
def indexed {α : Type} (l : List α) : List (Nat × α) := (List.range l.length).zip l

def State.templates (t : State) (tr : List Trace) (im : Image) : List Template :=
  (indexed im.budgets).filterMap (fun e => t.template? tr e.1 e.2)

/-- The templates of bundle groups whose bundles and table lie in STATIC ranges, with the groups (R66). -/
def State.groups (t : State) (ts : List Template) : List (Template × Group) :=
  (ts.filter (fun m => decide (m.b.queue = qBundle) &&
      groupInStatic (t.scope ((t.core m.eng.p).ctx m.eng.x)) m.e)).map (fun m => (m, (t.core m.eng.p).fillGroup m.eng.x m.e))

/-- Every operation of a group, with its issue cycle and descriptor. -/
def Group.ops (g : Group) : List OpAt := opsTo g.bundles g.descs (g.bundles.length - 1)

/-- The scope of a template's context. -/
def State.tscope (t : State) (m : Template) : Scope := t.scope ((t.core m.eng.p).ctx m.eng.x)

/-- The first template at fault. -/
def onTemplates (check : Nat) (ts : List Template) (f : Template → Bool) : Option Fail :=
  match ts.find? f with
  | some m => reject check 0x0E m.i 0
  | none => none

/-- The first group at fault. -/
def onGroups (check : Nat) (gs : List (Template × Group)) (f : Template → Group → Bool) : Option Fail :=
  match gs.find? (fun e => f e.1 e.2) with
  | some e => reject check 0x0E e.1.i 0
  | none => none

/- Units that the groups need (R74, R143, R270, R287). -/

/-- CAPS bits that an operation needs (R285). -/
def opCaps (o : OpAt) : Nat :=
  match o.op with
  | .array _ _ => (if adMx o.desc false || adMx o.desc true then 16 else 0) + (if adSplit o.desc then 8 else 0)
  | .row _ _ _ => 4
  | op => if needsFp64 op then 2 else 0

/-- Capabilities that the groups need. -/
def groupsCaps (gs : List (Template × Group)) : Nat := (gs.flatMap (fun e => e.2.ops)).foldl (fun m o => m ||| opCaps o) 0

/-- A group needs an absent unit or capability. -/
def State.unitsGroups (s : State) (gs : List (Template × Group)) : Option Fail :=
  match gs.find? (fun e => e.2.ops.any (fun o => (needsFp64 o.op && !s.grade.fp64) || decide (opCaps o &&& s.o 0x200200 ≠ opCaps o))) with
  | some e => absent 0x0E e.1.i 0
  | none => none

/-- A vat lies beneath one in tolerance mode, or is one (R247). Fuel bounds the tree. -/
def Image.tolerant (im : Image) : Nat → Nat → Bool
  | 0, _ => false
  | k + 1, v => match im.vats.find? (fun e => decide (e.num = v)) with
    | none => false
    | some e => e.tolerance || (decide (e.num ≠ 0) && im.tolerant k e.parent)

/-- A vat outside tolerance mode binds to cores of one generation (R247, R287). DESIGN CHOICE: the failure is that of a missing
capability (log 113). -/
def State.generationCheck (t : State) (im : Image) : Option Fail :=
  let gens := fun (v : Nat) => (t.coresOf v).map (fun l => t.arithGen (lcoreDie l))
  let mixed := fun (v : Nat) => match gens v with
    | [] => false
    | g :: l => l.any (fun h => decide (h ≠ g))
  (im.vats.find? (fun v => !im.tolerant (im.vats.length + 1) v.num && mixed v.num)).bind (fun v => absent 3 v.num 0)

/- Encodings (R54, R66, R67, R83, R156, R203, R208, R229). -/

/-- A reserved encoding of a vector slot; the rules of UPDATE's registers come with the modes. -/
def vecEncodingBad (w : Nat) : Bool :=
  if bits w 26 6 = 13 then decide (bits w 4 2 = 3) || Nat.testBit w 0 else vectorSlotBad w

def bundleEncodingBad (b : Bundle) : Bool :=
  decide (bits b.toNat 112 7 ≠ 0) || arraySlotBad (bnA b) || arraySlotBad (bnB b) || vecEncodingBad (bnV b) || rowSlotBad (bnW b)

/-- LAST stands in the final bundle alone. -/
def lastBad (g : Group) : Bool := (indexed g.bundles).any (fun e => bnLast e.2 != decide (e.1 + 1 = g.bundles.length))

/-- Reserved codes and fields of the descriptor that an operation uses (R83, R156). -/
def descEncodingBad (op : SlotOp) (d : Desc) : Bool :=
  match op with
  | .array _ _ => decide (dF d 160 2 ≠ 0) || decide (dF d 176 5 ≠ 0) || decide (adPreload d = 3) || decide (adPreFmt d = 3) ||
                  fmtReserved (adFmt d false) || fmtReserved (adFmt d true)
  | .drain _ _ _ => decide (dF d 160 2 ≠ 0) || decide (dF d 176 5 ≠ 0) || decide (adPreload d = 3) || decide (adPreFmt d = 3) ||
                    fmtReserved (adFmt d false) || fmtReserved (adFmt d true)
  | .row _ _ _ => decide (dF d 112 3 ≠ 0)
  | _ => false

/-- Layout descriptors that a load or store template names. -/
def Template.layouts (m : Template) : List Nat :=
  if m.b.queue ≤ 1 then ((lsDescs m.e).filter (fun a => a.1)).map (fun a => a.2) else []

/-- A layout descriptor of a template lies outside the context's STATIC ranges, or is malformed (R203). -/
def State.layoutBad (t : State) (m : Template) : Bool :=
  m.layouts.any (fun a => decide (a % 64 ≠ 0) || !(t.tscope m).inKind rgStatic a 64 ||
    ldBad (BitVec.ofNat 512 (ofLe ((t.core m.eng.p).csBytes a 64))))

/-- The ENCODING check (R264). -/
def State.encodingCheck (t : State) (ss : List Section) (ts : List Template) (gs : List (Template × Group)) : Option Fail :=
  let code := t.sectionBytes ss 1
  firstFail
    [fun _ => match (List.range (code.length / 4)).find? (fun k => instrBad (fieldAt code (4 * k) 4)) with
       | some k => reject 7 1 k 0
       | none => none,
     fun _ => t.declEncoding ss,
     fun _ => onTemplates 7 ts (fun m => entryBad m.b.queue m.e),
     fun _ => onTemplates 7 ts t.layoutBad,
     fun _ => onGroups 7 gs (fun _ g => g.bundles.any bundleEncodingBad || lastBad g || g.ops.any (fun o => descEncodingBad o.op o.desc))]

/- Structure (R74, R101). -/

/-- The reduction that operations of a group themselves opened on a bank and left open: its kind and arithmetic. -/
def openedOn (ops : List OpAt) (b : Nat) : Option (RedKind × Bool) :=
  ops.foldl (fun st o => match o.op with
    | .array kind a =>
      if accBank a.arr a.bank ≠ b then st
      else if accFinishes a.acc then none
      else if accOpens a.acc then some (kind, adInteger o.desc) else st
    | _ => st) none

/-- An array operation continues a reduction that the group itself opened with another kind or arithmetic (R101). -/
def kindBad (ops : List OpAt) (k : Nat) : Bool :=
  (ops.filter (fun o => decide (o.k = k))).any (fun o => match o.op with
    | .array kind a => !accOpens a.acc &&
      (openedOn (ops.filter (fun p => decide (p.k < k))) (accBank a.arr a.bank)).any (fun e => decide (e.1 ≠ kind) || (e.2 != adInteger o.desc))
    | _ => false)

/-- The STRUCTURE check (R264). -/
def State.structureCheck (t : State) (ts : List Template) (gs : List (Template × Group)) : Option Fail :=
  firstFail
    [fun _ => onTemplates 8 ts (fun m => decide (m.b.queue = qBundle) && !groupInStatic (t.tscope m) m.e),
     fun _ => onGroups 8 gs (fun m g => (List.range g.bundles.length).any (fun k =>
       unitsBad g.ops k || reductionBad g.ops k || kindBad g.ops k || portsBad g.ops (entVbase m.e) k))]

/- Ownership (R61, R240). -/

/-- Rows of a side that lie in a space, with its table's. -/
def Side.rowsIn (f : Side) (core : Bool) : List (Nat × Int × Nat) :=
  let of := fun (d : LDesc) => if decide (ldSpace d = spCore) == core then (ldSpans d f.step).map (fun e => (ldSpace d, e.1, e.2)) else []
  of f.d ++ (match f.tab with
    | none => []
    | some t => of t)

/-- The command of a load or store template, where its descriptors read. -/
def State.tcmd (t : State) (m : Template) : Option LsCmd :=
  if m.b.queue ≤ 1 then match t.lsCmd m.eng m.e with
    | .ok c => some c
    | .fault _ _ => none
  else none

/-- Some core-store row of a command lies where its context may not reach it (R61). -/
def State.coreRowsBad (t : State) (c : LsCmd) : Bool :=
  let side := fun (f : Side) (w : Bool) => (f.rowsIn true).any (fun e => !t.mapped c.e e.1 e.2.1 e.2.2 w)
  let mem := decide (lsKind c.l = lkCopy ∨ lsKind c.l = lkAmax)
  (if c.e.q = qLoad then (mem && side c.src false) || (decide (lsKind c.l ≠ lkAmax) && side c.dst true)
   else side c.src false || (mem && side c.dst true)) ||
  (lsIndexed c.l && (ldSpans c.idx 0).any (fun e => !t.mapped { c.e with q := qStore } spCore e.1 e.2 false))

/-- The index tensor of a command lies in STATIC ranges, so that its units are known at load. -/
def State.indexStatic (t : State) (c : LsCmd) : Bool :=
  (ldSpans c.idx 0).all (fun e => !decide (e.1 < 0) && (t.scope ((t.core c.e.p).ctx c.e.x)).inKind rgStatic e.1.toNat e.2)

/-- The units of an indexed command lie where its context may not reach them: judged at load where the index is STATIC; else its table
names another die or the ledger area (R202). -/
def State.unitsOut (t : State) (c : LsCmd) : Bool :=
  let sp := ldSpace c.mem.d
  let write := decide (c.e.q = qStore)
  let base := (ldBase c.mem.d : Int) + 64 * lsMemStep c.l
  let far := if sp = spHbm then decide (base < 0 ∨ hbmDie base.toNat ≠ c.e.die) else decide (sp = spBase ∧ (ledgerArea : Int) ≤ base)
  far || (t.indexStatic c && (List.range (ldCount c.idx)).any (fun k => match t.indexAt c k with
    | .fault _ _ => true
    | .ok x => !t.mapped c.e sp (c.unitAddr x.1) (unitBytesOf c.mem.d) write))

/-- The memory side of a command lies, as far as the image shows it, where its context may not reach it: another die, no region or no grant,
a write into a frozen region, the ledger area (R147, R171, R202, R253). -/
def State.memoryBad (t : State) (c : LsCmd) : Bool :=
  let write := decide (c.e.q = qStore)
  if lsIndexed c.l then t.unitsOut c
  else if lsKind c.l = lkStash then (t.stashSpans c).any (fun e => !t.mapped c.e spHbm e.1 e.2 write)
  else (c.mem.rowsIn false).any (fun e => !t.mapped c.e e.1 e.2.1 e.2.2 write)

/-- The OWNERSHIP check (R264). -/
def State.ownershipCheck (t : State) (im : Image) (ts : List Template) (gs : List (Template × Group)) : Option Fail :=
  firstFail
    [fun _ => onRecords 9 4 im.binds (fun i b => im.ownershipBad i b),
     fun _ => onGroups 9 gs (fun m g => g.ops.any (fun o =>
       ownBad (t.tscope m) o.op || rangeBad (t.tscope m) o.op o.desc (entVbase m.e))),
     fun _ => onTemplates 9 ts (fun m => !m.patched && match t.tcmd m with
       | some c => t.coreRowsBad c
       | none => false),
     fun _ => onTemplates 9 ts (fun m => !m.patched && decide (3 ≤ m.b.queue) &&
       (stSpans m.e).any (fun e => !t.mapped m.eng spCore e.1 e.2.1 e.2.2))]

/- Memory (R171, R202, R252, R253). -/

/-- The MEMORY check (R264). -/
def State.memoryCheck (s : State) (t : State) (im : Image) (ts : List Template) (gs : List (Template × Group)) : Option Fail :=
  firstFail
    [fun _ => s.memoryRecords t im,
     fun _ => onGroups 10 gs (fun m g => g.ops.any (fun o => crossBad o.op o.desc (entVbase m.e))),
     fun _ => onTemplates 10 ts (fun m => !m.patched && match t.tcmd m with
       | some c => t.memoryBad c
       | none => false)]

/- Modes (R101, R143, R171, R229, R236, R257, R258). -/

/-- A vector operation that R143 or R171 forbids. -/
def vecModeBad (op : SlotOp) : Bool :=
  match op with
  | .cast _ _ _ tf sr => sr && decide (tf = 0 ∨ tf = 1)
  | .vec o v => decide (o = 13) && (decide (v.width ≠ 0 ∨ v.rnd ≠ 0 ∨ 29 < v.vc.val) ||
                !decide ([v.vd.val, v.va.val, v.vb.val, v.vc.val, v.vc.val + 1, 31].Nodup))
  | _ => false

/-- Rules of R236 and R143 on a load or store command. -/
def State.cmdBad (t : State) (c : LsCmd) : Bool :=
  let k := lsKind c.l
  if k = lkCopy then t.copyBad c
  else if k = lkAmax then t.amaxBad c
  else if k = lkGather ∨ k = lkScatter then t.indexBad c
  else if k = lkScatterAdd then t.addBad c
  else t.stashBad c

/-- Rules of R229 and R236 on a stream command: its streams begin and end at the port. -/
def State.streamCmdBad (t : State) (m : Template) : Bool :=
  let port := m.b.queue - 3
  let into := (t.streamIn m.eng.p m.eng.x port m.e).isNone
  let out := (t.streamOut m.eng.p m.eng.x port m.e).isNone
  if stOp m.e = 0 then out
  else if stOp m.e = 1 then into || (stFwd m.e && out)
  else t.chainBad m.eng m.e

/-- The logical cores whose templates cast under a declaration. -/
def castCores (ts : List Template) (tensor : Nat) : List Nat :=
  ((ts.filter (fun m => decide (m.b.queue ≤ 1 ∧ lsKind m.e ≠ lkStash ∧ lsDecl m.e = tensor))).map (fun m => m.b.lcore)).eraseDups

/-- Declaration i lacks a cell or its one maximum chain (R257, R258). -/
def Image.declCoverBad (im : Image) (ts : List Template) (d : Scale) : Bool :=
  let ls := castCores ts d.tensor
  decide (d.mode ≠ smFixed) &&
  (ls.any (fun l => !im.cells.any (fun c => decide (c.tensor = d.tensor ∧ c.lcore = l))) ||
   (decide (1 < ls.length) && decide ((im.chains.filter (fun c => decide (c.decl = d.tensor))).length ≠ 1)))

/-- A member of a chain without exactly one CHAIN template for it (R236); a maximum chain is joined by AMAX (R214). -/
def Image.memberBad (im : Image) (ts : List Template) (c : ChainD) : Bool :=
  decide (c.decl = noneField) && (im.membersOf c).any (fun l =>
    decide ((ts.filter (fun m => decide (3 ≤ m.b.queue ∧ m.b.lcore = l ∧ stOp m.e = 2 ∧ stChain m.e = c.num))).length ≠ 1))

/-- A LOSSLESS command that ends within a unit (R223): the first slot past it, where its element count is no multiple of 64. -/
def State.shortUnit (t : State) (c : LsCmd) : Option (Nat × Int) :=
  match t.stash? (lsDecl c.l) with
  | none => none
  | some d => if lsKind c.l = lkStash ∧ d.mode = shLossless ∧ ldCount c.core.d % 64 ≠ 0
              then some (d.num, lsMemStep c.l + ((ldCount c.core.d + 63) / 64 : Nat)) else none

/-- The stash of a command, and the first slot past its units. -/
def State.stashEnd (t : State) (c : LsCmd) : Option (Nat × Int) :=
  match t.stash? (lsDecl c.l) with
  | none => none
  | some d => if lsKind c.l = lkStash then some (d.num, lsMemStep c.l + (stashUnits d c.core.d).length) else none

/-- A template ends a LOSSLESS stash within a unit that is not the stash's final one: another command of the image reaches past it (R223). -/
def State.stashShort (t : State) (ts : List Template) (m : Template) : Bool :=
  !m.patched && match (t.tcmd m).bind t.shortUnit with
  | none => false
  | some u => ts.any (fun q => !q.patched && match (t.tcmd q).bind t.stashEnd with
    | none => false
    | some v => decide (v.1 = u.1 ∧ u.2 < v.2))

/-- The MODES check (R264). -/
def State.modesCheck (s : State) (t : State) (ss : List Section) (im : Image) (ts : List Template) (gs : List (Template × Group)) : Option Fail :=
  firstFail
    [fun _ => s.modesRecords t ss im,
     fun _ => onGroups 0x0B gs (fun _ g => g.ops.any (fun o => descBad o.op o.desc || vecModeBad o.op)),
     fun _ => onTemplates 0x0B ts (fun m => match t.tcmd m with
       | some c => t.cmdBad c
       | none => decide (m.b.queue ≤ 1)),
     fun _ => onTemplates 0x0B ts (t.stashShort ts),
     fun _ => onTemplates 0x0B ts (fun m => decide (3 ≤ m.b.queue) && t.streamCmdBad m),
     fun _ => onRecords 0x0B 7 im.scales (fun _ d => atOff 0 (im.declCoverBad ts d)),
     fun _ => onRecords 0x0B 0x0B im.chains (fun _ c => atOff 8 (im.memberBad ts c))]

/- Order (R57, R171, R236). -/

/-- The region that a template's memory side names. -/
def State.memRegion (t : State) (m : Template) : Option Nat := match t.tcmd m with
  | none => none
  | some c => ((if ldSpace c.mem.d = spBase then t.partitionAt m.eng.die (ldBase c.mem.d) 1 else t.regionAt (ldBase c.mem.d) 1)).map
      (fun r => r.num)

/-- Another context of the core scatter-adds into the same region (R236). -/
def State.scatterClash (t : State) (ts : List Template) (m : Template) : Bool :=
  let adds := fun (q : Template) => decide (q.b.queue = qStore ∧ lsKind q.e = lkScatterAdd)
  adds m && ts.any (fun q => adds q && decide (q.b.lcore = m.b.lcore ∧ q.b.ctx ≠ m.b.ctx) && (t.memRegion m).isSome &&
    decide (t.memRegion q = t.memRegion m))

/-- Another template of the core issues an AMAX for the same declaration (R236). -/
def amaxClash (ts : List Template) (m : Template) : Bool :=
  let amax := fun (q : Template) => decide (q.b.queue = qLoad ∧ lsKind q.e = lkAmax)
  amax m && ts.any (fun q => amax q && decide (q.b.lcore = m.b.lcore ∧ q.i ≠ m.i ∧ lsDecl q.e = lsDecl m.e))

/-- The mordant slots of a group's row operations: LAYER, KIND, MB, first slot and rows (R162). -/
def Group.mordants (g : Group) : List (Nat × Nat × Nat × Nat × Nat) := g.ops.filterMap (fun o => match o.op with
  | .row k _ rows => some (rdLayer o.desc, rowKind k, rdMb o.desc, rdMslot o.desc, rows)
  | _ => none)

/-- Overlapping micro-batches of a vat use overlapping mordant slots under one (LAYER, KIND) (R171). -/
def State.mordantClash (t : State) (im : Image) (gs : List (Template × Group)) (m : Template) (g : Group) : Bool :=
  let table := match t.vat? m.eng.vat with
    | none => []
    | some v => im.ilvOfVat v
  g.mordants.any (fun a => gs.any (fun h => decide (h.1.eng.p = m.eng.p ∧ h.1.eng.vat = m.eng.vat) && h.2.mordants.any (fun b =>
    decide (a.1 = b.1 ∧ a.2.1 = b.2.1) && meet a.2.2.2.1 a.2.2.2.2 b.2.2.2.1 b.2.2.2.2 && spansMeet table a.2.2.1 b.2.2.1)))

/-- Micro-batches of a vat overlap and its contexts stash: which commands of a STASH serve which micro-batch no field of the image says, so
the slots' overlap (R171) is what the verifier finds. -/
def Image.stashDoubt (im : Image) (ts : List Template) : Bool :=
  im.vats.any (fun v =>
    let l := im.ilvOfVat v
    l.any (fun a => l.any (fun b => spansMeet l a.2 b.2)) &&
    ts.any (fun m => decide (m.eng.vat = v.num ∧ m.b.queue ≤ 1 ∧ lsKind m.e = lkStash)))

/-- The ORDER check (R264). Staging reuse is judged on the traces; where one is not exact, and for stash slots, it is what the verifier finds
of every run. -/
def State.orderCheck (s t : State) (h : Header) (im : Image) (tr : List Trace) (ts : List Template) (gs : List (Template × Group)) : Option Fail :=
  firstFail
    [fun _ => if tr.any t.stagingBad then reject 0x0C 1 0 0 else none,
     fun _ => if (tr.all (fun r => r.exact_) && !im.stashDoubt ts) || Config.orderSound (s.imageBytes 0 h.length) then none
              else reject 0x0C 1 0 0,
     fun _ => onTemplates 0x0C ts (fun m => t.scatterClash ts m || amaxClash ts m),
     fun _ => im.ilvCheck,
     fun _ => onGroups 0x0C gs (fun m g => t.mordantClash im gs m g)]

/- Budgets (R56, R259). -/

/-- The landing span of a group: cycles from its start to its last landing (R69). -/
def Group.span (g : Group) : Nat :=
  g.ops.foldl (fun m o => let l := o.op.landing o.desc
                          if l = 0 then m else max m (o.t + l)) 0

/-- Fewest bytes that a stash unit of n elements moves (R152): a LOSSLESS one with its exponents equal. -/
def stashLeast (d : Stash) (n : Nat) : Nat := if d.mode = shLossless then losslessBytes d.srcFmt n 0 else stashSpan d n

/-- Bytes that a load or store command moves over the vertical port (R173), its scale table's among them; of a LOSSLESS stash the fewest
that it can. -/
def State.bytesMoved (t : State) (c : LsCmd) : Nat :=
  if lsIndexed c.l then ldCount c.idx * unitBytesOf c.mem.d
  else if lsKind c.l = lkStash then match t.stash? (lsDecl c.l) with
    | none => 0
    | some d => ((stashUnits d c.core.d).map (fun u => stashLeast d u.2.2)).foldl (· + ·) 0
  else (c.mem.d :: c.mem.tab.toList).foldl (fun n d => n + ldRows d * ldRowBytes d) 0

/-- The floor of CYCLES (R259). -/
def State.cyclesFloor (t : State) (m : Template) : Nat :=
  if m.b.queue = qBundle then ((t.core m.eng.p).fillGroup m.eng.x m.e).span
  else if 3 ≤ m.b.queue then stCount m.e
  else match t.tcmd m with
    | none => 0
    | some c => (t.bytesMoved c + 127) / 128

/-- A trace pushes an entry from an address that no record of its context and queue names (R259). -/
def Trace.unlisted (im : Image) (r : Trace) : Bool := r.evs.any (fun e => match e with
  | .push q (some a) _ _ => !im.budgets.any (fun b => decide (verifyCore b.lcore = r.p ∧ b.ctx = r.x ∧ b.queue = q ∧ b.dmemAddr = a))
  | _ => false)

/-- The BUDGETS check (R264). -/
def State.budgetsCheck (s t : State) (h : Header) (im : Image) (tr : List Trace) (ts : List Template) : Option Fail :=
  firstFail
    [fun _ => if tr.any (Trace.unlisted im) then reject 0x0D 2 0 0 else none,
     fun _ => if tr.all (fun r => r.exact_) || Config.templatesListed (s.imageBytes 0 h.length) then none else reject 0x0D 2 0 0,
     fun _ => onRecords 0x0D 0x0E im.budgets (fun i b => firstOff
       [atOff 0 (decide (im.lcores ≤ b.lcore)),
        atOff 4 ((t.template? tr i b).isNone ||
          (im.budgets.take i).any (fun c => decide (c.lcore = b.lcore ∧ c.ctx = b.ctx ∧ c.dmemAddr = b.dmemAddr)))]),
     fun _ => (ts.find? (fun m => decide (m.b.cycles = 0 ∨ entBudget m.e ≠ m.b.cycles ∨ m.b.cycles < t.cyclesFloor m))).bind
       (fun m => reject 0x0D 0x0E m.i 8)]

/- Notices (R265). -/

/-- What an operation reads or writes: a vector register, an accumulator bank, core-store bytes, a mordant slot. -/
inductive Loc where
  | reg (r : Nat)
  | bank (k : Nat)
  | cs (a n : Nat)
  | mordant (slot : Nat)
  deriving DecidableEq, Repr

def Loc.meets (a b : Loc) : Bool :=
  match a, b with
  | .cs x n, .cs y m => meet x n y m
  | x, y => decide (x = y)

/-- Registers and banks that an operation reads, with the cycle from its issue (R69, R166). -/
def SlotOp.readLocs (op : SlotOp) : List (Nat × Loc) :=
  match op with
  | .vec o v =>
    if o = 13 then [(1, .reg 31), (1, .reg v.vd.val), (2, .reg v.va.val), (3, .reg v.vb.val), (4, .reg v.vc.val), (4, .reg (v.vc.val + 1))]
    else if o = 1 then [(1, .reg v.va.val), (1, .reg v.vb.val), (1, .reg v.vc.val)]
    else if o = 9 then [(1, .reg v.va.val)]
    else [(1, .reg v.va.val), (1, .reg v.vb.val)]
  | .cast _ va _ _ sr => (1, .reg va.val) :: (if sr then [(1, .reg 31)] else [])
  | .vstore vs _ _ => [(1, .reg vs.val)]
  | .vbank _ arr bank _ => [(1, .bank (accBank arr bank))]
  | .drain arr bank _ => (List.range 64).map (fun r => (r + 1, .bank (accBank arr bank)))
  | _ => []

/-- Registers and banks that an operation writes, with the landing cycle from its issue; UPDATE counts as writing all it may (R166). -/
def SlotOp.writeLocs (op : SlotOp) (d : Desc) : List (Nat × Loc) :=
  let l := op.landing d
  match op with
  | .vec o v => if o = 13 then [(l, .reg v.vd.val), (l, .reg v.va.val), (l, .reg v.vc.val), (l, .reg (v.vc.val + 1))] else [(l, .reg v.vd.val)]
  | .cast vd _ _ _ _ => [(l, .reg vd.val)]
  | .vload vd _ _ => [(l, .reg vd.val)]
  | .vbank vd _ _ _ => [(l, .reg vd.val)]
  | .array k a => if !accFinishes a.acc then []
                  else (l, .bank (accBank a.arr a.bank)) :: (if k = .mma then [] else [(l, .bank (accBank a.arr (1 - a.bank)))])
  | .row _ _ rows => (List.range rows).map (fun j => ((j + 1) * (op.occupancy d / rows) + 20, .mordant (rdMslot d + j)))
  | _ => []

/-- Every read and write of an operation in group cycles: cycle, written, place. -/
def OpAt.events (o : OpAt) (vbase : Nat) : List (Nat × Bool × Loc) :=
  (o.op.readLocs.map (fun e => (o.t + e.1, false, e.2))) ++ ((o.op.writeLocs o.desc).map (fun e => (o.t + e.1, true, e.2))) ++
  (List.range o.reach).flatMap (fun i => (opAccess o.op o.desc vbase o.t (o.t + i)).map (fun a => (o.t + i, a.write, .cs a.addr a.size))) ++
  (match o.op with
   | .row k _ rows => if rowBack k then (List.range rows).map (fun j =>
       (o.t + 1 + j * (o.op.occupancy o.desc / rows), false, .mordant (rdMslot o.desc + j))) else []
   | _ => [])

/-- The first cycle in which b reads a location before a write of a to it lands. -/
def earlyRead (a b : List (Nat × Bool × Loc)) : Option Nat :=
  (b.find? (fun r => !r.2.1 && a.any (fun w => w.2.1 && w.2.2.meets r.2.2 && decide (r.1 < w.1)))).map (fun r => r.1)

/-- The first cycle in which writes of both to one location land. -/
def sameCycle (a b : List (Nat × Bool × Loc)) : Option Nat :=
  (b.find? (fun r => r.2.1 && a.any (fun w => w.2.1 && w.2.2.meets r.2.2 && decide (r.1 = w.1)))).map (fun r => r.1)

/-- A notice: code, section, entry, offset and cycle (R266). -/
structure Notice where
  code : Nat
  sec : Nat
  entry : Nat
  offset : Nat
  cycle : Nat
  deriving DecidableEq, Repr

/-- Notices of a group: one for each pair of operations and each case (R265). -/
def groupNotices (m : Template) (g : Group) : List Notice :=
  let evs := g.ops.map (fun o => o.events (entVbase m.e))
  (indexed evs).flatMap (fun b => (evs.take b.1).flatMap (fun a =>
    ((earlyRead a b.2).orElse (fun _ => earlyRead b.2 a)).toList.map (fun c => { code := 1, sec := 0x0E, entry := m.i, offset := 0, cycle := c : Notice }) ++
    (sameCycle a b.2).toList.map (fun c => { code := 2, sec := 0x0E, entry := m.i, offset := 0, cycle := c : Notice })))

/-- Spare cores of a die. -/
def State.dieSpares (s : State) (d : Nat) : Nat :=
  ((List.range s.grade.cores).filter (fun p => decide (coreDie p = d ∧ s.coreState p = csSpare))).length

/-- The notices of an image (R265); a command whose region check falls to run time is a load or store pushed with PATCH. -/
def State.notices (s : State) (t : State) (ts : List Template) (gs : List (Template × Group)) : List Notice :=
  gs.flatMap (fun e => groupNotices e.1 e.2) ++
  t.segments.flatMap (fun g => (List.range s.grade.dies).filterMap (fun d =>
    if s.dieSpares d < ((t.coresOf g).filter (fun l => decide (lcoreDie l = d))).length then
      some { code := 3, sec := 3, entry := g, offset := 0, cycle := 0 : Notice } else none)) ++
  (ts.filter (fun m => m.patched && decide (m.b.queue ≤ 1))).map (fun m => { code := 4, sec := 0x0E, entry := m.i, offset := 0, cycle := 0 : Notice })

/- The whole. -/

/-- Mordant limits (R162, R171). -/
def mordantBad (g : Group) : Bool := g.mordants.any (fun a => decide (65536 < a.2.2.2.1 + a.2.2.2.2))

/-- The verifier's outcome: a failure, or the image as bound and its notices. -/
inductive Verdict2 where
  | fail (f : Fail)
  | ok (im : Image) (ns : List Notice)
  deriving DecidableEq, Repr

/-- The checks after GENERATION, in the order of R264; with VERIFIER_ENABLE 0 those of R267 alone. -/
def State.verifyBody (s : State) (h : Header) (ss : List Section) : Verdict2 :=
  let im := (s.parseImage h ss).placed
  match s.unitsRecords h im with
  | some f => .fail f
  | none =>
    let t := s.verifyState { im with lcores := min im.lcores 512 }
    let tr := t.traces
    let ts := t.templates tr im
    let gs := t.groups ts
    let all := decide (s.o 0x201100 = 1)
    let fp64 := decide (groupsCaps gs &&& 2 ≠ 0)
    let more : List (Unit → Option Fail) := if all then
        [fun _ => t.treeCheck ss im, fun _ => t.encodingCheck ss ts gs, fun _ => t.structureCheck ts gs,
         fun _ => t.ownershipCheck im ts gs, fun _ => s.memoryCheck t im ts gs, fun _ => s.modesCheck t ss im ts gs,
         fun _ => s.orderCheck t h im tr ts gs, fun _ => s.budgetsCheck t h im tr ts]
      else []
    let declared := if all && decide (im.units fp64 &&& h.required ≠ im.units fp64) then reject 4 0 0 8 else none
    let first : List (Unit → Option Fail) :=
      [fun _ => s.unitsGroups gs, fun _ => t.generationCheck im, fun _ => declared, fun _ => s.resourcesRecords t ss im, fun _ => onGroups 5 gs (fun _ g => mordantBad g)]
    let r := firstFail (first ++ more)
    match r with
    | some f => .fail f
    | none => match t.image with
      | none => .ok im []
      | some im => .ok im (if all then s.notices t ts gs else [])

/-- The verifier (R264): HEADER and GENERATION first. -/
def State.verify (s : State) : Verdict2 :=
  let h := s.headerAt
  let ss := s.sectionsAt h
  match headerCheck h ss with
  | some f => .fail f
  | none => if h.arithGen ≠ s.o 0x200100 then .fail { check := 2, sec := 0, entry := 0, offset := 6, status := stVerifierReject }
            else s.verifyBody h ss

/-- The load report (R266). -/
def reportBytes (status check sec entry offset : Nat) (ns : List Notice) : List Byte :=
  leBytes 4 status ++ leBytes 2 check ++ leBytes 2 sec ++ leBytes 4 entry ++ leBytes 4 offset ++ leBytes 4 ns.length ++ leBytes 12 0 ++
  (ns.take 256).flatMap (fun n => leBytes 2 n.code ++ leBytes 2 n.sec ++ leBytes 4 n.entry ++ leBytes 4 n.offset ++ leBytes 4 n.cycle)

end Sys2Proof.Machine
end

