-- ==== Sys2Proof/Machine/Load.lean ====
section
/-! DEFINITION. Loading, placing and binding an image, and unloading it (R260-R262, R327, R328, R358, R359, R390, R392, R435). -/

namespace Sys2Proof.Machine

/-- IMAGE_STATE (R271): verified, bound. -/
def imVerified : Nat := 1
def imBound : Nat := 2
def kImageState : Nat := 0x201001

/-- A cut is under way at the module, so that LOAD_IMAGE, UNLOAD and RESTORE are denied (R390). -/
def State.cutBusy (s : State) : Bool := decide (s.o kCutState ≠ cutIdle)

/-- The window names an open IMAGE window (R451). -/
def State.imageWindow (s : State) (w : Nat) : Bool := match s.window? w with
  | none => false
  | some e => decide (e.kind = 0)

/-- The bytes of the image, as far as an image may reach (R237). -/
def State.imageWhole (s : State) : List Byte := s.imageBytes 0 (min imageMax s.headerAt.length)

/-- LOAD_IMAGE after its ACCEPTED: the digest, the verifier and its load report (R260, R264, R266). -/
def State.startLoad (s : State) (h : Hnd) (w : Nat) : State :=
  let s := { s.put 0x201002 (Config.sha512 s.imageWhole).toNat with jobs := { s.jobs with load := some (h, w) } }
  match s.verify with
  | .fail f =>
    { s with loadReport := reportBytes f.status f.check f.sec f.entry f.offset [],
             jobs := { s.jobs with loadResult := some [f.status, f.check, f.sec, f.entry], loadImage := none } }
  | .ok im ns =>
    let j : Judged := { image := im, notices := ns.length, ledger := s.pendingLedger, mirror := s.pendingMirror }
    { s.put kImageState imVerified with loadReport := reportBytes stDone 0 0 0 0 ns,
                                        jobs := { s.jobs with loadResult := none, loadImage := some j } }

/-- LOAD_IMAGE's answer: DENIED while another load or a cut is under way (R260, R390). -/
def loadPlan (r : Req) (w : Nat) (s : State) (_q : Session) : Plan :=
  if s.jobs.load.isSome || s.cutBusy then Plan.refuse stDenied
  else Plan.cmd stAccepted [] (fun t => t.startLoad (reqHnd r) w)

/-- LOAD_IMAGE (R34, R260). -/
def execLoadImage (r : Req) (window reserved : W16) (s : State) : Out :=
  s.command r lvOperator true (fun m => decide (m = .standby)) (decide (reserved = 0) && s.imageWindow window.toNat) (loadPlan r window.toNat)

/- Placing and binding. -/

/-- The bytes of the vat layout digest (R262). -/
def State.layoutBytes (s : State) (im : Image) : List Byte :=
  let sec := fun (ty : Nat) => match im.sections.find? (fun e => decide (e.1 = ty)) with
    | none => []
    | some e => s.imageBytes e.2.1 e.2.2.1
  s.imageBytes 12 2 ++ sec 3 ++ sec 4 ++ sec 6 ++ sec 0x0A ++ sec 0x0B ++ sec 0x0C

/-- The reserves that the image was judged under come into force (R327, R359): the image is copied into the image area that they give, its
poison with it, and where the mirror reserve moves, the inbound map clears. -/
def State.applyReserves (s : State) (j : Judged) : State :=
  let a := s.imageArea
  let bytes := s.imageBytes 0 j.image.length
  let hits := s.hitLines a j.image.length
  if (s.o 0x502001, s.mirror.share) = (j.ledger, j.mirror) then s else
  let s := s.setReserves j.ledger j.mirror
  let s := s.hbmWrite s.imageArea bytes false
  (hits.foldl (fun t l => t.hbmWrite (t.imageArea + (64 * l - a)) ((bytes.drop (64 * l - a)).take 64) true) s).poisonFull.dropSource

/-- Zero the fixed slots of STATE and of the history region, and every FROZEN region (R126, R260). -/
def State.zeroRegions (s : State) (im : Image) : State :=
  let s := (im.regions.filter (fun r => decide (r.kind = rkState ∨ r.kind = rkFrozen))).foldl (fun t r => t.hbmZero r.addr (r.sizeMib * mib)) s
  if im.historyMib = 0 then s else s.hbmZero (s.slotAddr s.historyBase 0) (im.historyMib * mib)

/-- Bind every logical core of the image onto the physical core that holds it (R260 step 4). -/
def State.bindAll (s : State) : State := s.activeCores.foldl (fun t e => t.bindCore e.2 e.1 (fun _ => true)) s

/-- The step objects and the ledger as a load leaves them: the fixed state is step 0 (R15, R260). -/
def State.stepZero (s : State) : State :=
  let s := { s with
    steps := { Steps.empty with seen := s.steps.seen, msgId := s.steps.msgId }, ledger := .empty,
    mirror := { s.mirror with base := none, delta := none, row := 0, opened := false, openWait := false, partnerInvalid := [], repairs := [],
                              asked := s.mirror.asked.map (fun _ => none) },
    frozenDigests := [], frozenStale := true, mem := { s.mem with gran := [], replayed := [] } }
  (((s.put kLastIssued 0).put kLastFixed 0).put kLastMirrored 0).put kLastGranted 0

/-- The base store of die d as an image divides it (R177, R180): the partitions, both copies, and the cache above them, which starts empty. -/
def State.divideBase (s : State) (im : Image) (d : Nat) : State :=
  let p := im.partitionMib im.regions.length d
  ((s.put (0x810001 + d) p).put (0x810011 + d) (1792 - 2 * p)).put (0x810021 + d) (im.cachedCount im.regions.length d)

/-- The objects of a bound image (R177, R271, R328, R358, R369). -/
def State.imageObjects (s : State) (im : Image) (notices : Nat) : State :=
  let s := (((s.put kImageState imBound).put 0x201003 (Config.sha512 (s.layoutBytes im)).toNat).put 0x201004 im.lcores).put 0x201005 im.vats.length
  let s := (s.put 0x201006 notices).put 0x503300 s.mirrorNeed
  let s := { s with mem := { s.mem with cache := [] } }
  (List.range s.grade.dies).foldl (fun t d => ((t.put (0x502011 + d) (t.replayMib d)).put (0x502031 + d) 0).divideBase im d) s

/-- Place and bind an image, set its books, and enter READY (R260 steps 3 to 8). -/
def State.finishLoad (s : State) (h : Hnd) (j : Judged) : State :=
  let s := { s.applyReserves j with image := some j.image }
  let s := ((s.stepZero.zeroRegions j.image).bindAll.resetStreams).imageObjects j.image j.notices
  let s := s.grade.joins.foldl (fun t k => t.setTags [] k) s
  (s.complete h stDone []).setM .ready

/-- IMAGE_LOAD_COMPLETE (R260): the load ends in READY, or leaves STANDBY with its failure status. Where the module has left STANDBY
meanwhile, nothing is bound and the load completes FAULT. -/
def execImageLoadComplete (s : State) : Out :=
  match s.jobs.load with
  | none => .next s
  | some (h, _) =>
    if !s.hubUp then .next s else
    let result := s.jobs.loadResult
    let image := s.jobs.loadImage
    let s := { s with jobs := { s.jobs with load := none, loadResult := none, loadImage := none } }
    if s.mstate ≠ .standby then .next (({ s with loadReport := leBytes 4 stFault ++ s.loadReport.drop 4 }.put kImageState 0).complete h stFault []) else
    match image with
    | some j => .next (s.finishLoad h j)
    | none => match result with
      | some (st :: words) => .next (s.complete h st words)
      | _ => .next s

/- UNLOAD. -/

/-- Windows that UNLOAD closes (R435). -/
def Window.ofImage (w : Window) : Bool := decide (w.kind ≠ 0)

/-- The image goes: cores, books, regions and reserves of steps with it; the mirror reserve keeps what it holds (R271, R392). -/
def State.dropImage (s : State) : State :=
  let s := (s.activeCores.map (fun e => e.2)).foldl (fun t p => (t.setCore p { Core.empty with cycle := (t.core p).cycle }).put (kCore p 4) 0) s
  let s := { s with
    image := none, streams := [], ledger := .empty,
    steps := { Steps.empty with seen := s.steps.seen, msgId := s.steps.msgId },
    mirror := { s.mirror with base := none, delta := none, row := 0, opened := false, openWait := false, partnerInvalid := [], repairs := [],
                              asked := s.mirror.asked.map (fun _ => none) },
    frozenDigests := [], frozenStale := false, joins := s.joins.map (fun e => (e.1, { e.2 with tags := [] })),
    mem := { s.mem with gran := [], replayed := [], narrow := [], narrowWait := [], served := [], cache := [] } }
  let s := [0x201001, 0x201002, 0x201003, 0x201004, 0x201005, 0x201006, 0x503300].foldl (fun t k => t.put k 0) s
  (List.range s.grade.dies).foldl (fun t d => (((t.put (0x502011 + d) 0).put (0x810001 + d) 0).put (0x810011 + d) 1792).put (0x810021 + d) 0) s

/-- UNLOAD after its ACCEPTED: an open RUN_STEPS handle gets its final record first (R452), the windows close, and the module stands in
STANDBY. -/
def State.unload (s : State) (h : Hnd) : State :=
  let s := s.discardAll.leaveRollback
  ((s.dropWindows Window.ofImage).dropImage.complete h stDone []).setM .standby

def unloadPlan (r : Req) (s : State) (_q : Session) : Plan :=
  if s.cutBusy then Plan.refuse stDenied else Plan.cmd stAccepted [] (fun t => t.unload (reqHnd r))

/-- Legal states of RUN_STEPS, RESTORE and UNLOAD (R34). -/
def readyOrStopped (m : MState) : Bool := decide (m = .ready ∨ m = .stopped)

/-- UNLOAD (R34, R451). -/
def execUnload (r : Req) (s : State) : Out := s.command r lvOperator true readyOrStopped true (unloadPlan r)

end Sys2Proof.Machine
end

