-- ==== Sys2Proof/Machine/JobCommands.lean ====
section
/-! DEFINITION. The commands that run a job (R33, R34, R370, R372, R390, R451, R452): RUN_STEPS, STOP, CHECKPOINT, RESTORE, the maintenance
state and MARK_SUSPECT. -/

namespace Sys2Proof.Machine

/- RUN_STEPS. -/

/-- RUN_STEPS after its ACCEPTED (R32, R452): E is LAST_FIXED + COUNT, none for COUNT 0; the causes logged are cleared (R422), the frozen
table is computed once after a load (R381), and the mirror opens (R360). -/
def State.runSteps (s : State) (h : Hnd) (count : Nat) : State :=
  let s := s.leaveRollback
  let s := { s with causeLog := [], steps := { s.steps with
    runHnd := some h, runEnd := if count = 0 then none else some (s.lastFixed + count), stopPending := false,
    childStop := [], resumeSent := false } }
  let s := (if s.frozenStale then s.computeFrozen else s).firstOpen
  ((s.setM .running).issue).checkEnd

def runStepsPlan (r : Req) (count : Nat) (_s : State) (_q : Session) : Plan := Plan.cmd stAccepted [] (fun t => t.runSteps (reqHnd r) count)

/-- RUN_STEPS (R34, R452). -/
def execRunSteps (r : Req) (count : W64) (s : State) : Out := s.command r lvOperator true readyOrStopped true (runStepsPlan r count.toNat)

/- STOP. -/

/-- A rollback that the module stands in does not resume, and its stop is not held (R33, R452). -/
def State.stopRollback (s : State) : State :=
  match s.steps.rollback with
  | none => s
  | some b => ({ s with steps := { s.steps with rollback := some { b with noResume := true, held := false } } } : State).report

/-- STOP after its ACCEPTED (R33): a stop is pending; it completes at STOPPED. -/
def State.stop (s : State) (h : Hnd) : State :=
  let s := ({ s with steps := { s.steps with stopHnd := s.steps.stopHnd ++ [h] } } : State).pendStop.stopRollback
  if s.mstate = .running then (s.setM .stopping).checkStop else s

def stopPlan (r : Req) (_s : State) (_q : Session) : Plan := Plan.cmd stAccepted [] (fun t => t.stop (reqHnd r))

/-- STOP (R33, R34). -/
def execStop (r : Req) (s : State) : Out := s.command r lvOperator true (fun m => decide (m = .running ∨ m = .recovering)) true (stopPlan r)

/- CHECKPOINT. -/

/-- CHECKPOINT's answer (R372, R40): DENIED on any module but the root, and for a third; a second waits for the first. -/
def checkpointPlan (r : Req) (s : State) (_q : Session) : Plan :=
  if !s.isRoot then Plan.refuse stDenied
  else match s.ckpt.cutHnd, s.ckpt.waitHnd with
    | none, none => Plan.cmd stAccepted [] (fun t => t.invalidateManifest (reqHnd r))
    | some _, none => Plan.cmd stAccepted [] (fun t => { t with ckpt := { t.ckpt with waitHnd := some (reqHnd r) } })
    | _, _ => Plan.refuse stDenied

/-- Legal states of CHECKPOINT (R34); under an external fault manager a cut is taken only in STOPPED (R374). -/
def State.checkpointStates (s : State) (m : MState) : Bool := decide (m = .stopped ∨ (m = .running ∧ s.o kDecisionMode = 0))

/-- CHECKPOINT (R34, R372). -/
def execCheckpoint (r : Req) (s : State) : Out := s.command r lvOperator true s.checkpointStates true (checkpointPlan r)

/- RESTORE. -/

/-- RESTORE after its ACCEPTED (R390): unfixed steps are discarded, an open RUN_STEPS handle gets its final record (R452), the frozen table
is computed anew (R391), and the module looks for its source in RECOVERING. -/
def State.startRestore (s : State) (h : Hnd) (c slot : Nat) : State :=
  let s := s.discardAll.leaveRollback
  let s := { s with ckpt := { s.ckpt with restore := some {
    step := c, slot := slot, hnd := some h, source := srcNone, records := [], phase := 0, next := 0, hdr := [], index := [], status := 0 } } }
  (s.computeFrozen.setM .recovering).chooseSource

def restorePlan (r : Req) (c slot : Nat) (s : State) (_q : Session) : Plan :=
  if s.cutBusy then Plan.refuse stDenied else Plan.cmd stAccepted [] (fun t => t.startRestore (reqHnd r) c slot)

/-- RESTORE (R34, R390, R451): SLOT is 0, 1 or 0xFF. -/
def execRestore (r : Req) (step : W64) (slot : Byte) (reserved : BitVec 24) (s : State) : Out :=
  s.command r lvOperator true readyOrStopped (decide (reserved = 0 ∧ (slot.toNat ≤ 1 ∨ slot = 0xFF))) (restorePlan r step.toNat slot.toNat)

/- Maintenance. -/

def enterPlan (_s : State) (_q : Session) : Plan := Plan.cmd stDone [] (fun t => t.setM .maintenance)

/-- ENTER_MAINTENANCE (R32, R34). -/
def execEnterMaintenance (r : Req) (s : State) : Out :=
  s.command r lvMaintainer true (fun m => decide (m = .standby ∨ m = .faulted)) true enterPlan

/-- The test port is locked again (R502). DESIGN CHOICE: an image that was bound when the module became FAULTED stays bound in the STANDBY to which
this leads, until a load replaces it; R31 calls STANDBY a state without a program and has no rule for it (log 119). -/
def leavePlan (_s : State) (_q : Session) : Plan := Plan.cmd stDone [] (fun t => (t.put 0xB03000 0).setM .standby)

/-- LEAVE_MAINTENANCE (R32, R34, R502). -/
def execLeaveMaintenance (r : Req) (s : State) : Out := s.command r lvMaintainer true (fun m => decide (m = .maintenance)) true leavePlan

/- MARK_SUSPECT. -/

/-- The step may be marked (R370). -/
def State.markable (s : State) (n : Nat) : Bool := match s.step? n with
  | none => false
  | some q => decide (q.st ∈ [StepSt.running, .provisional, .checking])

/-- VAT names a segment, or every segment. -/
def State.vatNamed (s : State) (vat : Nat) : Bool := decide (vat = 0xFFFF) || s.segments.contains vat

def markPlan (n vat : Nat) (s : State) (_q : Session) : Plan :=
  if s.markable n && s.vatNamed vat then
    Plan.cmd stDone [] (fun t => t.mark n (if vat = 0xFFFF then t.segments else [vat]) .host)
  else Plan.refuse stBadArgument

/-- MARK_SUSPECT (R337, R370). -/
def execMarkSuspect (r : Req) (step : W64) (vat : W16) (s : State) : Out :=
  s.command r lvOperator true (fun m => decide (m = .running ∨ m = .stopping)) true (markPlan step.toNat vat.toNat)

end Sys2Proof.Machine
end

