-- ==== Sys2Proof/Machine/Power.lean ====
section
/-! DEFINITION. Power, reset, clock and cooling (R506-R525), the test access port (R522), and the hub's periodic work (R486-R493). -/

namespace Sys2Proof.Machine

/- Power and reset (R511-R516). -/

/-- The module powers up once the input is there, RST_IN_N is released, REFCLK is good and the trip latch is clear (R511, R516, R525); it
waits otherwise, with PGOOD low where REFCLK fails. -/
def State.powerUp (s : State) : State :=
  if !s.power.input ∨ s.power.rstAsserted ∨ s.power.tripLatch then s
  else if s.power.refclkGood then s.bootModule
  else { s with power := { s.power with pgood := some false } }

/-- Every rail but housekeeping is off, and what the rails held is lost. -/
def State.railsDown (s : State) (kept : Nat → Bool) (pgood : Option Bool) : State :=
  let s := s.wipe kept
  { s with power := { s.power with railsOn := false, expRails := false, pgood := pgood } }

/-- INPUT_POWER_GOOD (R510, R511, R521): straps are sampled and the trip latch is clear. -/
def execInputPowerGood (straps : Byte) (s : State) : Out :=
  if s.power.input then .next s
  else
    let s := { s with power := { s.power with input := true, straps := straps, tripLatch := false } }
    .next ((s.put kNodeId straps.toNat).powerUp)

/-- What loss of input keeps: flash (R464, R513). -/
def keptOverPowerLoss (key : Nat) : Bool := inRanges flashRanges key

/-- INPUT_POWER_LOSS (R513): counters, the event buffer, the straps and the uptime are lost with the rest (R142, R492, R521). -/
def execInputPowerLoss (s : State) : Out :=
  if !s.power.input then .next s
  else
    let s := s.railsDown keptOverPowerLoss none
    .next { s with uptimeMs := 0, histogram := [], power := { s.power with input := false, tripLatch := false },
                   tap := { ir := 1, boundary := 0, captured := 0, driving := false } }

/-- RST_IN_N_ASSERTED (R512): the hub writes its event buffer, and the rails fall. -/
def execRstInNAsserted (s : State) : Out :=
  if s.power.rstAsserted then .next s
  else
    let s := if s.hubUp then s.flushLog else s
    let s := if s.power.railsOn then s.railsDown keptOverReset none else { s with power := { s.power with pgood := none } }
    .next { s with power := { s.power with rstAsserted := true } }

/-- RST_IN_N_RELEASED (R511, R516): `refclkGood` is the outcome of the check of REFCLK. -/
def execRstInNReleased (refclkGood : Bool) (s : State) : Out :=
  if !s.power.rstAsserted then .next s
  else
    let s := { s with power := { s.power with rstAsserted := false } }
    if s.power.input then .next ({ s with power := { s.power with refclkGood := refclkGood } } : State).powerUp else .next s

/-- REFCLK_LOSS (R516): every die and the hub are held in reset with their rails kept up; HBM and the links are lost. -/
def execRefclkLoss (s : State) : Out :=
  if !s.power.refclkGood then .next s
  else
    let s := { s with power := { s.power with refclkGood := false } }
    if s.power.railsOn then
      let s := s.flushLog.wipe keptOverReset
      .next { s with power := { s.power with pgood := some false } }
    else .next s

/-- REFCLK_RETURN (R516): a module reset into BOOT. -/
def execRefclkReturn (s : State) : Out :=
  if s.power.refclkGood then .next s else .next ({ s with power := { s.power with refclkGood := true } } : State).powerUp

/-- RAIL_OUT_OF_REGULATION (R518): PGOOD is driven low. -/
def execRailOutOfRegulation (_rail : Nat) (s : State) : Out :=
  if s.power.railsOn then .next { s with power := { s.power with pgood := some false } } else .next s

/- Temperatures (R524, R525). -/

/-- Subindex of a junction or stack in 0xA201. -/
def tripSub : TripSensor → Nat
  | .die d => 1 + d
  | .hub => 5
  | .stack n => 0x11 + n

/-- The trip limit in m°C. -/
def tripLimit : TripSensor → Int
  | .stack _ => 100000
  | _ => 110000

def Grade.hasSensor (g : Grade) : TripSensor → Bool
  | .die d => decide (d < g.dies)
  | .hub => true
  | .stack n => decide (n < g.stacks)

/-- THERMAL_TRIP_COMPARATOR (R525, R528): the latch sets; the hub raises THERMAL_TRIP, sends its halt and writes the event buffer; then every
rail but housekeeping turns off. -/
def execThermalTripComparator (sensor : TripSensor) (mc : Int) (s : State) : Out :=
  if !s.grade.hasSensor sensor then .refused .illFormed
  else if !s.power.input ∨ mc < tripLimit sensor then .next s
  else
    let s := { s with power := { s.power with tripLatch := true } }
    if !s.power.railsOn then .next s
    else
      let s := if s.hubUp then
          let s := s.shardReset.raise 0x0602 (tripSub sensor + 0x100) (twos 32 mc)
          (if s.image.isSome then s.haltWave 0x0B else s).flushLog
        else s
      .next (s.railsDown keptOverReset (some false))

/-- TRIP_LATCH_CLEAR (R525): RST_IN_N has been held for 100 ms. -/
def execTripLatchClear (s : State) : Out :=
  if s.power.rstAsserted then .next { s with power := { s.power with tripLatch := false } } else .next s

/-- One temperature sensor's warning: raised as it rises to its threshold, and again only after falling 5 K below it. -/
def State.warnTemp (s : State) (key : Nat) (mc limit : Int) : State :=
  let warned := decide (SMap.get 0 key s.armed = 1)
  if !warned && decide (limit ≤ mc) then
    { s with armed := SMap.put 0 key 1 s.armed }.raise 0x0601 (key % 256 + key / 256 % 256 * 256) (twos 32 mc)
  else if warned && decide (mc ≤ limit - 5000) then { s with armed := SMap.put 0 key 0 s.armed }
  else s

/-- Read a temperature sensor into its entry. -/
def State.readTemp (s : State) (key : Nat) (mc limit : Int) : State := (s.put key (twos 32 mc)).warnTemp key mc limit

/-- The input voltage against its warning band, 39.0-45.0 V with 0.2 V hysteresis (R506). -/
def State.warnPower (s : State) (mv : Nat) : State :=
  if !s.power.vinLow && decide (mv < 39000 ∨ 45000 < mv) then { s with power := { s.power with vinLow := true } }.raise 0x0603 mv 0
  else if s.power.vinLow && decide (39200 ≤ mv ∧ mv ≤ 44800) then { s with power := { s.power with vinLow := false } }
  else s

/-- SENSOR_SAMPLE (R524): every 10 ms, so that uptime advances by 10 ms. -/
def execSensorSample (v : Sample) (s : State) : Out :=
  if !s.hubUp then .next s
  else
    let limit : Int := 1000 * (s.o 0xA20200 : Nat)
    let s := { s with uptimeMs := s.uptimeMs + 10 }
    let s := (((s.put 0xA20001 (v.inputMv % 2 ^ 32)).put 0xA20002 (v.inputMa % 2 ^ 32)).put 0xA20003 (v.inputW % 2 ^ 32)).warnPower v.inputMv
    let s := (s.readTemp 0xA20004 v.inletMc 40000).put 0xA20005 (twos 32 v.outletMc)
    let s := (List.range s.grade.dies).foldl (fun (t : State) d => t.readTemp (0xA20101 + d) (v.dieMc.getD d 0) limit) s
    let s := s.readTemp 0xA20105 v.hubMc limit
    .next ((List.range s.grade.stacks).foldl (fun (t : State) n => t.readTemp (0xA20111 + n) (v.hbmMc.getD n 0) limit) s)

/- Telemetry (R489, R490). -/

/-- JOURNAL_FREE_PAGES, the least over the dies; 0 with no image. -/
def State.leastFree (s : State) : Nat :=
  if s.image.isNone then 0
  else (List.range s.grade.dies).foldl (fun m d => min m (s.journalFree d)) (s.journalFree 0)

/-- A temperature in the message: 0x8000_0000 for an absent die or stack. -/
def State.tempBytes (s : State) (key : Nat) (present : Bool) : List Byte := leBytes 4 (if present then s.o key else 2 ^ 31)

/-- ETH_STATE of an interface; 0 for one that is not there. -/
def State.ethState (s : State) (port iface : Nat) : Nat :=
  if s.grade.ethPort port ∧ (iface = 0 ∨ s.o (okey (0x7100 + port) 2) = 1) then s.o (okey (0x7100 + port) (1 + 16 * iface)) else 0

/-- The body of a TELEMETRY message (R490). -/
def State.telemetryBody (s : State) : List Byte :=
  let u := fun (n : Nat) (keys : List Nat) => keys.flatMap (fun k => leBytes n (s.o k))
  leBytes 8 s.uptimeMs ++ leBytes 1 s.mstate.code ++ leBytes 1 s.serviceLevel ++ leBytes 2 s.healthyLcores ++ u 4 [kAlertFlags] ++
  u 8 [kLastIssued, kLastFixed, kLastMirrored, kLastGranted] ++ u 4 [0xA20001, 0xA20002, 0xA20003, 0xA20004, 0xA20005] ++
  (List.range 4).flatMap (fun d => s.tempBytes (0xA20101 + d) (decide (d < s.grade.dies))) ++ u 4 [0xA20105] ++
  (List.range 8).flatMap (fun n => s.tempBytes (0xA20111 + n) (decide (n < s.grade.stacks))) ++
  u 1 ((List.range 6).map (fun p => kLink p 1)) ++ leBytes 2 0 ++ u 1 ((List.range 6).map kActiveLanes) ++ leBytes 2 0 ++
  (List.range 8).flatMap (fun i => leBytes 1 (s.ethState (i / 2) (i % 2))) ++
  u 8 [kEventCount, kDiscardCount, 0x602301, 0x602303, 0x502106, 0x504301] ++ leBytes 4 s.leastFree ++ u 2 [kBgDefer] ++ u 1 [0xA20300] ++
  List.replicate 57 0

/-- Send one session its TELEMETRY message. -/
def State.telemetryTo (s : State) (q : Session) : State :=
  if q.opened ∧ s.o (0xA10101 + q.slot) = 1 then
    ((s.setSession { q with modSeq := q.modSeq + 1 }).bump64 0xA10200 1).emit (.telemetry q.word (q.modSeq + 1) s.telemetryBody)
  else s

/-- TELEMETRY_PERIOD (R488, R489). -/
def execTelemetryPeriod (s : State) : Out :=
  if !s.answering ∨ s.obit kBgDefer 5 then .next s else .next (s.sessions.foldl State.telemetryTo s)

/- The event log, deferral and flash (R486-R493). -/

/-- EVENT_LOG_FLUSH (R492). -/
def execEventLogFlush (s : State) : Out := if s.hubUp then .next s.flushLog else .next s

/-- BG_DEFER_EXPIRY (R488): the module clears the bit, and a proving that it put off falls due again. -/
def execBgDeferExpiry (bit : Fin 8) (s : State) : Out :=
  if !s.hubUp ∨ ¬ s.obit kBgDefer bit.val then .next s else .next (s.put kBgDefer (s.o kBgDefer - 2 ^ bit.val)).proveDue

/-- FLASH_HOUSEKEEPING (R486, R493): `erases` is the erase count of the block that it moved. -/
def execFlashHousekeeping (erases : Nat) (blockReplaced : Bool) (s : State) : Out :=
  if !s.hubUp ∨ s.obit kBgDefer 4 then .next s
  else
    let m := max (s.o 0xC03003) (erases % 2 ^ 32)
    let s := (s.put 0xC03003 m).put 0xC03001 (min 1000 (m * 1000 / 30000))
    .next (if blockReplaced then s.put 0xC03002 (s.o 0xC03002 - 1) else s)

/-- PLL_CALIBRATION (R486): each loop is re-centred without loss of lock; nothing that the spec names changes. -/
def execPllCalibration (s : State) : Out := .next s

/-- VOLTAGE_CALIBRATION (R486): regulator setpoints, which no entry shows, are trimmed. -/
def execVoltageCalibration (s : State) : Out := .next s

/- The test access port (R502, R522). -/

/-- IDCODE of a grade. -/
def Grade.idcode (g : Grade) : W32 :=
  BitVec.ofNat 32 (2 ^ 28 + (0xC4B0 + (g.code - 1)) * 2 ^ 12 + 0x547 * 2 + 1)

/-- The boundary register as SAMPLE and EXTEST capture it: straps, RST_IN_N, THERM_TRIP_N, ALERT_N, FAULT_N, PGOOD enable and data. -/
def State.pins (s : State) : W32 :=
  let b := fun (v : Bool) (k : Nat) => if v then 2 ^ k else 0
  BitVec.ofNat 32 (s.power.straps.toNat * 2 ^ 6 + b (!s.power.rstAsserted) 5 + b (!s.power.tripLatch) 4 + b (!s.alertActive) 3 +
    b (!s.faultActive) 2 + b s.power.pgood.isSome 1 + b (decide (s.power.pgood = some true)) 0)

/-- The state of the test port in force: boundary scan while RST_IN_N is held. -/
def State.testState (s : State) : Nat := if s.power.rstAsserted then max 1 (s.o 0xB03000) else s.o 0xB03000

/-- An instruction that the port's state does not accept selects the bypass register. -/
def State.tapBypass (s : State) : State := { s with tap := { s.tap with ir := 0xFF, captured := 0, driving := false } }

/-- A TAP instruction, in the housekeeping domain. -/
def State.tapDo (s : State) (ok : Bool) (f : State → State) : Out :=
  if !s.power.input then .next s else if ok then .next (f s) else .next s.tapBypass

/-- TAP_EXTEST. -/
def execTapExtest (bits : BitVec 14) (s : State) : Out :=
  s.tapDo (decide (1 ≤ s.testState)) (fun s => { s with tap := { ir := 0, boundary := bits, captured := s.pins, driving := true } })

/-- TAP_IDCODE. -/
def execTapIdcode (s : State) : Out :=
  s.tapDo true (fun s => { s with tap := { s.tap with ir := 1, captured := s.grade.idcode, driving := false } })

/-- TAP_SAMPLE_PRELOAD. -/
def execTapSamplePreload (bits : BitVec 14) (s : State) : Out :=
  s.tapDo true (fun s => { s with tap := { ir := 2, boundary := bits, captured := s.pins, driving := false } })

/-- TAP_BYPASS. -/
def execTapBypass (s : State) : Out := s.tapDo true State.tapBypass

/-- TAP_INTERNAL_SCAN: the instruction is selected in the full state; the spec gives the registers behind it no contents, so that what they
capture is free. -/
def execTapInternalScan (op : Byte) (s : State) : Out :=
  s.tapDo (decide (0x10 ≤ op.toNat ∧ op.toNat ≤ 0x1F) && decide (s.testState = 2)) (fun s =>
    let (v, t) := s.draw
    { t with tap := { t.tap with ir := op, captured := v.truncate 32, driving := false } })

end Sys2Proof.Machine
end

