-- ==== Sys2Proof/Machine/RowEngine.lean ====
section
/-! DEFINITION. The row engine's commands (R156-R164). An operation of the bundle that issues goes to the row engine, which reads its rows
chunk by chunk and lands them at its cycles (Bundles, Lanes). -/

namespace Sys2Proof.Machine

/-- SOFTMAX_F (R160). -/
def execSoftmaxF (p : Nat) (desc : Fin 16) (rows : Nat) (s : State) : Out := s.issueSlot p (.row 1 desc rows)

/-- SOFTMAX_B (R161, R163). -/
def execSoftmaxB (p : Nat) (desc : Fin 16) (rows : Nat) (s : State) : Out := s.issueSlot p (.row 2 desc rows)

/-- LAYERNORM_F (R160). -/
def execLayernormF (p : Nat) (desc : Fin 16) (rows : Nat) (s : State) : Out := s.issueSlot p (.row 3 desc rows)

/-- LAYERNORM_B (R161, R163). -/
def execLayernormB (p : Nat) (desc : Fin 16) (rows : Nat) (s : State) : Out := s.issueSlot p (.row 4 desc rows)

/-- RMSNORM_F (R160). -/
def execRmsnormF (p : Nat) (desc : Fin 16) (rows : Nat) (s : State) : Out := s.issueSlot p (.row 5 desc rows)

/-- RMSNORM_B (R161, R163). -/
def execRmsnormB (p : Nat) (desc : Fin 16) (rows : Nat) (s : State) : Out := s.issueSlot p (.row 6 desc rows)

end Sys2Proof.Machine
end

