-- ==== Sys2Proof/Machine/UnitCommands.lean ====
section
/-! DEFINITION. The commands on units of the module (R310, R403-R408, R423, R475, R502, R503): RESET_DOMAIN, FENCE_CORE, PROVE_CORE,
LINK_RESET and REPAIR_HBM. -/

namespace Sys2Proof.Machine

/-- Legal states of FENCE_CORE and PROVE_CORE; RESET_DOMAIN is legal in FAULTED as well (R423). -/
def coreStatesLegal (m : MState) : Bool := decide (m ∈ [MState.standby, .ready, .stopped, .maintenance])
def resetStates (m : MState) : Bool := coreStatesLegal m || decide (m = .faulted)

/- RESET_DOMAIN. -/

/-- A core is reset and bound anew (R408, R405). -/
def State.coreReset (s : State) (p : Nat) : State :=
  let s := s.resetCore p
  match s.numberOf p with
  | none => s
  | some l => if s.coreState p = csActive then s.rebind p l else s

/-- RESET_DOMAIN after its ACCEPTED (R408, R423): domain 0 a core, 1 a die, 2 the hub, 3 the module. A core's reset is over at once; a die's
when the die returns; sessions do not outlive the other two. -/
def State.resetDomain (s : State) (h : Hnd) (domain index : Nat) : State :=
  if domain = 0 then (s.coreReset index).complete h stDone []
  else if domain = 1 then
    ({ s with jobs := { s.jobs with reset := s.jobs.reset ++ [(h, domain, index)] } } : State).resetDie index true false
  else if domain = 2 then s.resetHub true s.bootFirst
  else s.moduleReset

def resetPlan (r : Req) (domain index : Nat) (_s : State) (_q : Session) : Plan :=
  Plan.cmd stAccepted [] (fun t => t.resetDomain (reqHnd r) domain index)

/-- The core or the die that RESET_DOMAIN names is there (R423). -/
def Grade.hasDomain (g : Grade) (domain index : Nat) : Bool :=
  if domain = 0 then decide (index < g.cores) else if domain = 1 then decide (index < g.dies) else true

/-- RESET_DOMAIN (R408, R423, R475). -/
def execResetDomain (r : Req) (domain : Byte) (index : W16) (s : State) : Out :=
  s.command r lvMaintainer (s.grade.hasDomain domain.toNat index.toNat) resetStates (decide (domain.toNat ≤ 3))
    (resetPlan r domain.toNat index.toNat)

/- FENCE_CORE. -/

/-- FENCE_CORE after its ACCEPTED (R404, R405): it completes once the remap has, at once where no number moves. A proving of the core ends
with it. -/
def State.fenceCore (s : State) (h : Hnd) (p : Nat) : State :=
  let s := (s.fence p).completeProve p
  if s.proving.remap.any (fun e => decide (e.1 = p)) then { s with jobs := { s.jobs with fence := s.jobs.fence ++ [(h, p)] } }
  else (s.complete h stDone []).workDone.proveDue

def fencePlan (r : Req) (p : Nat) (_s : State) (_q : Session) : Plan := Plan.cmd stAccepted [] (fun t => t.fenceCore (reqHnd r) p)

/-- FENCE_CORE (R404, R423). -/
def execFenceCore (r : Req) (p : W16) (s : State) : Out :=
  s.command r lvMaintainer (decide (p.toNat < s.grade.cores)) coreStatesLegal true (fencePlan r p.toNat)

/- PROVE_CORE. -/

/-- PROVE_CORE after its ACCEPTED (R403, R406): an ACTIVE, a SPARE or a FENCED core is proved, and the command completes with the proving;
R403 gives a core in any other state no way into PROVING, and it completes at once. -/
def State.proveCore (s : State) (h : Hnd) (p : Nat) : State :=
  if s.coreState p ∈ [csActive, csSpare, csFenced] then
    ({ s with jobs := { s.jobs with prove := s.jobs.prove ++ [(h, p)] } } : State).prove p
  else s.complete h stDone []

def provePlan (r : Req) (p : Nat) (_s : State) (_q : Session) : Plan := Plan.cmd stAccepted [] (fun t => t.proveCore (reqHnd r) p)

/-- An ACTIVE core is proved only in MAINTENANCE (R423). -/
def State.proveStates (s : State) (p : Nat) (m : MState) : Bool :=
  coreStatesLegal m && decide (s.coreState p ≠ csActive ∨ m = .maintenance)

/-- PROVE_CORE (R403, R423). -/
def execProveCore (r : Req) (p : W16) (s : State) : Out :=
  s.command r lvMaintainer (decide (p.toNat < s.grade.cores)) (s.proveStates p.toNat) true (provePlan r p.toNat)

/- LINK_RESET. -/

/-- A FAULTED port goes to DETECT (R310). -/
def State.linkReset (s : State) (p : Nat) : State := if s.linkState p = lsFaulted then s.setLinkState p lsDetect else s

def linkResetPlan (p : Nat) (_s : State) (_q : Session) : Plan := Plan.cmd stDone [] (fun t => t.linkReset p)

/-- LINK_RESET (R310, R325): legal in every state but OFF and BOOT. -/
def execLinkReset (r : Req) (port : Byte) (s : State) : Out :=
  s.command r lvOperator true (fun m => decide (m ≠ .off ∧ m ≠ .boot)) (decide (port.toNat < 6)) (linkResetPlan port.toNat)

/- REPAIR_HBM. -/

/-- REPAIR_HBM after its ACCEPTED (R503): STACK_STATE reads REPAIR, and the die's HBM is lost with the inbound mirror. -/
def State.repairHbm (s : State) (h : Hnd) (n : Nat) : State :=
  let s := (s.put (kStack n 1) 3).loseHbm (n / 2)
  { s with jobs := { s.jobs with repair := s.jobs.repair ++ [(h, n)] }, steps := { s.steps with lost := s.steps.lost || s.image.isSome } }

def repairPlan (r : Req) (n : Nat) (_s : State) (_q : Session) : Plan := Plan.cmd stAccepted [] (fun t => t.repairHbm (reqHnd r) n)

/-- REPAIR_HBM (R503). -/
def execRepairHbm (r : Req) (stack : Byte) (reserved : BitVec 24) (s : State) : Out :=
  s.command r lvMaintainer (decide (stack.toNat < s.grade.stacks)) (fun m => decide (m = .maintenance)) (decide (reserved = 0))
    (repairPlan r stack.toNat)

end Sys2Proof.Machine
end

