-- ==== Sys2Proof/Machine/SecurityCommands.lean ====
section
/-! DEFINITION. The commands of firmware, keys, attestation and the test port (R494-R502): UPDATE_FIRMWARE, ACTIVATE_FIRMWARE, ENROLL_KEY,
REVOKE_KEY, ATTEST and TEST_PORT. -/

namespace Sys2Proof.Machine

/-- Legal states of UPDATE_FIRMWARE, ACTIVATE_FIRMWARE, ENROLL_KEY and REVOKE_KEY (R482). -/
def serviceStates (m : MState) : Bool := decide (m = .standby ∨ m = .maintenance)

/-- A number that bytes spell highest first, as SEC 1 encodes it. -/
def ofBe (l : List Byte) : Nat := ofLe l.reverse

/-- A commit to flash fails (R464, R497): which ones do is left open. -/
def State.flashFails (s : State) (key : Nat) : Bool := Config.flashFails key s.fresh

/- UPDATE_FIRMWARE. -/

/-- The reserved bytes of a firmware header are zero (R494). -/
def firmwareReserved (h : List Byte) : Bool :=
  (bytesAt h 9 3 ++ bytesAt h 213 3 ++ bytesAt h 480 32).all (fun b => decide (b = 0))

/-- The header of a firmware image is well formed (R494, R495). -/
def firmwareFormed (h : List Byte) : Bool :=
  decide (fieldAt h 0 4 = 0x57465854) && firmwareReserved h && decide (fieldAt h 8 1 ≤ 127) &&
  decide (1 ≤ fieldAt h 12 4 ∧ fieldAt h 12 4 ≤ 268434944)

/-- The signatures and the body's digest of a firmware image hold (R495). -/
def firmwareSigned (h body : List Byte) : Bool :=
  let key := bytesAt h 80 133
  Config.ecdsaVerify Config.rootKey (Config.sha512 (6 :: key)) (BitVec.ofNat 1056 (ofBe (bytesAt h 216 132))) &&
  Config.ecdsaVerify (BitVec.ofNat 1064 (ofBe key)) (Config.sha512 (bytesAt h 0 216)) (BitVec.ofNat 1056 (ofBe (bytesAt h 348 132))) &&
  decide (Config.sha512 body = BitVec.ofNat 512 (fieldAt h 16 64))

/-- The area that an update writes: the one that is not active (R497). -/
def State.inactiveArea (s : State) : Nat := 1 - min 1 (s.o 0xB00001)

/-- UPDATE_FIRMWARE after its ACCEPTED (R497): the image at window address 0 is rejected, or the inactive area reads invalid while it is
written. -/
def State.updateFirmware (s : State) (h : Hnd) : State :=
  let head := s.imageBytes 0 512
  let x := s.inactiveArea
  if !firmwareFormed head then s.complete h stBadArgument []
  else if fieldAt head 8 1 < s.fw.floor then s.complete h stDenied []
  else
    let body := s.imageBytes 512 (fieldAt head 12 4)
    if !firmwareSigned head body then (s.raise 0x0701 x 0).complete h stDigestMismatch []
    else
      let img := (x, fieldAt head 4 4, fieldAt head 8 1, Config.sha512 (head ++ body))
      { s.put (0xB00004 + x) 2 with fw := { s.fw with updateHnd := some h, updateImg := some img } }

/-- A second update while one is under way is denied, as a second load is. -/
def updatePlan (r : Req) (s : State) (_q : Session) : Plan :=
  if s.fw.updateHnd.isSome then Plan.refuse stDenied else Plan.cmd stAccepted [] (fun t => t.updateFirmware (reqHnd r))

/-- UPDATE_FIRMWARE (R494, R495, R497). -/
def execUpdateFirmware (r : Req) (window reserved : W16) (s : State) : Out :=
  s.command r lvMaintainer true serviceStates (decide (reserved = 0) && s.imageWindow window.toNat) (updatePlan r)

/- ACTIVATE_FIRMWARE. -/

/-- ACTIVATE_FIRMWARE's answer: the hub resets 10 ms later, by a row of its own (R498). -/
def activatePlan (image flags : Nat) (s : State) (_q : Session) : Plan :=
  if s.areaValid image then
    Plan.cmd stDone [] (fun t => { t with fw := { t.fw with activate := some (image, Nat.testBit flags 0, Nat.testBit flags 1) } })
  else Plan.refuse stBadArgument

/-- ACTIVATE_FIRMWARE (R498). -/
def execActivateFirmware (r : Req) (image flags : Byte) (reserved : W16) (s : State) : Out :=
  s.command r lvMaintainer true serviceStates (decide (reserved = 0 ∧ image.toNat ≤ 1 ∧ flags.toNat < 4)) (activatePlan image.toNat flags.toNat)

/- Keys. -/

/-- Key of a KEY_SLOT (R485). -/
def kKeySlot (level key : Nat) : Nat := 0xB01000 + (1 + 8 * (level - 1) + key)

/-- A slot of R499 with its public key. -/
def slotValue (level key : Nat) (pub : BitVec 1064) : Nat :=
  1 + level * 2 ^ 8 + key * 2 ^ 16 + ofLe (leBytes 133 pub.toNat).reverse * 2 ^ 32

/-- LEVEL and KEY name a slot. -/
def slotNamed (level key : Nat) : Bool := decide (1 ≤ level ∧ level ≤ 3 ∧ key ≤ 7)

/-- Commit a slot to flash (R464, R500): the answer is DONE, or FAULT with the slot as it was. -/
def State.slotPlan (s : State) (level key v : Nat) (effect : State → State) : Plan :=
  let bump := fun (t : State) => { t with fresh := t.fresh + 1 }
  if s.flashFails (kKeySlot level key) then Plan.cmd stFault [] bump
  else Plan.cmd stDone [] (fun t => effect ((bump t).put (kKeySlot level key) v))

/-- ENROLL_KEY's outcome (R500). -/
def enrollPlan (level key : Nat) (pub : BitVec 1064) (s : State) (_q : Session) : Plan :=
  if !Config.onCurve pub then Plan.refuse stBadArgument
  else if s.enrolled level key then Plan.refuse stDenied
  else s.slotPlan level key (slotValue level key pub) id

/-- ENROLL_KEY (R499, R500). -/
def execEnrollKey (r : Req) (level key : Byte) (reserved : W16) (pub : BitVec 1064) (s : State) : Out :=
  s.command r lvMaintainer true serviceStates (decide (reserved = 0) && slotNamed level.toNat key.toNat)
    (enrollPlan level.toNat key.toNat pub)

/-- A session was opened with a key (R500). -/
def Session.opensWith (q : Session) (level key : Nat) : Bool := q.opened && decide (q.level = level ∧ q.key = key)

/-- Every session opened with a key ends (R446, R500). -/
def State.endKeySessions (s : State) (level key : Nat) : State :=
  ((s.sessions.filter (fun q => q.opensWith level key)).map (fun q => q.slot)).foldl State.endSession s

/-- The slot holds the last enrolled MAINTAINER key. -/
def State.lastMaintainer (s : State) (level key : Nat) : Bool :=
  decide (level = lvMaintainer) && (List.range 8).all (fun k => decide (k = key) || !s.enrolled lvMaintainer k)

/-- REVOKE_KEY's outcome (R500). -/
def revokePlan (level key : Nat) (s : State) (_q : Session) : Plan :=
  if !s.enrolled level key then Plan.refuse stBadArgument
  else if s.lastMaintainer level key then Plan.refuse stDenied
  else s.slotPlan level key 0 (fun t => t.endKeySessions level key)

/-- REVOKE_KEY (R500). -/
def execRevokeKey (r : Req) (level key : Byte) (reserved : W16) (s : State) : Out :=
  s.command r lvMaintainer true serviceStates (decide (reserved = 0) && slotNamed level.toNat key.toNat) (revokePlan level.toNat key.toNat)

/- ATTEST. -/

/-- The 24 key slots in subindex order. -/
def State.keySlotBytes (s : State) : List Byte := (List.range 24).flatMap (fun k => leBytes 144 (s.o (0xB01001 + k)))

/-- FW_DIGEST of the active image. -/
def State.activeDigest (s : State) : BitVec 512 := if s.o 0xB00001 = 0 then s.fw.digestA else s.fw.digestB

/-- Bytes 0-415 of the report of R501. -/
def State.attestBody (s : State) (nonce : BitVec 256) : List Byte :=
  leBytes 4 0x54415854 ++ leBytes 2 1 ++ leBytes 1 s.grade.code ++ leBytes 1 (s.o 0x200100) ++ leBytes 32 nonce.toNat ++ leBytes 8 s.uptimeMs ++
  leBytes 64 (Config.sha512 (identityBytes s.grade)).toNat ++ leBytes 1 (s.o 0xB00001) ++ leBytes 1 (s.o 0xB03000) ++ leBytes 1 s.mstate.code ++
  leBytes 1 s.fw.floor ++ leBytes 4 (s.o 0xB00002) ++ leBytes 4 (s.o 0xB00003) ++ leBytes 4 (s.o 0xB00007) ++ leBytes 64 s.activeDigest.toNat ++
  leBytes 64 (Config.sha512 s.keySlotBytes).toNat ++ leBytes 64 (s.o 0x201002) ++ leBytes 64 (s.o 0x201003) ++ leBytes 4 s.grade.presentUnits ++
  leBytes 4 (s.o 0x200200) ++ List.replicate 24 0

/-- ATTESTATION_REPORT (R501): the body, the identity key's signature, and 4 reserved bytes. -/
def State.attestBytes (s : State) (nonce : BitVec 256) : List Byte :=
  let body := s.attestBody nonce
  body ++ (leBytes 132 (Config.ecdsaSign (Config.sha512 (3 :: body))).toNat).reverse ++ List.replicate 4 0

def attestPlan (nonce : BitVec 256) (_s : State) (_q : Session) : Plan :=
  Plan.cmd stDone [552] (fun t => { t with attestReport := t.attestBytes nonce })

/-- ATTEST (R501): legal in every state but OFF and BOOT. -/
def execAttest (r : Req) (nonce : BitVec 256) (s : State) : Out :=
  s.command r lvOperator true (fun m => decide (m ≠ .off ∧ m ≠ .boot)) true (attestPlan nonce)

/- TEST_PORT. -/

/-- UNLOCK_SIG verifies over the current report (R502); without one, nothing verifies. -/
def State.unlocks (s : State) (sig : BitVec 1056) : Bool :=
  !s.attestReport.isEmpty && Config.ecdsaVerify Config.serviceKey (Config.sha512 (5 :: bytesAt s.attestReport 0 416)) sig

/-- The test port changes state (R502). -/
def State.setTestPort (s : State) (st : Nat) : State :=
  if s.o 0xB03000 = st then s
  else
    let s := s.put 0xB03000 st
    if st = 0 then s else s.raise 0x0703 st 0

def testPortPlan (st : Nat) (sig : BitVec 1056) (s : State) (_q : Session) : Plan :=
  if st = 2 ∧ ¬ s.unlocks sig then Plan.refuse stDigestMismatch else Plan.cmd stDone [] (fun t => t.setTestPort st)

/-- TEST_PORT (R502). -/
def execTestPort (r : Req) (st : Byte) (reserved : BitVec 24) (sig : BitVec 1056) (s : State) : Out :=
  s.command r lvMaintainer true (fun m => decide (m = .maintenance))
    (decide (reserved = 0 ∧ st.toNat ≤ 2 ∧ (st.toNat = 2 ∨ sig = 0))) (testPortPlan st.toNat sig)

end Sys2Proof.Machine
end

