-- ==== Sys2Proof/Machine/Timeouts.lean ====
section
/-! DEFINITION. Completion and timeouts of commands (R38, R56, R281, R293, R376, R397, R398): the stalls that a budget does not count, the
suspects of a halted engine, and the two commands. -/

namespace Sys2Proof.Machine

/-- COMMAND_COMPLETE (R52, R55): a command whose work is done completes; a group completes when it has landed (R63). -/
def execCommandComplete (p : Nat) (queue : Fin 5) (x : Fin 4) (s : State) : Out :=
  s.onCore p (fun c =>
    match (c.ctx x.val).current queue.val with
    | none => .next s
    | some e =>
      if !(c.ctx x.val).alive then .next s
      else if queue.val = qBundle then
        .next (match c.group with
          | none => s
          | some g => if g.ctx = x.val then s.completeGroup p else s)
      else if cmdTotal queue.val e.1 ≤ e.2 then .next (s.finishCmd p x.val queue.val) else .next s)

/- Stalls that no budget counts. -/

/-- Some join that a stream crosses is not UP: it retrains, or is DOWN (R281, R293). -/
def State.joinHeld (s : State) (d : StreamD) : Bool := (s.streamJoins d).any (fun j => !s.joinUp j)

/-- The torus link that a stream leaves by retrains (R38). -/
def State.linkHeld (s : State) (d : StreamD) : Bool :=
  decide (epType d.dst = epTorus) && (s.routePort (epCoord d.dst)).any (fun p => decide (s.linkState p = lsRetrain))

/-- The stream on which a running AMAX waits for credits in its chain (R214). -/
def State.amaxOut (s : State) (p x : Nat) (l : Line) : Option StreamD :=
  match s.declOf l with
  | none => none
  | some d => match s.maxChain d.tensor with
    | none => none
    | some ch => match s.memberOf ch ((s.core p).ctx x).bind.lcore with
      | none => none
      | some i =>
        let h := s.hops ch i
        let ph := (((s.core p).ctx x).chainBuf qLoad).phase
        let st := if ph = phSend then h.outS else if ph = phBack then h.retOut else none
        st.bind (fun n => s.streamD? n)

/-- Streams for whose credits the running command of a queue waits. -/
def State.creditWaits (s : State) (p x q : Nat) : List StreamD :=
  if 3 ≤ q then (s.portWaits p x q).2.toList
  else if q = qLoad then (match (s.core p).runningKind x lkAmax with
    | none => []
    | some l => ((s.amaxOut p x l).filter (fun d => s.noCredit p x d)).toList)
  else []

/-- The running command of a queue is stalled on credits of a link that retrains, or of a join that is DOWN (R38, R281, R293). -/
def State.linkStall (s : State) (p x q : Nat) : Bool := (s.creditWaits p x q).any (fun d => s.joinHeld d || s.linkHeld d)

/-- What holds the start of a load or store command whose wait is satisfied. -/
def State.headReads (s : State) (c : LsCmd) : List (Int × Nat) :=
  let k := lsKind c.l
  if k = lkStash then (if c.e.q = qLoad then s.stashSpans c else [])
  else if k = lkGather ∨ k = lkScatterAdd then s.unitSpans c
  else if c.e.q = qLoad then c.src.spans else []
def State.headWrites (s : State) (c : LsCmd) : List (Int × Nat) :=
  let k := lsKind c.l
  if c.e.q ≠ qStore then []
  else if k = lkStash then s.stashSpans c
  else if k = lkScatter ∨ k = lkScatterAdd then s.unitSpans c
  else c.dst.spans

/-- The head of a load or store queue is held at its start by what a budget counts: the state-write gate (R25) or a mirror pin in PACE mode
(R362). A cut's pin (R376) and a retraining stack (R38) are not counted. -/
def State.headGated (s : State) (p x q : Nat) : Bool :=
  decide (q ≤ 1) && match ((s.core p).ctx x).queue q with
  | [] => false
  | l :: _ =>
    let e := s.eng p x q
    match s.lsCmd e l with
    | .fault _ _ => false
    | .ok c =>
      let gs := s.stateGranules (s.headWrites c)
      !(s.stacksBusy e.die && (s.readHeld e (s.headReads c) || gs.any (s.toCopy e) || s.wcbStall e (s.headWrites c))) &&
      gs.any (fun g => decide (s.writeWait e g = .gate ∨ s.writeWait e g = .pace)) && !gs.any (fun g => decide (s.writeWait e g = .cut))

/-- The wait of a queue's head runs on its budget (R56, R398): its counter does not satisfy it, or its start is held. The cycles for which it
waits for its engine, its fill and its start conditions count against no limit. -/
def State.waitRuns (s : State) (p x q : Nat) : Bool :=
  let k := (s.core p).ctx x
  k.alive && !(k.queue q).isEmpty && !s.budgetPaused p x &&
  (!k.headReady q || ((s.core p).engineFree q && s.headGated p x q))

/-- The running command of a queue spends its budget (R56): it is not done, and no stall that R38, R293 and R398 exclude holds it. -/
def State.runRuns (s : State) (p x q : Nat) : Bool :=
  let k := (s.core p).ctx x
  k.alive && !s.budgetPaused p x && match k.current q with
  | none => false
  | some e => if q = qBundle then (s.core p).group.any (fun g => g.ctx = x && s.groupLate p g)
              else decide (e.2 < cmdTotal q e.1) && !s.linkStall p x q

/-- A context is a suspect of an engine's halt (R397): it has a command taken by the engine and not completed, or its queue head waits
with its budget running. -/
def State.suspect (s : State) (p x q : Nat) : Bool :=
  let k := (s.core p).ctx x
  (k.alive && (k.current q).isSome) || s.waitRuns p x q

/-- The group that runs stops with its engine; what it has issued lands (R400). -/
def Core.stopEngine (c : Core) (q : Nat) : Core :=
  { c with halted := insSet q c.halted,
           group := if q = qBundle then c.group.map (fun g => { g with trapped := true }) else c.group }

/-- A command times out (R56, R397): its engine halts and STATUS.TIMEOUT is set. -/
def State.timeout (s : State) (p x q : Nat) : State :=
  let k := (s.core p).ctx x
  let suspects := ((List.range 4).filter (fun y => s.suspect p y q)).map (fun y => (p, y))
  let s := (s.setCore p ((s.core p).stopEngine q)).put (kCore p 5) (s.o (kCore p 5) ||| 1)
  (s.bump32 (kCore p 6) 1).incident { kind := .timeout, p := p, lcore := k.bind.lcore, ctx := x, queue := q, count := k.cmdPos q }
    suspects

/-- The core's cycle in which a late group times out: the first after its BUDGET-th (R56). -/
def State.toDeadline (s : State) (p x q : Nat) : State :=
  match (s.core p).group with
  | none => s
  | some g => if q = qBundle ∧ g.ctx = x then s.advance p (g.started + entBudget g.entry + 1 - (s.core p).cycle) else s

/-- COMMAND_TIMEOUT (R56): the wait of a queue's head, or the run of its command, passes its budget. A running group's cycles are counted: its
timeout comes where its next event lies past its budget, and what is due by then happens before. -/
def execCommandTimeout (p : Nat) (queue : Fin 5) (x : Fin 4) (s : State) : Out :=
  s.onCore p (fun c =>
    if c.halted.contains queue.val then .next s
    else if s.runRuns p x.val queue.val then .next ((s.toDeadline p x.val queue.val).timeout p x.val queue.val)
    else if s.waitRuns p x.val queue.val then .next (s.timeout p x.val queue.val)
    else .next s)

end Sys2Proof.Machine
end

