-- ==== Sys2Proof/Machine/TorusFlits.lean ====
section
/-! DEFINITION. Receiving torus flits (R300-R307, R319): acceptance, acknowledgement, forwarding, and the units and credits of streams. A module
message acts by the row of its own type when its last flit is delivered; here it only crosses the link. -/

namespace Sys2Proof.Machine

/-- A flit that R301 discards: reserved FTYPE, reserved field, LEN out of range; the LEN of STREAM_CREDIT is 2 (R319). -/
def flitMalformed (f : Flit) : Bool :=
  decide (3 < flType f) || decide (flF f 0 21 ≠ 0) ||
  (if flType f = ftNull then decide (flLen f ≠ 0) else if flType f = ftCredit then decide (flLen f ≠ 2) else
    decide (flLen f = 0 ∨ 232 < flLen f))

/-- A failed or an out-of-order flit (R303): one NAK until the expected flit arrives. In a retrain there is none, since both sides replay. -/
def State.badFlit (s : State) (p : Nat) : State :=
  if (s.link p).nakSent || decide (s.linkState p ≠ lsActive) then s else (s.setLink p { s.link p with nakSent := true }).sendNull p true

/-- An ACK_SEQ covers a sequence number. -/
def covered (ack seq : Nat) : Bool := decide ((ack + 4096 - seq) % 4096 < 2048)

/-- Take the acknowledgement of a good flit (R303): what it covers leaves the retry buffer; a NAK resends the rest. -/
def State.takeAck (s : State) (p : Nat) (f : Flit) : State :=
  if !flAckValid f then s else
  let l := s.link p
  let s := s.setLink p { l with retry := l.retry.filter (fun e => !covered (flAckSeq f) e.1) }
  if flNak f then s.resend p else s

/-- Take the link credits that a flit returns (R300, R305). -/
def State.takeCredits (s : State) (p : Nat) (f : Flit) : State :=
  let l := s.link p
  let k := flCreditClass f
  s.setLink p { l with credits := l.credits.set k (l.credits.getD k 0 + flCreditCount f) }

/-- Add bytes of a stream to a unit in part; whole units come out. `i` numbers the unit that the payload touches; fuel bounds the units. -/
def flitUnits (mask : Nat) : Nat → Nat → List Byte → Bool → List Byte → List SUnit × List Byte × Bool
  | 0, _, part, poison, _ => ([], part, poison)
  | k + 1, i, part, poison, bytes =>
    if bytes.isEmpty then ([], part, poison) else
    let take := bytes.take (64 - part.length)
    let part := part ++ take
    let poison := poison || Nat.testBit mask i
    if part.length < 64 then ([], part, poison) else
    let r := flitUnits mask k (i + 1) [] false (bytes.drop take.length)
    ((BitVec.ofNat 512 (ofLe part), poison) :: r.1, r.2)

/-- A flit's bytes as they go on the unit in part: OFFSET says where in its unit the first stands. Where that is not where the unit in part
ends, the rest of the flit's first unit is passed over (DESIGN CHOICE, log 116). -/
def joinBytes (part : List Byte) (offset : Nat) (bytes : List Byte) : List Byte × Nat × List Byte :=
  if offset = part.length then (part, 0, bytes) else if offset = 0 then ([], 0, bytes) else ([], 1, bytes.drop (64 - offset))

/-- Bytes of a stream reach their destination hub (R319). -/
def State.streamBytes (s : State) (f : Flit) : State :=
  match s.streamD? (flTag f), s.book? (flTag f) with
  | some d, some b =>
    if epType d.src = epTorus ∧ epCoord d.src = flSrc f then
      let (part, i, bytes) := joinBytes b.part (flOffset f) (bytesAt f.payload 0 (flLen f))
      let r := flitUnits (flPoison f) 6 i part (b.partPoison && !part.isEmpty) bytes
      s.setBook { b with flying := b.flying ++ r.1, part := r.2.1, partPoison := r.2.2 }
    else s
  | _, _ => s

/-- Stream credits reach the source's hub (R319). -/
def State.streamCredits (s : State) (f : Flit) : State :=
  match s.streamD? (flTag f), s.book? (flTag f) with
  | some d, some b =>
    if epType d.dst = epTorus ∧ epCoord d.dst = flSrc f then s.setBook { b with returning := b.returning + fieldAt f.payload 0 2 } else s
  | _, _ => s

/-- The flit as it goes on: without SEQ, acknowledgement and credits, which the next link sets. -/
def forwardFlit (f : Flit) : Flit :=
  { f with header := flitHeader (flType f) (flClass f) (flDst f) (flSrc f) (flTag f) (flLen f) (flOffset f) (flPoison f) }

/-- The port by which a flit that came by port p goes on (R307): one of class 3 that is on the other way around a ring stays on it, and one that
meets a FAULTED link turns the other way; with both FAULTED there is none. -/
def State.onwardPort (s : State) (p : Nat) (f : Flit) : Option Nat :=
  let faulted := fun (q : Nat) => decide (s.linkState q = lsFaulted)
  (s.routePort (flDst f)).bind (fun q =>
    if flClass f ≠ 3 then some q else
    let q := if q = p then otherWay q else q
    if !faulted q then some q else if faulted (otherWay q) then none else some (otherWay q))

/-- Every 64th flit accepted is acknowledged, though it waits to be forwarded (R303). -/
def State.ackForwarded (s : State) (p : Nat) : State := if (s.link p).rxSeq % 64 = 0 then s.sendNull p false else s

/-- Deliver an accepted flit to the hub, or forward it port to port (R307). A flood is forwarded by its message's row. -/
def State.deliver (s : State) (p : Nat) (f : Flit) : State :=
  if flDst f = dstFlood ∨ flDst f = s.coord then
    let s := if 0xF000 ≤ flTag f ∨ flDst f = dstFlood then s else if flType f = ftData then s.streamBytes f else s.streamCredits f
    s.leaveBuffer p (flClass f)
  else match s.onwardPort p f with
    | none => s.leaveBuffer p (flClass f)
    | some q => (s.queueFlit q p (forwardFlit f)).ackForwarded p

/-- Accept the sequenced flit that is next (R303), or answer it as out of order. -/
def State.sequenced (s : State) (p : Nat) (f : Flit) : State :=
  let l := s.link p
  if flSeq f ≠ l.rxSeq then (s.badFlit p).drainPort p 513 else
  let c := flClass f
  let s := s.setLink p { l with rxSeq := (l.rxSeq + 1) % 4096, nakSent := false, rxUse := l.rxUse.set c (l.rxUse.getD c 0 + 1) }
  ((s.takeCredits p f).deliver p f).drainPort p 513

/-- Receive a flit on a port (R301-R303). The row names the type of a good flit. -/
def State.receive (s : State) (p ty : Nat) (f : Flit) : Out :=
  s.onLink p (fun s =>
    if flitGood f && decide (flType f ≤ 3) && decide (flType f ≠ ty) then .refused .illFormed
    else if s.linkState p ≠ lsActive ∧ ¬ (flType f = ftControl ∧ s.linkState p ∈ [lsAlign, lsNegotiate, lsRetrain]) then .next s
    else
    let s := s.bump64 (kFecCorrected p) f.fecFixed
    if !flitGood f then .next ((s.bump64 (kCrcErrors p) 1).badFlit p)
    else if flitMalformed f then .next ((s.bump32 (kLinkProtocol p) 1).badFlit p)
    else if !s.linkKept p then .next s
    else
      let s := s.takeAck p f
      if flType f = ftData ∨ flType f = ftCredit then .next (s.sequenced p f) else .next ((s.takeCredits p f).drainPort p 513))

/-- FLIT_DATA. -/
def execFlitData (port : Nat) (f : Flit) (s : State) : Out := s.receive port ftData f

/-- FLIT_STREAM_CREDIT. -/
def execFlitStreamCredit (port : Nat) (f : Flit) (s : State) : Out := s.receive port ftCredit f

/-- FLIT_NULL. -/
def execFlitNull (port : Nat) (f : Flit) (s : State) : Out := s.receive port ftNull f

/-- MARKER (R301): a CONTROL flit that carries no record but its number. -/
def execMarker (port : Nat) (f : Flit) (s : State) : Out := s.receive port ftControl f

end Sys2Proof.Machine
end

