-- ==== Sys2Proof/Machine/Values.lean ====
section
/-! DEFINITION. What a READ of an entry returns (R438, R439, R461-R463, R476-R485): the values of derived entries, the layouts of the
domains, and snapshots. -/

namespace Sys2Proof.Machine

/- Numbers. -/

/-- The value of an entry of a numeric type: those that other state gives, and the rest as kept. -/
def State.scalar (s : State) (index sub : Nat) : Nat :=
  let key := okey index sub
  if key = 0x100100 then s.mstate.code
  else if key = 0x100101 then s.serviceLevel
  else if key = 0x100102 then s.healthyLcores
  else if key = 0x101000 then s.grade.code
  else if key = 0x200000 then s.grade.presentUnits
  else if key = 0x503301 then s.mirror.inNeed
  else if 0x502021 ≤ key ∧ key ≤ 0x502024 then (if s.image.isNone then 0 else s.journalFree (key - 0x502021))
  else if 0x4000 ≤ index ∧ index ≤ 0x423F ∧ sub = 3 then s.arithGen (coreDie (index - 0x4000))
  else if 0x820011 ≤ key ∧ key ≤ 0x820014 then s.poisonCount (key - 0x820011)
  else if 0x7100 ≤ index ∧ index ≤ 0x7103 ∧ (sub = 1 ∨ sub = 0x11) then s.ethState (index - 0x7100) (sub / 16)
  else s.o key

/- Layouts. -/

/-- An event record (R470). -/
def EventRec.bytes (e : EventRec) : List Byte :=
  leBytes 2 e.code ++ leBytes 1 e.severity ++ [0] ++ leBytes 4 e.seq ++ leBytes 8 e.uptimeMs ++ leBytes 8 e.step ++ leBytes 4 e.arg0 ++ leBytes 4 e.arg1

/-- EVENT_LOG (R492): the most recent 32,768 records, oldest first, those in the buffer among them. -/
def State.eventLog (s : State) : List Byte :=
  let l := s.log ++ s.logBuf
  (l.drop (l.length - 32768)).flatMap EventRec.bytes

/-- LOGICAL_MAP (R251, R271): the physical core of each logical number, or 0xFFFF. -/
def State.logicalMapBytes (s : State) : List Byte :=
  (List.range s.grade.lcores).flatMap (fun l => leBytes 2 (match s.lcore? l with
    | none => 0xFFFF
    | some p => p))

/-- CAUSE_LOG (R422): 16 entries of 8 B. -/
def State.causeLogBytes (s : State) : List Byte := bytesAt (s.causeLog.flatMap (leBytes 8)) 0 128

/-- The GID of the storage queue pairs of a port: its IPv6 address, or its IPv4 address mapped into one (PRESUMED). -/
def State.gidBytes (s : State) (port : Nat) : List Byte :=
  let v6 := s.o (kEth port 0 7)
  if v6 ≠ 0 then leBytes 16 v6 else List.replicate 10 0 ++ [0xFF, 0xFF] ++ beBytes 4 (s.o (kEth port 0 4))

/-- STORAGE_QP of record n (R436, R459). -/
def State.storageQpBytes (s : State) (n : Nat) : List Byte := match s.storage[n]? with
  | none => List.replicate 32 0
  | some q =>
    let port := s.storagePort n
    if port = 0xFF then List.replicate 32 0
    else leBytes 1 q.state ++ leBytes 1 port ++ [0, 0] ++ leBytes 4 q.qpn ++ s.gidBytes port ++ List.replicate 8 0

/-- FROZEN_DIGESTS (R381): the entries of the frozen table. -/
def State.frozenDigestBytes (s : State) : List Byte := s.frozenTable.take (128 * s.frozenRegions.length)

/-- SWATCH_HISTOGRAM (R342). -/
def State.histogramBytes (s : State) : List Byte := (List.range 18).flatMap (fun k => leBytes 8 (SMap.get 0 k s.histogram))

/-- EXP of a declaration: the exponent that step LAST_FIXED used (R119-R125), as it was chosen there; after a restore, that which its
history gives. -/
def State.fixedExponent (s : State) (d : Scale) : Int :=
  if d.mode = smFixed then d.fixedExp
  else if d.mode = smHistory && !SMap.has d.tensor s.ledger.chosen then (s.historyExp d s.lastFixed).1
  else SMap.get 0 d.tensor s.ledger.chosen

/-- ENTRIES of a declaration (R126, R142): those of the last 64 fixed steps. -/
def State.entriesHeld (s : State) (d : Scale) : Nat :=
  ((SMap.get [] d.tensor s.ledger.history).filter (fun q => decide (s.lastFixed < q.1 + 64))).length

/-- One declaration in SCALE_HISTORY (R142). -/
def State.scaleBytes (s : State) (d : Scale) : List Byte :=
  leBytes 4 d.tensor ++ leBytes 4 (twos 32 (s.fixedExponent d)) ++ leBytes 4 (maxEntry (s.window d (s.lastFixed + 1))).toNat ++
  leBytes 1 (s.entriesHeld d) ++ [0, 0, 0]

/-- SCALE_HISTORY (R142). -/
def State.scaleHistory (s : State) : List Byte := match s.image with
  | none => List.replicate 16 0
  | some im => leBytes 4 im.scales.length ++ List.replicate 12 0 ++ im.scales.flatMap s.scaleBytes

/-- LANE_MAP of a port (R325): by physical lane its logical lane, 0xFE spare, 0xFF retired; before any training the last two lanes are
spare. -/
def State.laneMapBytes (s : State) (p : Nat) : List Byte :=
  let l := s.link p
  let m := if l.map = [] then (List.range 34).map (fun i => if l.retired.contains i then 0xFF else if i < 32 then i else 0xFE) else l.map
  bytesAt (m.map (BitVec.ofNat 8)) 0 34

/-- Key of a join's index (R294). -/
def joinOfIndex (index : Nat) : Nat := if index < 0x7210 then index - 0x7200 else 4 + (index - 0x7210)

/-- MODULE_MAP of a join (R294): byte r the module of channel r, 0xFF for one that is down or is not there. -/
def State.moduleMapBytes (s : State) (key : Nat) : List Byte :=
  (List.range 16).flatMap (fun r => leBytes 1 (if r < joinChannels key ∧ (s.chan key r).up then (s.chan key r).module else 0xFF))

/-- ENDPOINT_TABLE (R288). -/
def State.endpointBytes (s : State) : List Byte := (s.join kExpansion).endpoints.flatMap (fun r => leBytes 16 r.toNat)

/-- COMPLETION_LOG of a session (R457): 256 records, oldest first, zero past the last. -/
def State.completionLog (s : State) (slot : Nat) : List Byte := bytesAt (match s.session? slot with
  | none => []
  | some q => q.log.flatMap Rec.bytes) 0 8192

/-- The bits of an entry of WINDOW_TABLE that fields take: its other bytes, and bits [6:2] of the port byte, are reserved. -/
def windowMask : List Byte := [0xFF, 0xFF, 0x83, 0] ++ List.replicate 16 0xFF ++ List.replicate 12 0

/-- One entry of WINDOW_TABLE (R459); what the fields of an entry hold whose window is not open is left free, its reserved ones are zero
(R13). -/
def State.windowEntry (s : State) (w : Nat) : List Byte := match s.window? w with
  | none => (freeBytes (s.fresh + 32 * w) 32).zipWith (fun b m => b &&& m) windowMask
  | some e =>
    leBytes 1 e.kind ++ leBytes 1 (e.session.toNat / 2 ^ 28) ++ leBytes 1 (e.port + 128 * e.iface) ++ [0] ++ leBytes 4 e.region ++ leBytes 4 e.hostQpn ++
    leBytes 4 e.qpn ++ leBytes 4 e.rkey.toNat ++ List.replicate 12 0

def State.windowTable (s : State) : List Byte := (List.range 64).flatMap s.windowEntry

/-- SOURCE of a session in 16 bytes: the address, or the MAC address and zeros (R442, R459). -/
def source16 (src : Source) : List Byte := (sourceBytes src).take 16

/-- Transport of a session: 1 UDP, 2 T1S. -/
def transportCode : Source → Nat
  | .udp _ _ _ _ => 1
  | .t1s _ => 2

/-- SESSION_INFO of a slot (R459); zero, with transport none, where no session is open. -/
def State.sessionInfo (s : State) (slot : Nat) : List Byte :=
  match s.sessions.find? (fun q => q.opened && decide (q.slot = slot)) with
  | none => List.replicate 32 0
  | some q =>
    leBytes 1 q.level ++ leBytes 1 q.key ++ leBytes 1 (transportCode q.src) ++ [0] ++ leBytes 4 q.word.toNat ++ leBytes 4 (q.highSeq + 1) ++
    leBytes 2 q.outstanding.length ++ leBytes 1 (s.windows.filter (fun e => decide (e.session = q.word))).length ++ [0] ++ source16 q.src

/-- The bytes of an OCTETS or DOMAIN entry that is not kept whole: by index and subindex. DESIGN CHOICE: a record that a peer or a partner sent
(PEER_RECORD, PARTNER_RECORD, ENDPOINT_TABLE) reads as it was received, reserved fields among it (log 117). -/
def State.layout? (s : State) (index sub : Nat) : Option (List Byte) :=
  let key := okey index sub
  if key = 0x101800 then some (identityBytes s.grade)
  else if key = 0x201007 then some (bytesAt s.loadReport 0 (max 32 s.loadReport.length))
  else if key = 0x202000 then some s.logicalMapBytes
  else if key = 0x504206 then some s.causeLogBytes
  else if index = 0x5060 ∧ 0x11 ≤ sub then some (s.storageQpBytes (sub - 0x11))
  else if key = 0x506500 then some s.frozenDigestBytes
  else if key = 0x602200 then some s.histogramBytes
  else if key = 0x604000 then some s.scaleHistory
  else if 0x7000 ≤ index ∧ index ≤ 0x7005 ∧ sub = 4 then some (s.laneMapBytes (index - 0x7000))
  else if 0x7100 ≤ index ∧ index ≤ 0x7103 ∧ (sub = 3 ∨ sub = 0x13) then some (beBytes 6 (Config.mac (index - 0x7100) (sub / 16)).toNat)
  else if key = 0x711002 then some (beBytes 6 (Config.mac 4 0).toNat)
  else if 0x7200 ≤ index ∧ index ≤ 0x7213 ∧ sub = 7 then some (s.moduleMapBytes (joinOfIndex index))
  else if key = 0x730002 then some (leBytes 32 (s.join kExpansion).record.toNat)
  else if key = 0x730003 then some s.endpointBytes
  else if index = 0x9100 ∧ 0x11 ≤ sub ∧ sub ≤ 0x20 then some (s.completionLog (sub - 0x11))
  else if key = 0x910023 then some s.windowTable
  else if key = 0xA00300 then some s.eventLog
  else if key = 0xB02000 then some s.attestReport
  else if index = 0xB100 then some (s.sessionInfo (sub - 1))
  else if index = 0xC011 then some (leBytes 10 (Config.scanSet (sub - 1)).toNat ++ List.replicate 6 0)
  else none

/-- The value of an entry, as bytes (R462). -/
def State.valueBytes (s : State) (row : DRow) (index sub : Nat) : List Byte :=
  match row.ty.bytes with
  | some n => leBytes n (s.scalar index sub)
  | none => match s.layout? index sub with
    | some b => b
    | none => leBytes row.len (s.o (okey index sub))

/- READ. -/

/-- A piece of a value: up to 1,024 B from an offset (R438). -/
def readPiece (row : DRow) (value : List Byte) (offset : Nat) : Resp :=
  { status := stDone, otype := row.ty.code, total := value.length, data := (value.drop offset).take 1024 }

/-- A session's snapshot of an entry that is at most 2 s old (R463). -/
def Session.snapshot (q : Session) (key uptime : Nat) : Option (List Byte) :=
  (q.snaps.find? (fun e => decide (e.1 = key ∧ uptime ≤ e.2.1 + 2000))).map (fun e => e.2.2)

/-- Keep a snapshot in the session of a slot (R463). -/
def State.keepSnapshot (s : State) (slot key : Nat) (value : List Byte) : State := match s.session? slot with
  | none => s
  | some q => s.setSession { q with snaps := (key, s.uptimeMs, value) :: q.snaps.filter (fun e => decide (e.1 ≠ key)) }

/-- Free values that a READ of WINDOW_TABLE showed are spent. -/
def State.spendRead (s : State) (key : Nat) : State := if key = 0x910023 then { s with fresh := s.fresh + 2048 } else s

/-- The answer to a READ of a readable entry (R438, R463). -/
def readEntry (row : DRow) (index sub offset : Nat) (s : State) (q : Session) : Plan :=
  let key := okey index sub
  let value := s.valueBytes row index sub
  if value.length ≤ 1024 then { resp := readPiece row value offset, effect := fun t => t.spendRead key }
  else if offset = 0 then
    { resp := readPiece row value 0, effect := fun t => (t.keepSnapshot q.slot key value).spendRead key }
  else match q.snapshot key s.uptimeMs with
    | some v => { resp := readPiece row v offset, effect := id }
    | none => { resp := readPiece row value offset, effect := fun t => t.spendRead key }

/-- READ's checks in the order of R439, and its answer. -/
def readPlan (index sub reserved offset : Nat) (s : State) (q : Session) : Plan :=
  match entryRow index sub with
  | none => Plan.only stBadArgument
  | some row =>
    if !entryPresent s.grade index sub then Plan.only stAbsent
    else if row.acc = .cmd then Plan.only stDenied
    else if reserved ≠ 0 then Plan.only stBadArgument
    else readEntry row index sub offset s q

/-- READ (R438, R439, R444, R463). -/
def execRead (r : Req) (index : W16) (sub reserved : Byte) (offset : W32) (s : State) : Out :=
  .next (s.request r (readPlan index.toNat sub.toNat reserved.toNat offset.toNat))

end Sys2Proof.Machine
end

