-- ==== Sys2Proof/Machine/Vector.lean ====
section
/-! DEFINITION. The vector unit's commands (R67, R69, R135-R144, R165-R171). An operation of the bundle that issues goes to the vector
unit; it reads and lands at its cycles (Bundles, Lanes). -/

namespace Sys2Proof.Machine

/-- FMA (R67, R135). -/
def execVecFma (p : Nat) (v : VArgs) (s : State) : Out := s.issueSlot p (.vec 1 v)

/-- MUL (R67, R135). -/
def execVecMul (p : Nat) (v : VArgs) (s : State) : Out := s.issueSlot p (.vec 2 v)

/-- ADD (R67, R135). -/
def execVecAdd (p : Nat) (v : VArgs) (s : State) : Out := s.issueSlot p (.vec 3 v)

/-- SUB (R67, R135). -/
def execVecSub (p : Nat) (v : VArgs) (s : State) : Out := s.issueSlot p (.vec 4 v)

/-- MAX (R67, R135). -/
def execVecMax (p : Nat) (v : VArgs) (s : State) : Out := s.issueSlot p (.vec 5 v)

/-- MIN (R67, R135). -/
def execVecMin (p : Nat) (v : VArgs) (s : State) : Out := s.issueSlot p (.vec 6 v)

/-- CAST (R67, R104-R118): from SFMT to TFMT, with stochastic rounding from v31 where SR is set. -/
def execCast (p : Nat) (vd va : Fin 32) (sfmt tfmt : BitVec 4) (sr : Bool) (s : State) : Out :=
  s.issueSlot p (.cast vd va sfmt tfmt sr)

/-- DIV (R67, R135). -/
def execDiv (p : Nat) (v : VArgs) (s : State) : Out := s.issueSlot p (.vec 8 v)

/-- SQRT (R67, R135). -/
def execSqrt (p : Nat) (v : VArgs) (s : State) : Out := s.issueSlot p (.vec 9 v)

/-- VLOAD (R67): a register from core store, widened. -/
def execVload (p : Nat) (vd : Fin 32) (offset : BitVec 14) (mfmt : BitVec 4) (s : State) : Out :=
  s.issueSlot p (.vload vd offset mfmt)

/-- VSTORE (R67): a register to core store, cast. -/
def execVstore (p : Nat) (vs : Fin 32) (offset : BitVec 14) (mfmt : BitVec 4) (s : State) : Out :=
  s.issueSlot p (.vstore vs offset mfmt)

/-- VBANK (R67, R72): one row of an accumulator bank to a register. -/
def execVbank (p : Nat) (vd : Fin 32) (arr bank : Fin 2) (row : Fin 64) (s : State) : Out :=
  s.issueSlot p (.vbank vd arr bank row)

/-- UPDATE (R165-R171): the fused optimizer step under the record of v31. -/
def execUpdate (p : Nat) (v : VArgs) (s : State) : Out := s.issueSlot p (.vec 13 v)

end Sys2Proof.Machine
end

