-- ==== Sys2Proof/Machine/Writes.lean ====
section
/-! DEFINITION. WRITE (R439, R444, R462-R467): its ordered checks, what each entry takes beyond its range, and what the write of an entry does
(R310, R327, R359, R360, R369, R378, R436, R455, R456, R466, R473, R488). -/

namespace Sys2Proof.Machine

/- What a value must be beyond its type and range. -/

/-- MiB of HBM that bound the reserves (R369). -/
def Grade.hbmMib (g : Grade) : Nat := g.dies * 91552

/-- MIRROR_RESERVE_MIB (R369): a multiple of the present dies, at most what the pending ledger reserve leaves. -/
def State.mirrorReserveOk (s : State) (v : Nat) : Bool :=
  decide (v % s.grade.dies = 0 ∧ v + s.grade.dies * s.pendingLedger ≤ s.grade.hbmMib)

/-- LEDGER_RESERVE_PERMILLE (R369): it leaves the current MIRROR_RESERVE_MIB. -/
def State.ledgerReserveOk (s : State) (v : Nat) : Bool :=
  decide (s.o kMirrorReserve + s.grade.dies * s.grade.shareMib v ≤ s.grade.hbmMib)

/-- A COORD entry is below its dimension (R296, R325). -/
def State.coordOk (s : State) (sub v : Nat) : Bool := decide (v < s.o (0x700600 + sub))

/-- A STORAGE_TARGET record (R378): PORT 0-3 or 0xFF, reserved fields zero, slots at multiples of 4 KiB. -/
def targetOk (v : Nat) : Bool :=
  decide ((bits v 0 8 < 4 ∨ bits v 0 8 = 0xFF) ∧ bits v 8 24 = 0 ∧ bits v 56 8 = 0 ∧ bits v 224 32 = 0 ∧ bits v 256 12 = 0 ∧ bits v 320 12 = 0 ∧
          bits v 448 64 = 0)

/-- A COMPLETION_ROUTE (R455): MODE and reserved fields; with MODE 1 or 2 a window of the session, ENTRIES_LOG2 and RING_ADDR as well. -/
def State.routeOk (s : State) (q : Session) (v : Nat) : Bool :=
  decide (routeMode v ≤ 2 ∧ bits v 8 8 = 0 ∧ bits v 40 24 = 0 ∧ bits v 160 96 = 0) &&
  (decide (routeMode v = 0) ||
   (decide (4 ≤ bits v 32 8 ∧ bits v 32 8 ≤ 16 ∧ routeAddr v % 64 = 0) && match s.window? (routeWindow v) with
    | none => false
    | some e => decide (e.session = q.word)))

/-- What an entry asks of a value beyond its type and range. -/
def State.entryTakes (s : State) (q : Session) (index sub v : Nat) : Bool :=
  if index = 0x1021 then s.coordOk sub v
  else if index = 0x5020 then s.ledgerReserveOk v
  else if index = 0x5032 then s.mirrorReserveOk v
  else if index = 0x5060 then targetOk v
  else if index = 0x9100 then s.routeOk q v
  else true

/-- The checks of R439 for a WRITE, in order; an entry of a session's own takes only its owner's WRITE (R455, R471, R489). A storage target on
an absent port is the last (R378). -/
def writeCheck (s : State) (q : Session) (index sub reserved offset : Nat) (value : List Byte) : Option Nat :=
  match entryRow index sub with
  | none => some stBadArgument
  | some row =>
    if !entryPresent s.grade index sub then some stAbsent
    else if q.level < row.level ∨ (row.owner ∧ q.slot + 1 ≠ sub) then some stDenied
    else if row.acc ≠ .rw ∧ row.acc ≠ .rws then some stDenied
    else if row.acc = .rws ∧ s.mstate ≠ .standby ∧ s.mstate ≠ .stopped then some stWrongState
    else if reserved ≠ 0 ∨ offset ≠ 0 ∨ !row.valueOk index sub value ∨ !s.entryTakes q index sub (ofLe value) then some stBadArgument
    else if index = 0x5060 ∧ bits (ofLe value) 0 8 ≠ 0xFF ∧ !s.grade.ethPort (bits (ofLe value) 0 8) then some stAbsent
    else none

/- What a WRITE does. -/

/-- Write-1-to-clear (R466): each bit written 1 clears its flag. -/
def State.clearFlags (s : State) (key v : Nat) : State := s.put key (s.o key - (s.o key &&& v))

/-- An IMAGE window is open (R359). -/
def State.imageOpen (s : State) : Bool := s.windows.any (fun e => decide (e.kind = 0))

/-- MIRROR_RESERVE_MIB (R359): at once in STANDBY while no IMAGE window is open, else pending; where the reserve moves, the inbound map
clears. -/
def State.writeMirrorReserve (s : State) (v : Nat) : State :=
  let s := s.put kMirrorReserve v
  if s.mstate = .standby ∧ ¬ s.imageOpen ∧ s.mirror.share ≠ s.pendingMirror then
    ({ s with mirror := { s.mirror with share := s.pendingMirror } } : State).dropSource
  else s

/-- JOB_ID (R360): a new value clears the inbound map and its source. -/
def State.writeJobId (s : State) (v : Nat) : State := if s.jobId = v then s else (s.put 0x700604 v).dropSource

/-- A port stands as its axis and PORT_ENABLE have it (R296, R310): DISABLED, or on its way up from there. -/
def State.settlePort (s : State) (p : Nat) : State :=
  let on := decide (1 < s.dimOf p ∧ s.o (kPortEnable p) = 1)
  if on then (if s.linkState p = lsDisabled then s.setLinkState p lsDetect else s)
  else if s.linkState p = lsDisabled then s
  else s.dropLink p lsDisabled

/-- A STORAGE_TARGET record (R436): its queue pair is created, or reset with the number it has; PORT 0xFF leaves it unused. -/
def State.writeTarget (s : State) (n v : Nat) : State :=
  let s := ((s.put (0x506001 + n) v).storageLost n).settleHeld
  match s.storage[n]? with
  | none => s
  | some q =>
    let q := { StorageQp.unused with qpn := q.qpn }
    if bits v 0 8 = 0xFF then s.setStorage n q
    else if s.o (kEth (bits v 0 8) 0 1) = 2 then s.storageStart n q
    else s.setStorage n q

/-- A COMPLETION_ROUTE (R456): records held go by datagram, and the ring starts anew. -/
def State.writeRoute (s : State) (slot v : Nat) : State := (s.dropRoute slot).put (0x910001 + slot) v

/-- FAULT_DECISION_MODE: with 1, LAST_GRANTED follows LAST_FIXED (R28, R29). -/
def State.writeDecisionMode (s : State) (v : Nat) : State :=
  let s := s.put kDecisionMode v
  if v = 1 then s.put kLastGranted s.lastFixed else s

/-- PARTNER_PORT: another partner gets its own MIRROR_OPEN at the next RUN_STEPS, and a delta in flight gives way (R357, R360). -/
def State.writePartner (s : State) (v : Nat) : State :=
  if s.partnerPort = v then s else
  let s := s.yieldDelta
  ({ s with mirror := { s.mirror with opened := false, openWait := false } } : State).put kPartnerPort v

/-- The effect of a WRITE that is taken, by entry. -/
def State.writeEntry (s : State) (index sub v : Nat) : State :=
  let key := okey index sub
  if 0x4000 ≤ index ∧ index ≤ 0x423F then s.clearFlags key v
  else if key = kAlertFlags then s.clearFlags key v
  else if key = kBgDefer then (s.put key v).proveDue
  else if key = kMirrorReserve then s.writeMirrorReserve v
  else if key = kDecisionMode then s.writeDecisionMode v
  else if key = kPartnerPort then s.writePartner v
  else if key = 0x700604 then s.writeJobId v
  else if index = 0x7006 ∧ sub ≤ 3 then ((s.put key v).settlePort (2 * (sub - 1))).settlePort (2 * (sub - 1) + 1)
  else if 0x7000 ≤ index ∧ index ≤ 0x7005 ∧ sub = 0x0C then (s.put key v).settlePort (index - 0x7000)
  else if index = 0x5060 then s.writeTarget (sub - 1) v
  else if index = 0x9100 then s.writeRoute (sub - 1) v
  else s.put key v

/-- The entry is kept in flash (R464). -/
def entryInFlash (index sub : Nat) : Bool := match entryRow index sub with
  | none => false
  | some row => row.flash

/-- OTYPE of an entry. -/
def entryOtype (index sub : Nat) : Nat := match entryRow index sub with
  | none => 0
  | some row => row.ty.code

/-- WRITE's answer: the first check that fails, FAULT where the commit to flash fails (R464), else DONE and the write's effect. -/
def writePlan (index sub reserved offset : Nat) (value : List Byte) (s : State) (q : Session) : Plan :=
  match writeCheck s q index sub reserved offset value with
  | some st => Plan.only st
  | none =>
    let write := fun (t : State) => t.writeEntry index sub (ofLe value)
    let done : Resp := { status := stDone, otype := entryOtype index sub }
    if !entryInFlash index sub then { resp := done, effect := write }
    else
      let bump := fun (t : State) => { t with fresh := t.fresh + 1 }
      if s.flashFails (okey index sub) then { resp := { done with status := stFault }, effect := bump } else { resp := done, effect := fun t => write (bump t) }

/-- A WRITE request. -/
def State.writeRequest (s : State) (r : Req) (index sub reserved offset : Nat) (value : List Byte) : State :=
  s.request r (writePlan index sub reserved offset value)

/-- A WRITE whose entry is known, with its value as n bytes. -/
def State.writeTo (s : State) (r : Req) (key n v : Nat) : State := s.writeRequest r (key / 256) (key % 256) 0 0 (leBytes n v)

/-- WRITE (R438, R439). -/
def execWrite (r : Req) (index : W16) (sub reserved : Byte) (offset : W32) (value : List Byte) (s : State) : Out :=
  .next (s.writeRequest r index.toNat sub.toNat reserved.toNat offset.toNat value)

/-- STATUS (R466): a core number past any grade's names no entry of the row. -/
def execStatusWrite (r : Req) (p : Nat) (v : W32) (s : State) : Out :=
  if 576 ≤ p then .refused .illFormed else .next (s.writeTo r (kCore p 5) 4 v.toNat)

/-- VEC_FLAGS (R142, R466). -/
def execVecFlagsWrite (r : Req) (p : Nat) (v : Byte) (s : State) : Out :=
  if 576 ≤ p then .refused .illFormed else .next (s.writeTo r (kCore p 0x0A) 1 v.toNat)

/-- ALERT_FLAGS (R466, R473): ALERT_N follows the flags that are left. -/
def execAlertFlagsWrite (r : Req) (v : W32) (s : State) : Out := .next (s.writeTo r kAlertFlags 4 v.toNat)

/-- ALERT_ENABLE (R473): ALERT_N follows the mask. -/
def execAlertEnableWrite (r : Req) (v : W32) (s : State) : Out := .next (s.writeTo r kAlertEnable 4 v.toNat)

/-- BG_DEFER (R488): the bits' limits count from this write; they run out by a row of their own. A proving
that bit 3 put off falls due again when the bit clears (R407). -/
def execBgDeferWrite (r : Req) (v : W16) (s : State) : Out := .next (s.writeTo r kBgDefer 2 v.toNat)

/-- MIRROR_RESERVE_MIB (R359, R369). -/
def execMirrorReserveWrite (r : Req) (v : W32) (s : State) : Out := .next (s.writeTo r kMirrorReserve 4 v.toNat)

/-- LEDGER_RESERVE_PERMILLE (R327, R359, R369): pending until the next load. -/
def execLedgerReserveWrite (r : Req) (v : W16) (s : State) : Out := .next (s.writeTo r 0x502000 2 v.toNat)

/-- JOB_ID (R360). -/
def execJobIdWrite (r : Req) (v : W32) (s : State) : Out := .next (s.writeTo r 0x700604 4 v.toNat)

/-- STORAGE_TARGET of record n (R378, R436). -/
def execStorageTargetWrite (r : Req) (n : Nat) (rec : BitVec 512) (s : State) : Out :=
  if 8 ≤ n then .refused .illFormed else .next (s.writeTo r (0x506001 + n) 64 rec.toNat)

/-- COMPLETION_ROUTE of a slot (R455, R456). -/
def execCompletionRouteWrite (r : Req) (slot : Nat) (rec : BitVec 256) (s : State) : Out :=
  if 16 ≤ slot then .refused .illFormed else .next (s.writeTo r (0x910001 + slot) 32 rec.toNat)

/-- PORT_ENABLE (R310). -/
def execPortEnableWrite (r : Req) (port : Nat) (v : Byte) (s : State) : Out :=
  if 6 ≤ port then .refused .illFormed else .next (s.writeTo r (kPortEnable port) 1 v.toNat)

/-- DIM_X, DIM_Y, DIM_Z (R296, R310). -/
def execDimensionWrite (r : Req) (axis : Fin 3) (v : Byte) (s : State) : Out := .next (s.writeTo r (0x700601 + axis.val) 1 v.toNat)

/-- VERIFIER_ENABLE (R267): a MAINTAINER's. -/
def execVerifierEnableWrite (r : Req) (v : Byte) (s : State) : Out := .next (s.writeTo r 0x201100 1 v.toNat)

/-- TELEMETRY_PERIOD_MS (R489). -/
def execTelemetryPeriodWrite (r : Req) (v : W32) (s : State) : Out := .next (s.writeTo r 0xA10000 4 v.toNat)

end Sys2Proof.Machine
end

