-- ==== Sys2Proof/Machine/WindowSend.lean ====
section
/-! DEFINITION. Requests that come by SEND on a window's connection (R429, R437): the message is read from its bytes, and answered by SEND on
the same connection. -/

namespace Sys2Proof.Machine

/-- The header of an object-protocol message is sound (R437). -/
def messageSound (m : List Byte) : Bool :=
  decide (16 ≤ m.length ∧ m.length ≤ 1400 ∧ fieldAt m 0 2 = 0x4F54 ∧ fieldAt m 2 1 = 1 ∧ fieldAt m 12 2 + 16 = m.length ∧ fieldAt m 14 2 = 0)

/-- Message types that a host sends within a session. -/
def mtClose : Nat := 0x05
def mtRead : Nat := 0x10
def mtWrite : Nat := 0x11
def mtCommand : Nat := 0x12

/-- A request by its message; its source is that of the session, which the window's binding stands for (R429). -/
def messageReq (w : Nat) (m : List Byte) : Req :=
  { src := .t1s 0, session := BitVec.ofNat 32 (fieldAt m 4 4), seq := BitVec.ofNat 32 (fieldAt m 8 4),
    hseq := BitVec.ofNat 32 (fieldAt m 20 4), via := some w }

/-- Bytes of the arguments of each command (R34, R325, R370, R423, R428, R451, R497-R503). -/
def commandArgs : List (Nat × Nat) :=
  [(0x9001, 4), (0x9002, 0), (0x9003, 8), (0x9004, 0), (0x9006, 0), (0x9007, 12), (0x9008, 0), (0x9009, 0), (0x900A, 10), (0x900B, 3),
   (0x900C, 2), (0x900D, 2), (0x9010, 1), (0x9020, 28), (0x9021, 4), (0x9030, 4), (0x9031, 4), (0x9032, 32), (0x9033, 137), (0x9034, 4),
   (0x9035, 136), (0x9036, 4)]

/-- Legal states of a command (R34, R423, R482). -/
def State.commandStates (s : State) (index : Nat) (m : MState) : Bool :=
  if index = 0x9001 then decide (m = .standby)
  else if index ∈ [0x9002, 0x9003, 0x9007] then readyOrStopped m
  else if index = 0x9004 then decide (m = .running ∨ m = .recovering)
  else if index = 0x9006 then s.checkpointStates m
  else if index = 0x9008 then decide (m = .standby ∨ m = .faulted)
  else if index ∈ [0x9009, 0x9035, 0x9036] then decide (m = .maintenance)
  else if index = 0x900A then decide (m = .running ∨ m = .stopping)
  else if index = 0x900B then resetStates m
  else if index ∈ [0x900C, 0x900D] then coreStatesLegal m
  else if index = 0x9020 then windowStates m
  else if index = 0x9021 then true
  else if index ∈ [0x9010, 0x9032] then decide (m ≠ .off ∧ m ≠ .boot)
  else serviceStates m

/-- A COMMAND that a check fails (R439): with an entry that is not known or not a command, or with arguments of another length. -/
def State.badCommand (s : State) (r : Req) (index sub : Nat) : Out :=
  match entryRow index sub with
  | none => s.commandWith r (fun _ _ => some stBadArgument) (fun _ _ => Plan.refuse stBadArgument)
  | some row =>
    if !entryPresent s.grade index sub then s.commandWith r (fun _ _ => some stAbsent) (fun _ _ => Plan.refuse stAbsent)
    else if row.acc ≠ .cmd then s.commandWith r (fun _ _ => some stDenied) (fun _ _ => Plan.refuse stDenied)
    else s.command r row.level true (s.commandStates index) false (fun _ _ => Plan.refuse stBadArgument)

/-- A COMMAND with arguments of its length: the meaning of its row. -/
def State.goodCommand (s : State) (r : Req) (index : Nat) (a : List Byte) : Out :=
  let b := fun (o : Nat) => (BitVec.ofNat 8 (fieldAt a o 1) : Byte)
  let h := fun (o : Nat) => (BitVec.ofNat 16 (fieldAt a o 2) : W16)
  let w := fun (o : Nat) => (BitVec.ofNat 32 (fieldAt a o 4) : W32)
  let q := fun (o : Nat) => (BitVec.ofNat 64 (fieldAt a o 8) : W64)
  let t := fun (o : Nat) => (BitVec.ofNat 24 (fieldAt a o 3) : BitVec 24)
  let sig := fun (o : Nat) => BitVec.ofNat 1056 (ofBe (bytesAt a o 132))
  if index = 0x9001 then execLoadImage r (h 0) (h 2) s
  else if index = 0x9002 then execUnload r s
  else if index = 0x9003 then execRunSteps r (q 0) s
  else if index = 0x9004 then execStop r s
  else if index = 0x9006 then execCheckpoint r s
  else if index = 0x9007 then execRestore r (q 0) (b 8) (t 9) s
  else if index = 0x9008 then execEnterMaintenance r s
  else if index = 0x9009 then execLeaveMaintenance r s
  else if index = 0x900A then execMarkSuspect r (q 0) (h 8) s
  else if index = 0x900B then execResetDomain r (b 0) (h 1) s
  else if index = 0x900C then execFenceCore r (h 0) s
  else if index = 0x900D then execProveCore r (h 0) s
  else if index = 0x9010 then execLinkReset r (b 0) s
  else if index = 0x9020 then execOpenWindow r (b 0) (b 1) (b 2) (b 3) (w 4) (w 8) (BitVec.ofNat 128 (ofBe (bytesAt a 12 16))) s
  else if index = 0x9021 then execCloseWindow r (h 0) (h 2) s
  else if index = 0x9030 then execUpdateFirmware r (h 0) (h 2) s
  else if index = 0x9031 then execActivateFirmware r (b 0) (b 1) (h 2) s
  else if index = 0x9032 then execAttest r (BitVec.ofNat 256 (fieldAt a 0 32)) s
  else if index = 0x9033 then execEnrollKey r (b 0) (b 1) (h 2) (BitVec.ofNat 1064 (ofBe (bytesAt a 4 133))) s
  else if index = 0x9034 then execRevokeKey r (b 0) (b 1) (h 2) s
  else if index = 0x9035 then execTestPort r (b 0) (t 1) (sig 4) s
  else execRepairHbm r (b 0) (t 1) s

/-- A COMMAND message. -/
def State.sendCommand (s : State) (r : Req) (m : List Byte) : Out :=
  let index := fieldAt m 16 2
  let sub := fieldAt m 18 1
  let a := m.drop 24
  if sub = 0 ∧ fieldAt m 19 1 = 0 ∧ (commandArgs.any fun e => decide (e.1 = index ∧ e.2 = a.length)) then s.goodCommand r index a
  else s.badCommand r index sub

/-- A request by its message: one of another type, or of a length that its type does not have, is discarded (R437). -/
def State.sendRequest (s : State) (w : Nat) (m : List Byte) : Out :=
  let r := messageReq w m
  let ty := fieldAt m 3 1
  let n := m.length
  if ty = mtClose then (if n = 16 then execClose r s else .next s)
  else if ty = mtRead then
    (if n = 24 then .next (s.request r (readPlan (fieldAt m 16 2) (fieldAt m 18 1) (fieldAt m 19 1) (fieldAt m 20 4))) else .next s)
  else if ty = mtWrite then
    (if 24 ≤ n then .next (s.writeRequest r (fieldAt m 16 2) (fieldAt m 18 1) (fieldAt m 19 1) (fieldAt m 20 4) (m.drop 24)) else .next s)
  else if ty = mtCommand then (if 24 ≤ n then s.sendCommand r m else .next s)
  else .next s

/-- The connection of a window takes SENDs: it is open and its interface carries traffic. -/
def State.sendPath (s : State) (w : Nat) : Bool := match s.window? w with
  | none => false
  | some e => s.ipUp e.port e.iface && e.closing.isNone

/-- WINDOW_SEND (R429): the SEND is acknowledged, and a message that is not sound is discarded. On a connection that is closing or closed it
meets the window's path as any other packet. -/
def execWindowSend (w : Nat) (bytes : List Byte) (s : State) : Out :=
  if !s.answering || !s.sendPath w then s.rdma w (fun _ => false) (fun _ s => s)
  else
    let s := s.emit (.rdmaAck w)
    if messageSound bytes then s.sendRequest w bytes else .next s

end Sys2Proof.Machine
end

