-- ==== Sys2Proof/Machine/Dispatch.lean ====
section
/-! DEFINITION. The one dispatch: one arm per constructor, each a direct call of its meaning. -/

namespace Sys2Proof.Machine

def exec (i : Instr) (s : State) : Host.Outcome State Fault Refusal :=
  match i with
  | .loadImage r window reserved => Sys2Proof.Machine.execLoadImage r window reserved s
  | .unload r => Sys2Proof.Machine.execUnload r s
  | .runSteps r count => Sys2Proof.Machine.execRunSteps r count s
  | .stop r => Sys2Proof.Machine.execStop r s
  | .checkpoint r => Sys2Proof.Machine.execCheckpoint r s
  | .restore r step slot reserved => Sys2Proof.Machine.execRestore r step slot reserved s
  | .enterMaintenance r => Sys2Proof.Machine.execEnterMaintenance r s
  | .leaveMaintenance r => Sys2Proof.Machine.execLeaveMaintenance r s
  | .markSuspect r step vat => Sys2Proof.Machine.execMarkSuspect r step vat s
  | .resetDomain r domain index => Sys2Proof.Machine.execResetDomain r domain index s
  | .fenceCore r p => Sys2Proof.Machine.execFenceCore r p s
  | .proveCore r p => Sys2Proof.Machine.execProveCore r p s
  | .linkReset r port => Sys2Proof.Machine.execLinkReset r port s
  | .openWindow r kind access portByte reserved region hostQpn gid => Sys2Proof.Machine.execOpenWindow r kind access portByte reserved region hostQpn gid s
  | .closeWindow r window reserved => Sys2Proof.Machine.execCloseWindow r window reserved s
  | .updateFirmware r window reserved => Sys2Proof.Machine.execUpdateFirmware r window reserved s
  | .activateFirmware r image flags reserved => Sys2Proof.Machine.execActivateFirmware r image flags reserved s
  | .attest r nonce => Sys2Proof.Machine.execAttest r nonce s
  | .enrollKey r level key reserved pub => Sys2Proof.Machine.execEnrollKey r level key reserved pub s
  | .revokeKey r level key reserved => Sys2Proof.Machine.execRevokeKey r level key reserved s
  | .testPort r st reserved sig => Sys2Proof.Machine.execTestPort r st reserved sig s
  | .repairHbm r stack reserved => Sys2Proof.Machine.execRepairHbm r stack reserved s
  | .openRequest src level key reserved nonce => Sys2Proof.Machine.execOpenRequest src level key reserved nonce s
  | .openProof src session sig => Sys2Proof.Machine.execOpenProof src session sig s
  | .close r => Sys2Proof.Machine.execClose r s
  | .read r index sub reserved offset => Sys2Proof.Machine.execRead r index sub reserved offset s
  | .write r index sub reserved offset value => Sys2Proof.Machine.execWrite r index sub reserved offset value s
  | .windowSend w bytes => Sys2Proof.Machine.execWindowSend w bytes s
  | .statusWrite r p v => Sys2Proof.Machine.execStatusWrite r p v s
  | .vecFlagsWrite r p v => Sys2Proof.Machine.execVecFlagsWrite r p v s
  | .alertFlagsWrite r v => Sys2Proof.Machine.execAlertFlagsWrite r v s
  | .bgDeferWrite r v => Sys2Proof.Machine.execBgDeferWrite r v s
  | .mirrorReserveWrite r v => Sys2Proof.Machine.execMirrorReserveWrite r v s
  | .ledgerReserveWrite r v => Sys2Proof.Machine.execLedgerReserveWrite r v s
  | .jobIdWrite r v => Sys2Proof.Machine.execJobIdWrite r v s
  | .storageTargetWrite r n rec => Sys2Proof.Machine.execStorageTargetWrite r n rec s
  | .completionRouteWrite r slot rec => Sys2Proof.Machine.execCompletionRouteWrite r slot rec s
  | .portEnableWrite r port v => Sys2Proof.Machine.execPortEnableWrite r port v s
  | .verifierEnableWrite r v => Sys2Proof.Machine.execVerifierEnableWrite r v s
  | .telemetryPeriodWrite r v => Sys2Proof.Machine.execTelemetryPeriodWrite r v s
  | .regionWindowWrite w addr data => Sys2Proof.Machine.execRegionWindowWrite w addr data s
  | .regionWindowRead w addr len => Sys2Proof.Machine.execRegionWindowRead w addr len s
  | .stepInputWrite w va data => Sys2Proof.Machine.execStepInputWrite w va data s
  | .imageWindowAccess w isWrite addr len data => Sys2Proof.Machine.execImageWindowAccess w isWrite addr len data s
  | .qpError q => Sys2Proof.Machine.execQpError q s
  | .cnpReceived q => Sys2Proof.Machine.execCnpReceived q s
  | .rateRecoveryTick q => Sys2Proof.Machine.execRateRecoveryTick q s
  | .pfcFrameReceived port iface prio quanta => Sys2Proof.Machine.execPfcFrameReceived port iface prio quanta s
  | .arpRequest port iface target => Sys2Proof.Machine.execArpRequest port iface target s
  | .neighborSolicitation port iface target => Sys2Proof.Machine.execNeighborSolicitation port iface target s
  | .icmpEcho port iface v6 dst payload => Sys2Proof.Machine.execIcmpEcho port iface v6 dst payload s
  | .ringConsumerReadDone slot count => Sys2Proof.Machine.execRingConsumerReadDone slot count s
  | .sessionIdleExpiry slot => Sys2Proof.Machine.execSessionIdleExpiry slot s
  | .challengeExpiry slot => Sys2Proof.Machine.execChallengeExpiry slot s
  | .aluAdd p x gd ga gb => Sys2Proof.Machine.execAluAdd p x gd ga gb s
  | .aluSub p x gd ga gb => Sys2Proof.Machine.execAluSub p x gd ga gb s
  | .aluAnd p x gd ga gb => Sys2Proof.Machine.execAluAnd p x gd ga gb s
  | .aluOr p x gd ga gb => Sys2Proof.Machine.execAluOr p x gd ga gb s
  | .aluXor p x gd ga gb => Sys2Proof.Machine.execAluXor p x gd ga gb s
  | .aluSll p x gd ga gb => Sys2Proof.Machine.execAluSll p x gd ga gb s
  | .aluSrl p x gd ga gb => Sys2Proof.Machine.execAluSrl p x gd ga gb s
  | .aluSra p x gd ga gb => Sys2Proof.Machine.execAluSra p x gd ga gb s
  | .aluMul p x gd ga gb => Sys2Proof.Machine.execAluMul p x gd ga gb s
  | .aluMulhu p x gd ga gb => Sys2Proof.Machine.execAluMulhu p x gd ga gb s
  | .aluSlt p x gd ga gb => Sys2Proof.Machine.execAluSlt p x gd ga gb s
  | .aluSltu p x gd ga gb => Sys2Proof.Machine.execAluSltu p x gd ga gb s
  | .addi p x gd ga imm => Sys2Proof.Machine.execAddi p x gd ga imm s
  | .andi p x gd ga imm => Sys2Proof.Machine.execAndi p x gd ga imm s
  | .ori p x gd ga imm => Sys2Proof.Machine.execOri p x gd ga imm s
  | .lui p x gd imm => Sys2Proof.Machine.execLui p x gd imm s
  | .lw p x gd ga imm => Sys2Proof.Machine.execLw p x gd ga imm s
  | .sw p x gd ga imm => Sys2Proof.Machine.execSw p x gd ga imm s
  | .lcs p x gd ga imm => Sys2Proof.Machine.execLcs p x gd ga imm s
  | .beq p x ga gb off => Sys2Proof.Machine.execBeq p x ga gb off s
  | .bne p x ga gb off => Sys2Proof.Machine.execBne p x ga gb off s
  | .blt p x ga gb off => Sys2Proof.Machine.execBlt p x ga gb off s
  | .bge p x ga gb off => Sys2Proof.Machine.execBge p x ga gb off s
  | .bltu p x ga gb off => Sys2Proof.Machine.execBltu p x ga gb off s
  | .bgeu p x ga gb off => Sys2Proof.Machine.execBgeu p x ga gb off s
  | .jal p x gd off => Sys2Proof.Machine.execJal p x gd off s
  | .jalr p x gd ga imm => Sys2Proof.Machine.execJalr p x gd ga imm s
  | .push p x queue ga gb patch => Sys2Proof.Machine.execPush p x queue ga gb patch s
  | .pushResume p x => Sys2Proof.Machine.execPushResume p x s
  | .waitsc p x ctr value => Sys2Proof.Machine.execWaitsc p x ctr value s
  | .waitscRelease p x => Sys2Proof.Machine.execWaitscRelease p x s
  | .sigsc p x ctr => Sys2Proof.Machine.execSigsc p x ctr s
  | .stepend p x => Sys2Proof.Machine.execStepend p x s
  | .stepTokenReturn p x => Sys2Proof.Machine.execStepTokenReturn p x s
  | .stepno p x gd hi => Sys2Proof.Machine.execStepno p x gd hi s
  | .groupStart p => Sys2Proof.Machine.execGroupStart p s
  | .groupBufferFill p => Sys2Proof.Machine.execGroupBufferFill p s
  | .bundleIssue p => Sys2Proof.Machine.execBundleIssue p s
  | .groupComplete p => Sys2Proof.Machine.execGroupComplete p s
  | .mma p a => Sys2Proof.Machine.execMma p a s
  | .arrayMax p a => Sys2Proof.Machine.execArrayMax p a s
  | .arrayMin p a => Sys2Proof.Machine.execArrayMin p a s
  | .drain p arr bank desc => Sys2Proof.Machine.execDrain p arr bank desc s
  | .arrayResultLanding p arr bank => Sys2Proof.Machine.execArrayResultLanding p arr bank s
  | .vecFma p v => Sys2Proof.Machine.execVecFma p v s
  | .vecMul p v => Sys2Proof.Machine.execVecMul p v s
  | .vecAdd p v => Sys2Proof.Machine.execVecAdd p v s
  | .vecSub p v => Sys2Proof.Machine.execVecSub p v s
  | .vecMax p v => Sys2Proof.Machine.execVecMax p v s
  | .vecMin p v => Sys2Proof.Machine.execVecMin p v s
  | .cast p vd va sfmt tfmt sr => Sys2Proof.Machine.execCast p vd va sfmt tfmt sr s
  | .div p v => Sys2Proof.Machine.execDiv p v s
  | .sqrt p v => Sys2Proof.Machine.execSqrt p v s
  | .vload p vd offset mfmt => Sys2Proof.Machine.execVload p vd offset mfmt s
  | .vstore p vs offset mfmt => Sys2Proof.Machine.execVstore p vs offset mfmt s
  | .vbank p vd arr bank row => Sys2Proof.Machine.execVbank p vd arr bank row s
  | .update p v => Sys2Proof.Machine.execUpdate p v s
  | .softmaxF p desc rows => Sys2Proof.Machine.execSoftmaxF p desc rows s
  | .softmaxB p desc rows => Sys2Proof.Machine.execSoftmaxB p desc rows s
  | .layernormF p desc rows => Sys2Proof.Machine.execLayernormF p desc rows s
  | .layernormB p desc rows => Sys2Proof.Machine.execLayernormB p desc rows s
  | .rmsnormF p desc rows => Sys2Proof.Machine.execRmsnormF p desc rows s
  | .rmsnormB p desc rows => Sys2Proof.Machine.execRmsnormB p desc rows s
  | .swatchEvaluate p => Sys2Proof.Machine.execSwatchEvaluate p s
  | .loadCopy p x => Sys2Proof.Machine.execLoadCopy p x s
  | .amax p x => Sys2Proof.Machine.execAmax p x s
  | .gather p x => Sys2Proof.Machine.execGather p x s
  | .loadStash p x => Sys2Proof.Machine.execLoadStash p x s
  | .storeCopy p x => Sys2Proof.Machine.execStoreCopy p x s
  | .scatter p x => Sys2Proof.Machine.execScatter p x s
  | .scatterAdd p x => Sys2Proof.Machine.execScatterAdd p x s
  | .storeStash p x => Sys2Proof.Machine.execStoreStash p x s
  | .streamSend p port x => Sys2Proof.Machine.execStreamSend p port x s
  | .streamRecv p port x => Sys2Proof.Machine.execStreamRecv p port x s
  | .chain p port x => Sys2Proof.Machine.execChain p port x s
  | .commandComplete p queue x => Sys2Proof.Machine.execCommandComplete p queue x s
  | .commandTimeout p queue x => Sys2Proof.Machine.execCommandTimeout p queue x s
  | .streamUnitArrival stream unit poison => Sys2Proof.Machine.execStreamUnitArrival stream unit poison s
  | .streamCreditReturn stream => Sys2Proof.Machine.execStreamCreditReturn stream s
  | .wcbIdleFlush die pc line => Sys2Proof.Machine.execWcbIdleFlush die pc line s
  | .narrowEntryTimeout die pc => Sys2Proof.Machine.execNarrowEntryTimeout die pc s
  | .narrowLineReturn die pc => Sys2Proof.Machine.execNarrowLineReturn die pc s
  | .patrolScrubRead m hit => Sys2Proof.Machine.execPatrolScrubRead m hit s
  | .hbmRecalibration stack => Sys2Proof.Machine.execHbmRecalibration stack s
  | .hbmRetrainComplete stack => Sys2Proof.Machine.execHbmRetrainComplete stack s
  | .stepStart => Sys2Proof.Machine.execStepStart s
  | .vatToken vat n => Sys2Proof.Machine.execVatToken vat n s
  | .replayStart => Sys2Proof.Machine.execReplayStart s
  | .replayComplete vat n => Sys2Proof.Machine.execReplayComplete vat n s
  | .quiesceComplete => Sys2Proof.Machine.execQuiesceComplete s
  | .suspectReplayJudged j => Sys2Proof.Machine.execSuspectReplayJudged j s
  | .provingDue p => Sys2Proof.Machine.execProvingDue p s
  | .provingComplete p failed => Sys2Proof.Machine.execProvingComplete p failed s
  | .fenceRemapComplete p => Sys2Proof.Machine.execFenceRemapComplete p s
  | .mirrorDeltaStart => Sys2Proof.Machine.execMirrorDeltaStart s
  | .halt m => Sys2Proof.Machine.execHalt m s
  | .ready m => Sys2Proof.Machine.execReady m s
  | .grant m => Sys2Proof.Machine.execGrant m s
  | .stopReport m => Sys2Proof.Machine.execStopReport m s
  | .target m => Sys2Proof.Machine.execTarget m s
  | .resume m => Sys2Proof.Machine.execResume m s
  | .restoreEnd m => Sys2Proof.Machine.execRestoreEnd m s
  | .mirrorOpen m => Sys2Proof.Machine.execMirrorOpen m s
  | .mirrorBegin m => Sys2Proof.Machine.execMirrorBegin m s
  | .mirrorGranule m => Sys2Proof.Machine.execMirrorGranule m s
  | .mirrorEnd m => Sys2Proof.Machine.execMirrorEnd m s
  | .mirrorAbort m => Sys2Proof.Machine.execMirrorAbort m s
  | .mirrorAck m => Sys2Proof.Machine.execMirrorAck m s
  | .mirrorInvalid m => Sys2Proof.Machine.execMirrorInvalid m s
  | .mirrorRead m => Sys2Proof.Machine.execMirrorRead m s
  | .mirrorData m => Sys2Proof.Machine.execMirrorData m s
  | .shardReport m => Sys2Proof.Machine.execShardReport m s
  | .restoreReport m => Sys2Proof.Machine.execRestoreReport m s
  | .manifestInvalidated => Sys2Proof.Machine.execManifestInvalidated s
  | .storageWriteAck n => Sys2Proof.Machine.execStorageWriteAck n s
  | .storageWriteFailure n => Sys2Proof.Machine.execStorageWriteFailure n s
  | .storageReadResponse data ok => Sys2Proof.Machine.execStorageReadResponse data ok s
  | .gatherTimeout => Sys2Proof.Machine.execGatherTimeout s
  | .flitData port f => Sys2Proof.Machine.execFlitData port f s
  | .flitStreamCredit port f => Sys2Proof.Machine.execFlitStreamCredit port f s
  | .flitNull port f => Sys2Proof.Machine.execFlitNull port f s
  | .marker port f => Sys2Proof.Machine.execMarker port f s
  | .peerRecord port rec => Sys2Proof.Machine.execPeerRecord port rec s
  | .torusAccept port => Sys2Proof.Machine.execTorusAccept port s
  | .torusRefuse port reason => Sys2Proof.Machine.execTorusRefuse port reason s
  | .laneMap port map => Sys2Proof.Machine.execLaneMap port map s
  | .signalDetect port lanes => Sys2Proof.Machine.execSignalDetect port lanes s
  | .equalizationComplete port trained => Sys2Proof.Machine.execEqualizationComplete port trained s
  | .alignComplete port => Sys2Proof.Machine.execAlignComplete port s
  | .torusLaneFault port lane recovered => Sys2Proof.Machine.execTorusLaneFault port lane recovered s
  | .flapDecay port lane => Sys2Proof.Machine.execFlapDecay port lane s
  | .retrainTimeout port => Sys2Proof.Machine.execRetrainTimeout port s
  | .linkUpTimeout port => Sys2Proof.Machine.execLinkUpTimeout port s
  | .lossOfSignal port lanesLost peerDown => Sys2Proof.Machine.execLossOfSignal port lanesLost peerDown s
  | .d2dUnitFrame j header unit => Sys2Proof.Machine.execD2dUnitFrame j header unit s
  | .d2dCreditFrame j header => Sys2Proof.Machine.execD2dCreditFrame j header s
  | .d2dLaneFault j chan laneRepairable => Sys2Proof.Machine.execD2dLaneFault j chan laneRepairable s
  | .d2dRetrainComplete j ok => Sys2Proof.Machine.execD2dRetrainComplete j ok s
  | .d2dLinkUp j rateGts => Sys2Proof.Machine.execD2dLinkUp j rateGts s
  | .capabilityRecord j rec => Sys2Proof.Machine.execCapabilityRecord j rec s
  | .endpointRecord rec => Sys2Proof.Machine.execEndpointRecord rec s
  | .negotiationTimeout j => Sys2Proof.Machine.execNegotiationTimeout j s
  | .expansionDownTimeout => Sys2Proof.Machine.execExpansionDownTimeout s
  | .expansionRailOvercurrent => Sys2Proof.Machine.execExpansionRailOvercurrent s
  | .dieWatchdogExpiry d => Sys2Proof.Machine.execDieWatchdogExpiry d s
  | .diePllLoss d => Sys2Proof.Machine.execDiePllLoss d s
  | .dieResetComplete d => Sys2Proof.Machine.execDieResetComplete d s
  | .hubWatchdogExpiry => Sys2Proof.Machine.execHubWatchdogExpiry s
  | .hubReturn => Sys2Proof.Machine.execHubReturn s
  | .hubBootComplete => Sys2Proof.Machine.execHubBootComplete s
  | .bootWatchdog => Sys2Proof.Machine.execBootWatchdog s
  | .inputPowerGood straps => Sys2Proof.Machine.execInputPowerGood straps s
  | .inputPowerLoss => Sys2Proof.Machine.execInputPowerLoss s
  | .rstInNAsserted => Sys2Proof.Machine.execRstInNAsserted s
  | .rstInNReleased refclkGood => Sys2Proof.Machine.execRstInNReleased refclkGood s
  | .refclkLoss => Sys2Proof.Machine.execRefclkLoss s
  | .refclkReturn => Sys2Proof.Machine.execRefclkReturn s
  | .thermalTripComparator sensor mc => Sys2Proof.Machine.execThermalTripComparator sensor mc s
  | .sensorSample v => Sys2Proof.Machine.execSensorSample v s
  | .railOutOfRegulation rail => Sys2Proof.Machine.execRailOutOfRegulation rail s
  | .telemetryPeriod => Sys2Proof.Machine.execTelemetryPeriod s
  | .eventLogFlush => Sys2Proof.Machine.execEventLogFlush s
  | .bgDeferExpiry bit => Sys2Proof.Machine.execBgDeferExpiry bit s
  | .flashHousekeeping erases blockReplaced => Sys2Proof.Machine.execFlashHousekeeping erases blockReplaced s
  | .tapExtest bits => Sys2Proof.Machine.execTapExtest bits s
  | .tapIdcode => Sys2Proof.Machine.execTapIdcode s
  | .tapSamplePreload bits => Sys2Proof.Machine.execTapSamplePreload bits s
  | .tapBypass => Sys2Proof.Machine.execTapBypass s
  | .tapInternalScan op => Sys2Proof.Machine.execTapInternalScan op s
  | .mirrorGranuleSent => Sys2Proof.Machine.execMirrorGranuleSent s
  | .shardBlockCoded => Sys2Proof.Machine.execShardBlockCoded s
  | .hbmStackFailure stack => Sys2Proof.Machine.execHbmStackFailure stack s
  | .ethernetLinkUp port iface => Sys2Proof.Machine.execEthernetLinkUp port iface s
  | .ethernetLinkDown port iface => Sys2Proof.Machine.execEthernetLinkDown port iface s
  | .d2dLinkLoss j => Sys2Proof.Machine.execD2dLinkLoss j s
  | .imageLoadComplete => Sys2Proof.Machine.execImageLoadComplete s
  | .firmwareWriteComplete ok => Sys2Proof.Machine.execFirmwareWriteComplete ok s
  | .hbmRepairComplete stack => Sys2Proof.Machine.execHbmRepairComplete stack s
  | .commandLimitExpiry handle => Sys2Proof.Machine.execCommandLimitExpiry handle s
  | .activationHubReset => Sys2Proof.Machine.execActivationHubReset s
  | .ackTimeoutExpiry q => Sys2Proof.Machine.execAckTimeoutExpiry q s
  | .pfcPauseExpiry port iface => Sys2Proof.Machine.execPfcPauseExpiry port iface s
  | .suspectMarkExpiry p => Sys2Proof.Machine.execSuspectMarkExpiry p s
  | .tripLatchClear => Sys2Proof.Machine.execTripLatchClear s
  | .dimensionWrite r axis v => Sys2Proof.Machine.execDimensionWrite r axis v s
  | .alertEnableWrite r v => Sys2Proof.Machine.execAlertEnableWrite r v s
  | .pllCalibration => Sys2Proof.Machine.execPllCalibration s
  | .voltageCalibration => Sys2Proof.Machine.execVoltageCalibration s

end Sys2Proof.Machine
end

