-- ==== Sys2Proof/Safety.lean ====
section
/-! DEFINITION. What counts as safe: the forms that the state keeps, and a run that meets neither a fault nor a refusal. And the terms in
which the statements speak of the module: when a command's own effect happens. -/

namespace Sys2Proof

open Machine

/- Forms. -/

/-- The byte memories of a core are in canonical form. -/
def Machine.Core.memWf (c : Machine.Core) : Bool := Memory.wf c.imem && Memory.wf c.dmem && Memory.wf c.cs

/-- Every byte memory outside the cores is in canonical form: HBM, the base store, and the replay area. -/
def Machine.State.memWf (s : State) : Bool := Memory.wf s.mem.hbm && Memory.wf s.mem.base

/-- The scalar entries are in canonical form: keys rising, none at its default. -/
def Machine.State.objWf (s : State) : Bool := SMap.sorted s.obj && s.obj.all (fun e => decide (e.2 ≠ objDefault e.1))

/-- An outcome is a next state. -/
def Machine.Out.isNext : Out → Bool
  | .next _ => true
  | .fault _ => false
  | .refused _ => false

/-- k steps from s meet neither a fault nor a refusal. -/
def safeRun : Nat → State → Bool
  | 0, _ => true
  | k + 1, s => match Machine.step s with
    | .next t => safeRun k t
    | .fault _ => false
    | .refused _ => false

/- Cores and contexts. -/

/-- Core p runs: it is a core of the grade, powered, and ACTIVE or serving a replay. -/
def Machine.State.coreUp (s : State) (p : Nat) : Prop := p < s.grade.cores ∧ s.coresRun p = true

/-- Context x of core p. -/
abbrev Machine.State.ctxAt (s : State) (p : Nat) (x : Fin 4) : Ctx := (s.core p).ctx x.val

/-- The control core takes an instruction of context x of core p (R59). -/
def Machine.State.takesInstr (s : State) (p : Nat) (x : Fin 4) : Prop :=
  s.coreUp p ∧ (s.core p).nextControl = some x.val ∧ (s.core p).fetchHit x.val = false

/-- Context x of core p has had its turn at the control core (R59), and nothing else has changed. -/
def Machine.State.turn (s : State) (p : Nat) (x : Fin 4) : State := s.setCore p ((s.core p).served x.val)

/-- The state after an instruction of context x of core p that leaves g and the pc as given and nothing else changed. -/
def Machine.State.wrote (s : State) (p : Nat) (x : Fin 4) (gd : Fin 32) (v : W32) : State :=
  (s.turn p x).setCtx p x.val ((s.ctxAt p x).after.setReg gd v)

/-- A core after n cycles. -/
def Machine.Core.afterCycles (c : Machine.Core) : Nat → Machine.Core
  | 0 => c
  | n + 1 => Machine.Core.afterCycles c.tick.1 n

/- Bundles. -/

/-- The running group g of core p has `op` next in the slot order of the bundle that issues (R68). -/
def Machine.State.nextSlot (s : State) (p : Nat) (g : Group) (op : SlotOp) : Prop :=
  s.coreUp p ∧ (s.core p).group = some g ∧ (s.core p).issued.head? = some op

/-- Nothing but `op` is left to issue, nothing else is in flight or waits to land on core p, and what the operation may read holds no
poison. -/
def Machine.State.onlySlot (s : State) (p : Nat) (g : Group) (op : SlotOp) : Prop :=
  s.coreUp p ∧ (s.core p).group = some g ∧ (s.core p).issued = [op] ∧ (s.core p).flight = [] ∧ (s.core p).pend = [] ∧
  g.ctx < (s.core p).ctxs.length ∧ (s.core p).csPoison = [] ∧ ((s.core p).ctx g.ctx).vPoison = [] ∧
  ∀ b ∈ (s.core p).banks, b.poison = false

/-- The commands of a bundle's slots (R67), with the operation that each issues. -/
def slotCommand (p : Nat) : SlotOp → Option Instr
  | .array .mma a => some (.mma p a)
  | .array .max a => some (.arrayMax p a)
  | .array .min a => some (.arrayMin p a)
  | .drain arr bank desc => some (.drain p arr bank desc)
  | .vec 1 v => some (.vecFma p v)
  | .vec 2 v => some (.vecMul p v)
  | .vec 3 v => some (.vecAdd p v)
  | .vec 4 v => some (.vecSub p v)
  | .vec 5 v => some (.vecMax p v)
  | .vec 6 v => some (.vecMin p v)
  | .vec 8 v => some (.div p v)
  | .vec 9 v => some (.sqrt p v)
  | .vec 13 v => some (.update p v)
  | .vec _ _ => none
  | .cast vd va sfmt tfmt sr => some (.cast p vd va sfmt tfmt sr)
  | .vload vd offset mfmt => some (.vload p vd offset mfmt)
  | .vstore vs offset mfmt => some (.vstore p vs offset mfmt)
  | .vbank vd arr bank row => some (.vbank p vd arr bank row)
  | .row 1 desc rows => some (.softmaxF p desc rows)
  | .row 2 desc rows => some (.softmaxB p desc rows)
  | .row 3 desc rows => some (.layernormF p desc rows)
  | .row 4 desc rows => some (.layernormB p desc rows)
  | .row 5 desc rows => some (.rmsnormF p desc rows)
  | .row 6 desc rows => some (.rmsnormB p desc rows)
  | .row _ _ _ => none

/- Engines and streams. -/

/-- The engine of queue q has taken the head of context x's queue on core p: what held it holds it no longer. -/
def Machine.State.engineTakes (s : State) (p : Nat) (x : Fin 4) (q : Nat) : State := (s.dropHeld (some (p, x.val, q))).takeHead p x.val q

/-- Queue q of context x of core p starts its only entry l, of kind k, as command c: it is the engine's turn and kind, its descriptors read
without a poisoned byte, the same once the engine has taken it, and nothing holds its first write. -/
def Machine.State.startsCmd (s : State) (p : Nat) (x : Fin 4) (q kind : Nat) (l : Line) (c : LsCmd) (bad : State → LsCmd → Bool)
    (spans : State → LsCmd → List (Int × Nat)) : Prop :=
  s.coreUp p ∧ (s.core p).startKind q x.val kind = some l ∧ (s.ctxAt p x).queue q = [l] ∧
  s.lsCmd (s.eng p x.val q) l = .ok c ∧ (s.engineTakes p x q).lsCmd (s.eng p x.val q) l = .ok c ∧ c.e.mark = false ∧
  c.e = s.eng p x.val q ∧ bad s c = false ∧ bad (s.engineTakes p x q) c = false ∧ s.stacksBusy (coreDie p) = false ∧
  s.writeGate (s.eng p x.val q) (s.stateGranules (spans s c)) = (false, s)

/-- The units that a stream's book accounts for: credits, units in flight and in the receiver's share, and credits on their way back. -/
def Machine.Stream.total (b : Stream) : Nat := b.credits + b.flying.length + b.share.length + b.returning

/- Requests. -/

/-- The module takes COMMAND r (R439, R445, R448): r is the next request of the open session q over its own path, the session's level covers
the command's, its HSEQ is below 2^28 and new to the session, and the session holds fewer than 4,096 handles. -/
def Machine.State.takesCommand (s : State) (r : Req) (q : Session) (level : Nat) : Prop :=
  s.takeAs r = .take q ∧ level ≤ q.level ∧ q.outstanding.length < 4096 ∧ r.hseq.toNat < 2 ^ 28 ∧ r.hseq.toNat ∉ q.usedHseq

/-- The state once request r of session q has been taken: the highest SEQ of the session is r's. -/
def Machine.State.taken (s : State) (r : Req) (q : Session) : State := s.setSession { q with highSeq := r.seq.toNat }

/-- Request r has been answered by t with a status. -/
def Machine.State.replied (t : State) (r : Req) (status : Nat) : Prop :=
  ∃ m : Reply, .reply r.via m ∈ t.out ∧ m.session = r.session ∧ m.seq = r.seq ∧ m.status = status

/-- COMMAND r has been answered by t with a status and result words, its handle with them (R438, R448). -/
def Machine.State.answered (t : State) (r : Req) (status : Nat) (words : List Nat) : Prop :=
  ∃ m : Reply, .reply r.via m ∈ t.out ∧ m.session = r.session ∧ m.seq = r.seq ∧ m.status = status ∧ m.handle = handleWord r ∧
    m.data = results words

/- The ledger, and messages. -/

/-- No poisoned write waits to reach HBM (R197). -/
def Machine.State.cleanWrites (s : State) : Prop := s.mem.overflow = [] ∧ ∀ e ∈ s.mem.wcb, e.hits = 0

/-- The write-combining entries name lines of their dies, no line twice (R184, R188). -/
def Machine.State.entriesSound (s : State) : Prop :=
  (∀ e ∈ s.mem.wcb, e.line < 2 ^ 31) ∧ s.mem.wcb.Pairwise (fun e f => ¬ (e.die = f.die ∧ e.line = f.line))

/-- Neither a rollback nor a local recovery is in progress. -/
def Machine.State.calm (s : State) : Prop := s.steps.rollback = none ∧ s.ledger.recovery = none

/-- An event of a code with its arguments has been raised between s and t: it stands in the log or its buffer, numbered from EVENT_COUNT
on (R470). -/
def Machine.State.raised (s t : State) (code arg0 arg1 : Nat) : Prop :=
  ∃ e ∈ t.log ++ t.logBuf, e.code = code ∧ e.arg0 = arg0 % 2 ^ 32 ∧ e.arg1 = arg1 % 2 ^ 32 ∧
    ∃ k < 16, e.seq = (s.o kEventCount + k) % 2 ^ 32

/-- The module takes message m: it came on an ACTIVE port or from the module itself, for this job, and not poisoned (R316, R317). -/
def Machine.State.hears (s : State) (m : Msg) : Prop :=
  m.port ≤ 6 ∧ s.hubUp = true ∧ (m.port = 6 ∨ s.linkState m.port = 5) ∧ m.jobId.toNat = s.jobId ∧ m.poisoned = false

/-- The module takes m as the first copy of a flood that another module originated (R317). -/
def Machine.State.hearsFirst (s : State) (m : Msg) (tag : Nat) : Prop :=
  s.hears m ∧ (tag, m.coord.toNat, m.msgId.toNat) ∉ s.steps.seen ∧ m.coord.toNat ≠ s.coord

/-- A flit of a tag and a payload is on its way out of port p: it waits there, or has been sent and is held for retry (R303). -/
def Machine.State.outOn (s : State) (p tag : Nat) (payload : List Byte) : Prop :=
  ∃ f ∈ (s.link p).queue.map (fun e => e.2) ++ (s.link p).retry.map (fun e => e.2), flTag f = tag ∧ f.payload = payload

/-- The class-1 message of MSG_ID `id` and its data, in the flits of R367, is on its way out of the port to its destination. -/
def Machine.State.sentClass1 (s t : State) (id dst tag step word value : Nat) (data : List Byte) : Prop :=
  let bytes := messageBytes s.jobId id step word value ++ data
  ∀ p, s.portFor 1 dst = some p → ∀ b ∈ flitPieces (bytes.length + 1) bytes, t.outOn p tag b

/-- Between s and t the module has sent the record on port p in a CONTROL flit, and nothing else (R301). -/
def Machine.State.sentControl (s t : State) (p : Nat) (record : List Byte) : Prop :=
  ∃ f, t.out = s.out ++ [.flit p f] ∧ flType f = 3 ∧ flLen f = record.length ∧ f.payload = bytesAt record 0 232 ∧ flitGood f = true

/-- The coordinate is one of the job's (R296). -/
def Machine.State.coordFits (s : State) : Prop := s.coord < 2 ^ 15 ∧ ∀ p, s.neighbour s.coord p < 2 ^ 15

/-- RUN(n) reaches vat v from the root of the image: the queues on the way have room for it and hold nothing before it (R244). -/
def Machine.State.runReaches (s : State) (n v : Nat) : Prop := ((s.toVat 0 (.run n)).passDown).vatHead v = some (.run n)

/-- A step is FIXED, MIRRORED or DISCARDED. -/
def Machine.StepRec.closed (r : StepRec) : Prop := r.st = .fixed ∨ r.st = .mirrored ∨ r.st = .discarded

end Sys2Proof
end

