-- ==== Sys2Proof/Certificates/Slice0/Obligations.lean ====
section
/-! DEFINITION. The statements about the module. -/

open Sys2Proof Sys2Proof.Machine

/- The control core. -/

/-- R45, R48: each ALU instruction writes its function of g(GA) and g(GB), modulo 2^32, to g(GD), moves the pc past itself, and changes
nothing else. -/
def Obligations.AluInstructions : Prop :=
  ∀ (s : State) (p : Nat) (x : Fin 4) (gd ga gb : Fin 32), s.takesInstr p x →
    let a := (s.ctxAt p x).reg ga
    let b := (s.ctxAt p x).reg gb
    exec (.aluAdd p x gd ga gb) s = .next (s.wrote p x gd (a + b)) ∧
    exec (.aluSub p x gd ga gb) s = .next (s.wrote p x gd (a - b)) ∧
    exec (.aluAnd p x gd ga gb) s = .next (s.wrote p x gd (a &&& b)) ∧
    exec (.aluOr p x gd ga gb) s = .next (s.wrote p x gd (a ||| b)) ∧
    exec (.aluXor p x gd ga gb) s = .next (s.wrote p x gd (a ^^^ b)) ∧
    exec (.aluSll p x gd ga gb) s = .next (s.wrote p x gd (a <<< (b.toNat % 32))) ∧
    exec (.aluSrl p x gd ga gb) s = .next (s.wrote p x gd (a >>> (b.toNat % 32))) ∧
    exec (.aluSra p x gd ga gb) s = .next (s.wrote p x gd (a.sshiftRight (b.toNat % 32))) ∧
    exec (.aluMul p x gd ga gb) s = .next (s.wrote p x gd (a * b)) ∧
    exec (.aluMulhu p x gd ga gb) s = .next (s.wrote p x gd ((a.zeroExtend 64 * b.zeroExtend 64).extractLsb' 32 32)) ∧
    exec (.aluSlt p x gd ga gb) s = .next (s.wrote p x gd (if a.toInt < b.toInt then 1 else 0)) ∧
    exec (.aluSltu p x gd ga gb) s = .next (s.wrote p x gd (if a.toNat < b.toNat then 1 else 0))

/-- R48: the immediate forms, and STEPNO, likewise. -/
def Obligations.ImmediateInstructions : Prop :=
  ∀ (s : State) (p : Nat) (x : Fin 4) (gd ga : Fin 32) (imm : W16), s.takesInstr p x →
    let a := (s.ctxAt p x).reg ga
    exec (.addi p x gd ga imm) s = .next (s.wrote p x gd (a + imm.signExtend 32)) ∧
    exec (.andi p x gd ga imm) s = .next (s.wrote p x gd (a &&& imm.zeroExtend 32)) ∧
    exec (.ori p x gd ga imm) s = .next (s.wrote p x gd (a ||| imm.zeroExtend 32)) ∧
    exec (.lui p x gd imm) s = .next (s.wrote p x gd (BitVec.ofNat 32 (imm.toNat * 2 ^ 16))) ∧
    exec (.stepno p x gd false) s = .next (s.wrote p x gd (BitVec.ofNat 32 (s.ctxAt p x).step)) ∧
    exec (.stepno p x gd true) s = .next (s.wrote p x gd (BitVec.ofNat 32 ((s.ctxAt p x).step / 2 ^ 32)))

/-- R45: what an instruction that writes g(GD) leaves: every other register of the context reads as before, g0 reads 0 whatever was
written to it, the other contexts of the core and every other core are unchanged, the core's memories, the scalar entries, the memory
behind the cores, the module state and what has been sent are unchanged; the pc moves to the next instruction. -/
def Obligations.RegisterWriteFrame : Prop :=
  ∀ (s : State) (p : Nat) (x : Fin 4) (gd : Fin 32) (v : W32), (s.core p).ctxs.length = 4 →
    let t := s.wrote p x gd v
    (t.ctxAt p x).reg gd = (if gd = 0 then 0 else v) ∧
    (∀ r : Fin 32, r ≠ gd → (t.ctxAt p x).reg r = (s.ctxAt p x).reg r) ∧
    (t.ctxAt p x).pc = (s.ctxAt p x).pc + 4 ∧
    (t.ctxAt p x).sc = (s.ctxAt p x).sc ∧ (t.ctxAt p x).v = (s.ctxAt p x).v ∧
    (t.ctxAt p x).queues = (s.ctxAt p x).queues ∧ (t.ctxAt p x).stall = (s.ctxAt p x).stall ∧
    (∀ y : Fin 4, y ≠ x → t.ctxAt p y = s.ctxAt p y) ∧
    (∀ q : Nat, q ≠ p → t.core q = s.core q) ∧
    (∀ a : Nat, Memory.byte (t.core p).dmem a = Memory.byte (s.core p).dmem a ∧
                Memory.byte (t.core p).cs a = Memory.byte (s.core p).cs a) ∧
    (t.core p).banks = (s.core p).banks ∧ (t.core p).mordant = (s.core p).mordant ∧
    t.mem = s.mem ∧ t.obj = s.obj ∧ t.mstate = s.mstate ∧ t.steps = s.steps ∧ t.out = s.out

/-- R48, R50, R197: LW, SW and LCS at an address that the context may use, aligned to 4 B. LW reads the word of data memory, or where it has a
parity hit the context stops; SW writes it, and every byte of data memory outside those four, and of the core store, reads as before; LCS reads
a core-store word that holds no poison. -/
def Obligations.LoadsAndStores : Prop :=
  ∀ (s : State) (p : Nat) (x : Fin 4) (gd ga : Fin 32) (imm : W16), s.takesInstr p x →
    let k := s.ctxAt p x
    let a := (k.reg ga + imm.signExtend 32).toNat
    (a % 4 = 0 → 4 * k.bind.dmemBase ≤ a → a + 4 ≤ 4 * (k.bind.dmemBase + k.bind.dmemLen) →
      ((s.core p).dataHit a 4 = false →
        exec (.lw p x gd ga imm) s = .next (s.wrote p x gd (BitVec.ofNat 32 (Memory.num (s.core p).dmem a 4)))) ∧
      ((s.core p).dataHit a 4 = true → exec (.lw p x gd ga imm) s = .next ((s.turn p x).controlHit p x.val)) ∧
      ∃ t, exec (.sw p x gd ga imm) s = .next t ∧
        (∀ i : Nat, i < 4 → Memory.byte (t.core p).dmem (a + i) = BitVec.ofNat 8 ((k.reg gd).toNat / 256 ^ i)) ∧
        (∀ c : Nat, c < a ∨ a + 4 ≤ c → Memory.byte (t.core p).dmem c = Memory.byte (s.core p).dmem c) ∧
        (t.core p).cs = (s.core p).cs ∧ (∀ q : Nat, q ≠ p → t.core q = s.core q) ∧ t.mem = s.mem ∧ t.obj = s.obj ∧
        ((s.core p).ctxs.length = 4 → t.ctxAt p x = k.after)) ∧
    (a % 4 = 0 → (s.scope k).reads a 4 = true → (s.core p).csHit a 4 = false →
      exec (.lcs p x gd ga imm) s = .next (s.wrote p x gd (BitVec.ofNat 32 (ofLe ((s.core p).csBytes a 4)))))

/-- R48, R50: branches and jumps. A branch whose condition fails falls through; one whose condition holds, and a jump, go to their target
where it is aligned and in the context's code range, JAL and JALR writing g(GD) = pc + 4; any other target traps the context, as a
command at the control core (queue 5). -/
def Obligations.BranchesAndJumps : Prop :=
  ∀ (s : State) (p : Nat) (x : Fin 4) (gd ga gb : Fin 32) (off imm : W16) (joff : BitVec 21), s.takesInstr p x →
    let k := s.ctxAt p x
    let a := k.reg ga
    let b := k.reg gb
    let code := fun (t : W32) => t.toNat % 4 = 0 ∧ 4 * k.bind.codeBase ≤ t.toNat ∧ t.toNat < 4 * (k.bind.codeBase + k.bind.codeLen)
    let go := fun (gd : Fin 32) (t : W32) (o : Out) =>
      (code t → o = .next ((s.turn p x).setCtx p x.val { k.setReg gd (k.pc + 4) with pc := t, executed := k.executed + 1 })) ∧
      (¬ code t → o = .next ((s.turn p x).trap p x.val 5 k.executed))
    let br := fun (cond : Prop) (o : Out) => (¬ cond → o = .next ((s.turn p x).setCtx p x.val k.after)) ∧
      (cond → go 0 (k.pc + 4 * off.signExtend 32) o)
    br (a = b) (exec (.beq p x ga gb off) s) ∧
    br (a ≠ b) (exec (.bne p x ga gb off) s) ∧
    br (a.toInt < b.toInt) (exec (.blt p x ga gb off) s) ∧
    br (b.toInt ≤ a.toInt) (exec (.bge p x ga gb off) s) ∧
    br (a.toNat < b.toNat) (exec (.bltu p x ga gb off) s) ∧
    br (b.toNat ≤ a.toNat) (exec (.bgeu p x ga gb off) s) ∧
    go gd (k.pc + 4 * joff.signExtend 32) (exec (.jal p x gd joff) s) ∧
    go gd (a + imm.signExtend 32) (exec (.jalr p x gd ga imm) s)

/-- R48, R53, R54: PUSH of the 64 B at data address g(GA), without a parity hit, with PATCH 0. Where the queue has room and already holds an
entry, or the entry has nothing that R50 forbids at the head of a queue, the entry goes to the end of the queue and the pc moves on; into a full
queue the context stalls with it and the pc stays. A stalled PUSH goes on once its queue has room. -/
def Obligations.PushInstruction : Prop :=
  ∀ (s : State) (p : Nat) (x : Fin 4) (queue : Fin 5) (ga gb : Fin 32), (s.core p).ctxs.length = 4 →
    let k := s.ctxAt p x
    let q := k.queue queue.val
    let a := (k.reg ga).toNat
    let e : Line := BitVec.ofNat 512 (ofLe (Memory.bytes (s.core p).dmem a 64))
    let goodHead := fun (e : Line) =>
      entryBad queue.val e = false ∧ (queue.val = qBundle → groupInStatic (s.scope k) e = true)
    (s.takesInstr p x → a + 64 ≤ 32768 → (s.core p).dataHit a 64 = false →
      (q.length < 256 → q ≠ [] ∨ goodHead e →
        ∃ t, exec (.push p x queue ga gb false) s = .next t ∧ (t.ctxAt p x).queue queue.val = q ++ [e] ∧
          (t.ctxAt p x).pc = k.pc + 4 ∧ (t.ctxAt p x).steps = true) ∧
      (256 ≤ q.length →
        exec (.push p x queue ga gb false) s = .next ((s.turn p x).setCtx p x.val { k with stall := .push queue.val e }))) ∧
    (∀ e : Line, s.coreUp p → k.alive = true → k.running = true → k.stall = .push queue.val e → q.length < 256 →
      q ≠ [] ∨ goodHead e →
        ∃ t, exec (.pushResume p x) s = .next t ∧ (t.ctxAt p x).queue queue.val = q ++ [e] ∧
          (t.ctxAt p x).pc = k.pc + 4 ∧ (t.ctxAt p x).stall = .none)

/-- R51, R55: WAITSC goes on where (sc − VALUE) mod 2^16 < 2^15 and stalls the context otherwise; a context so stalled goes on once its
counter satisfies the value; SIGSC adds 1 to its counter; STEPEND stalls the context until every command that it pushed has completed,
and it then returns its token, that is, it runs no longer, and no bank of its own has an open reduction (R94). -/
def Obligations.SyncInstructions : Prop :=
  ∀ (s : State) (p : Nat) (x : Fin 4) (ctr : Fin 16) (value : W16),
    let k := s.ctxAt p x
    let ok := fun (c : Nat) (v : W16) => ((k.counter c).toNat + 2 ^ 16 - v.toNat) % 2 ^ 16 < 2 ^ 15
    (s.takesInstr p x →
      (ok ctr.val value → exec (.waitsc p x ctr value) s = .next ((s.turn p x).setCtx p x.val k.after)) ∧
      (¬ ok ctr.val value →
        exec (.waitsc p x ctr value) s = .next ((s.turn p x).setCtx p x.val { k with stall := .wait ctr.val value })) ∧
      exec (.sigsc p x ctr) s =
        .next ((s.turn p x).setCtx p x.val { k.after with sc := SMap.put 0 ctr.val (k.counter ctr.val + 1) k.sc }) ∧
      exec (.stepend p x) s = .next ((s.turn p x).setCtx p x.val { k.after with stall := .stepend })) ∧
    (s.coreUp p → k.alive = true → k.running = true →
      (∀ (c : Nat) (v : W16), k.stall = .wait c v → ok c v →
        exec (.waitscRelease p x) s = .next (s.setCtx p x.val { k.after with stall := .none })) ∧
      (k.stall = .stepend → k.taken = [] → (∀ e ∈ k.queues, e.2 = []) →
        ∃ t, exec (.stepTokenReturn p x) s = .next t ∧
          ((s.core p).ctxs.length = 4 → t.ctxAt p x = { k with running := false, stall := .none }) ∧
          (∀ b : Nat, b < (s.core p).banks.length → k.bind.owns b = true → ((t.core p).banks.getD b Bank.empty).red = none) ∧
          (∀ q : Nat, q ≠ p → t.core q = s.core q) ∧ t.mem = s.mem ∧ t.obj = s.obj))

/- The bundle engine, the arrays, the vector unit and the row engine. -/

/-- R64, R68, R69: each of the 23 slot commands (MMA, MAX, MIN, DRAIN; FMA to SQRT, CAST, VLOAD, VSTORE, VBANK, UPDATE; the six row
operations) issues its operation when that is next in the slot order of the bundle that issues: the operation is in flight from the
core's cycle with its group's descriptor and base, its unit is occupied for the occupancy of the table, what the bundle has left follows,
and registers, stores, banks and the rest of the module are unchanged. An operation that is not next issues nothing. -/
def Obligations.SlotOperationIssues : Prop :=
  ∀ (s : State) (p : Nat) (g : Group) (op : SlotOp) (i : Instr), slotCommand p op = some i →
    (s.nextSlot p g op → ∃ t, exec i s = .next t ∧
      (t.core p).issued = (s.core p).issued.tail ∧
      (∃ f, (t.core p).flight = (s.core p).flight ++ [f] ∧ f.op = op ∧ f.t = (s.core p).cycle ∧ f.ctx = g.ctx ∧
        f.desc = g.descOf op ∧ f.vbase = entVbase g.entry ∧ f.step = ((s.core p).ctx g.ctx).step) ∧
      SMap.get 0 op.unit (t.core p).busy = (s.core p).cycle + op.occupancy (g.descOf op) ∧
      (t.core p).cycle = (s.core p).cycle ∧ (t.core p).pend = (s.core p).pend ∧ (t.core p).group = (s.core p).group ∧
      (t.core p).cs = (s.core p).cs ∧ (t.core p).dmem = (s.core p).dmem ∧ (t.core p).banks = (s.core p).banks ∧
      (t.core p).mordant = (s.core p).mordant ∧
      (∀ x : Fin 4, (t.ctxAt p x).v = (s.ctxAt p x).v ∧ (t.ctxAt p x).g = (s.ctxAt p x).g ∧ (t.ctxAt p x).pc = (s.ctxAt p x).pc) ∧
      (∀ q : Nat, q ≠ p → t.core q = s.core q) ∧ t.mem = s.mem ∧ t.obj = s.obj ∧ t.out = s.out) ∧
    (s.coreUp p → (s.core p).group = some g → (s.core p).issued.head? ≠ some op → exec i s = .next s)

/-- R67, R69, R135: an arithmetic operation of the vector unit, alone in flight, lands in register VD of its context at the cycle of the
table (4 for ADD, SUB, MAX and MIN; 5 for MUL and FMA, 7 in FP64; 16 for DIV and SQRT, 30 in FP64): every lane holds its result, rounded once, of the
registers as read in the cycle after issue. -/
def Obligations.VectorArithmeticLands : Prop :=
  ∀ (s : State) (p : Nat) (g : Group) (o : Nat) (v : VArgs) (i : Instr), slotCommand p (.vec o v) = some i → o ≠ 13 →
    s.onlySlot p g (.vec o v) →
    let k := (s.core p).ctx g.ctx
    let n := if o = 8 ∨ o = 9 then (if v.width = 1 then 30 else 16) else if o = 1 ∨ o = 2 then (if v.width = 1 then 7 else 5) else 4
    ∃ t, exec i s = .next t ∧
      (((t.ticks p n).core p).ctx g.ctx).vreg v.vd.val =
        (vecArithmetic o v.width v.rnd v.half (k.vreg v.va.val) (k.vreg v.vb.val) (k.vreg v.vc.val)).bytes ∧
      (∀ m : Nat, m < n → (((t.ticks p m).core p).ctx g.ctx).v = k.v)

/-- R67, R69: VLOAD, VSTORE and VBANK, alone in flight: a register from core store at cycle t + 6, widened; core store from a register at t + 4,
cast; a register from a bank's row at t + 4 (memory format codes 0 to 0xA, the others being reserved). Core store is unchanged outside the bytes
that VSTORE writes. -/
def Obligations.VectorMovesLand : Prop :=
  ∀ (s : State) (p : Nat) (g : Group) (vd : Fin 32) (offset : BitVec 14) (mfmt : BitVec 4) (arr bank : Fin 2) (row : Fin 64),
    let k := (s.core p).ctx g.ctx
    let a := (entVbase g.entry + offset.toNat) * 256
    let n := if mfmt.toNat < 4 then 256 else if mfmt.toNat = 8 ∨ mfmt.toNat = 10 then 32 else 64
    mfmt.toNat ≤ 10 →
    (s.onlySlot p g (.vload vd offset mfmt) → ∃ t, exec (.vload p vd offset mfmt) s = .next t ∧
      (((t.ticks p 6).core p).ctx g.ctx).vreg vd.val = (vecLoad mfmt.toNat (Memory.bytes (s.core p).cs a n)).bytes ∧
      ((t.ticks p 6).core p).cs = (s.core p).cs) ∧
    (s.onlySlot p g (.vstore vd offset mfmt) → ∃ t, exec (.vstore p vd offset mfmt) s = .next t ∧
      Memory.bytes ((t.ticks p 4).core p).cs a n = (vecStore mfmt.toNat (k.vreg vd.val)).bytes ∧
      (∀ b : Nat, b < a ∨ a + n ≤ b → Memory.byte ((t.ticks p 4).core p).cs b = Memory.byte (s.core p).cs b)) ∧
    (s.onlySlot p g (.vbank vd arr bank row) → ∃ t, exec (.vbank p vd arr bank row) s = .next t ∧
      (((t.ticks p 4).core p).ctx g.ctx).vreg vd.val =
        (tileList (64 * row.val) 64 (((s.core p).bank arr.val bank.val).vals.filter (fun e => decide (64 * row.val ≤ e.1)))).flatMap
          (fun w => leBytes 4 w.toNat) ∧
      ((t.ticks p 4).core p).banks = (s.core p).banks)

/-- R60, R63, R65, R66: the bundle engine. A free buffer takes the bundles and the descriptor table of the head entry of the context whose
turn it is; a filled group that can no longer be the next is dropped, and one that can starts in the core's cycle, its first bundle due in that
cycle, when no group runs, no write waits to land and its units are free, and its entry leaves the queue for the engine; a due bundle that
passes its run-time checks, in a group within its budget, hands its operations over in slot order and makes the next one due GAP + 1 cycles
later; a group whose bundles have all issued and landed completes, its entry leaves the engine with the signal that it asks for, and the
engine chooses the context that it goes on with. -/
def Obligations.BundleEngineRuns : Prop :=
  ∀ (s : State) (p : Nat), s.coreUp p → (s.core p).ctxs.length = 4 →
    let c := s.core p
    (∀ (x : Nat) (e : Line) (l : List Line), c.nextGroup = none → qBundle ∉ c.halted → c.fillFor = some x →
      (c.ctx x).queue qBundle = e :: l → c.csPoison = [] →
      ∃ t g, exec (.groupBufferFill p) s = .next t ∧ (t.core p).nextGroup = some g ∧ g.ctx = x ∧ g.entry = e ∧ g.next = 0 ∧
        g.bundles = (List.range (entGroupCount e)).map
          (fun i => BitVec.ofNat 128 (ofLe (Memory.bytes c.cs (entGroupAddr e + 16 * i) 16))) ∧
        g.descs = (List.range 16).map (fun i => BitVec.ofNat 256 (ofLe (Memory.bytes c.cs (entDescAddr e + 32 * i) 32))) ∧
        (c.group = none → (t.core p).turn = some x) ∧ (t.core p).cs = c.cs ∧ (t.core p).group = c.group) ∧
    (∀ g : Group, c.nextGroup = some g → c.fillUsable g = false →
      ∃ t, exec (.groupStart p) s = .next t ∧ (t.core p).nextGroup = none ∧ (t.core p).group = c.group) ∧
    (∀ g : Group, c.nextGroup = some g → c.fillUsable g = true → c.group = none → c.pend = [] → qBundle ∉ c.halted → g.ctx < 4 →
      (c.ctx g.ctx).queue qBundle = [g.entry] → (∀ u ∈ g.units, SMap.get 0 u c.busy ≤ c.cycle) →
      ∃ t, exec (.groupStart p) s = .next t ∧ (t.core p).nextGroup = none ∧
        (t.core p).group = some { g with running := true, started := c.cycle, due := c.cycle } ∧
        ((t.core p).ctx g.ctx).queue qBundle = [] ∧ ((t.core p).ctx g.ctx).current qBundle = some (g.entry, 0)) ∧
    (∀ g : Group, c.group = some g → g.trapped = false → g.next < g.bundles.length → g.due ≤ c.cycle → c.issued = [] →
      s.groupLate p g = false → bundleTraps (s.scope (c.ctx g.ctx)) g.bundles g.descs (entVbase g.entry) g.next = false →
      ∃ t, exec (.bundleIssue p) s = .next t ∧ (t.core p).issued = bundleOps (g.bundles.getD g.next 0) ∧
        (t.core p).group = some { g with next := g.next + 1, due := c.cycle + bnGap (g.bundles.getD g.next 0) + 1 } ∧
        (t.core p).cycle = c.cycle ∧ (t.core p).cs = c.cs) ∧
    (∀ g : Group, c.group = some g → g.trapped = false → g.bundles.length ≤ g.next → c.issued = [] → c.pend = [] → c.flight = [] →
      s.groupLate p g = false → g.ctx < 4 → (c.ctx g.ctx).alive = true → (c.ctx g.ctx).current qBundle = some (g.entry, 0) →
      ∃ t, exec (.groupComplete p) s = .next t ∧ (t.core p).group = none ∧ ((t.core p).ctx g.ctx).current qBundle = none ∧
        (t.core p).turn = (t.core p).nextFor qBundle ∧
        (∀ k : Fin 16, ((t.core p).ctx g.ctx).counter k.val = (c.ctx g.ctx).counter k.val +
          (if entSigEn g.entry ∧ entSigCtr g.entry = k.val then 1 else 0)))

/-- R71, R72, R85: a finished reduction waits until its landing cycle and then replaces all the values of its bank; ARRAY_RESULT_LANDING
takes the core to that cycle where no bundle is due before it, and until then the bank holds what it held. -/
def Obligations.ArrayResultLands : Prop :=
  ∀ (s : State) (p : Nat) (arr bank : Fin 2) (t order : Nat) (vals : Tile) (poison : Bool), s.coreUp p →
    let c := s.core p
    c.pend = [{ at_ := t, order := order, what := .bank arr.val bank.val vals poison }] → c.flight = [] → c.issued = [] →
    c.banks.length = 4 → c.cycle < t → c.clearTo t = true →
    ∃ u, exec (.arrayResultLanding p arr bank) s = .next u ∧ (u.core p).cycle = t ∧ (u.core p).pend = [] ∧
      ((u.core p).bank arr.val bank.val).vals = vals ∧
      (∀ a b : Fin 2, (a, b) ≠ (arr, bank) → (u.core p).bank a.val b.val = c.bank a.val b.val) ∧
      (u.core p).cs = c.cs ∧
      (∀ n : Nat, c.cycle + n < t → ((s.ticks p n).core p).banks = c.banks)

/-- R341, R342: the vector unit evaluates the oldest captured swatch: it leaves its buffer, the count of evaluations and the bucket of its
disagreement rise by one, and where the disagreement is within the limit and its step has another swatch on the core nothing else changes. -/
def Obligations.SwatchEvaluated : Prop :=
  ∀ (s : State) (p : Nat) (w : Swatch) (l : List Swatch), s.coreUp p → (s.core p).swatches = w :: l → (∃ v ∈ l, v.step = w.step) →
    (val32 (BitVec.ofNat 32 (s.o 0x602100))).less (val32 w.error) = false →
    ∃ t, exec (.swatchEvaluate p) s = .next t ∧ (t.core p).swatches = l ∧ t.o 0x602301 = (s.o 0x602301 + 1) % 2 ^ 64 ∧
      SMap.get 0 (errorBucket w.error) t.histogram = (SMap.get 0 (errorBucket w.error) s.histogram + 1) % 2 ^ 64 ∧
      (∀ b : Nat, b ≠ errorBucket w.error → SMap.get 0 b t.histogram = SMap.get 0 b s.histogram) ∧
      (∀ k : Nat, k ≠ 0x602301 → t.o k = s.o k) ∧ t.steps = s.steps ∧ t.out = s.out

/-- R71: when two writes to the same bytes of core store land in different cycles the later landing stands; in one cycle, the later-issued
write. -/
def Obligations.LaterLandingStands : Prop :=
  ∀ (c : Machine.Core) (a i j n : Nat) (o1 o2 : Nat) (b1 b2 : List Byte), c.flight = [] → b1.length = b2.length →
    let w1 : PendWrite := { at_ := i, order := o1, what := .cs a b1 false }
    let w2 : PendWrite := { at_ := j, order := o2, what := .cs a b2 false }
    (c.pend = [w1, w2] ∨ c.pend = [w2, w1]) → c.cycle < i → c.cycle < j → (i < j ∨ (i = j ∧ c.pend = [w1, w2])) → j ≤ c.cycle + n →
    Memory.bytes (c.afterCycles n).cs a b2.length = b2

/- The engines and the stream ports. -/

/-- R60, R210-R212, R214, R216-R219, R223: the eight commands of the load and store engines run whole when they start (AMAX outside a
chain, GATHER where its units do not go by the narrow path), and a run that meets no fault leaves the command done: its effect on the
stores is that of the elements moved, cast or accumulated in canonical order, and its entry is the one the engine holds, with all its
work behind it. -/
def Obligations.EngineCommandsRun : Prop :=
  ∀ (s : State) (p : Nat) (x : Fin 4) (l : Line) (c : LsCmd),
    let done := fun (q : Nat) (i : Instr) (r : Run) => r.fault = none → r.s.mem.overflow = [] →
      (r.s.ctxAt p x).current q = some (l, 0) →
      exec i s = .next (r.s.progress p x.val q 1) ∧
      ((r.s.core p).ctxs.length = 4 → ((r.s.progress p x.val q 1).ctxAt p x).current q = some (l, 1))
    let u := fun (q : Nat) => s.engineTakes p x q
    let v := fun (q : Nat) => (u q).cacheSpans c.e ((u q).unitSpans c)
    (s.startsCmd p x qLoad lkCopy l c State.copyBad (fun _ _ => []) →
      ∀ k, (u qLoad).casterOf c = some k → done qLoad (.loadCopy p x) ((u qLoad).copyRun c k)) ∧
    (s.startsCmd p x qLoad lkStash l c State.stashBad (fun _ _ => []) → done qLoad (.loadStash p x) ((u qLoad).stashRun c)) ∧
    (s.startsCmd p x qStore lkCopy l c State.copyBad (fun _ c => c.dst.spans) →
      ∀ k, (u qStore).casterOf c = some k → done qStore (.storeCopy p x) ((u qStore).copyRun c k)) ∧
    (s.startsCmd p x qStore lkScatter l c State.indexBad State.unitSpans →
      ∀ k, (u qStore).casterOf c = some k → done qStore (.scatter p x) ((u qStore).scatterGo c k (ldCount c.idx) 0)) ∧
    (s.startsCmd p x qStore lkScatterAdd l c State.addBad State.unitSpans →
      done qStore (.scatterAdd p x) ((v qStore).addGo c (ldCount c.idx) 0)) ∧
    (s.startsCmd p x qStore lkStash l c State.stashBad State.stashSpans → done qStore (.storeStash p x) ((u qStore).stashRun c)) ∧
    (s.startsCmd p x qLoad lkGather l c State.indexBad (fun _ _ => []) → c.narrow = false →
      ∀ us, (u qLoad).gatherUnits c (ldCount c.idx) 0 = (us, none) → ∀ k, (v qLoad).casterOf c = some k →
      done qLoad (.gather p x) ((v qLoad).moveAll c.e c.dst k (lsIndexBase c.l) (fun _ n => gatherEl c.mem.d us (0, 4) n))) ∧
    (s.startsCmd p x qLoad lkAmax l c State.amaxBad (fun _ _ => []) → (s.core p).runningKind x.val lkAmax = none →
      ∀ d, (u qLoad).declOf c.l = some d → ¬ (d.mode = smHistory ∧ (u qLoad).window d c.e.n ≠ []) →
      ∀ (r : Run) (m : SUnit), (u qLoad).measure c = (r, m) → r.fault = none → r.s.maxChain d.tensor = none →
      done qLoad (.amax p x) ⟨(r.s.scalePair d m).2.putPair c.e d.tensor (r.s.scalePair d m).1, none⟩)

/-- R52, R55, R56, R397: a command whose work is behind it completes, leaving its engine and adding 1 to the counter that it signals; one
whose wait or run passes its budget halts its engine, sets STATUS.TIMEOUT and counts a timeout, and is an incident of its context. A late
bundle group runs on to the cycle after its budget, and then stops with its engine. -/
def Obligations.CommandsEnd : Prop :=
  ∀ (s : State) (p : Nat) (q : Fin 5) (x : Fin 4), s.coreUp p → (s.core p).ctxs.length = 4 →
    let k := s.ctxAt p x
    (∀ (l : Line) (n : Nat), q.val ≠ qBundle → k.alive = true → k.current q.val = some (l, n) → cmdTotal q.val l ≤ n →
      ∃ t, exec (.commandComplete p q x) s = .next t ∧ (t.ctxAt p x).current q.val = none ∧
        (∀ c : Fin 16, (t.ctxAt p x).counter c.val = k.counter c.val + (if entSigEn l ∧ entSigCtr l = c.val then 1 else 0)) ∧
        (t.ctxAt p x).g = k.g ∧ (t.ctxAt p x).pc = k.pc ∧ (t.ctxAt p x).queues = k.queues ∧
        (∀ y : Fin 4, y ≠ x → t.ctxAt p y = s.ctxAt p y) ∧ (t.core p).cs = (s.core p).cs ∧ (∀ r, r ≠ p → t.core r = s.core r) ∧
        t.mem = s.mem ∧ t.obj = s.obj) ∧
    (s.runRuns p x.val q.val = true ∨ s.waitRuns p x.val q.val = true → q.val ∉ (s.core p).halted →
      let u := if s.runRuns p x.val q.val then s.toDeadline p x.val q.val else s
      let m := (((u.setCore p ((u.core p).stopEngine q.val)).put (kCore p 5) (u.o (kCore p 5) ||| 1)).bump32 (kCore p 6) 1)
      (q.val ≠ qBundle → u = s) ∧ q.val ∈ (m.core p).halted ∧ Nat.testBit (m.o (kCore p 5)) 0 = true ∧
      m.o (kCore p 6) = (u.o (kCore p 6) + 1) % 2 ^ 32 ∧ (∀ g, q.val = qBundle → (m.core p).group = some g → g.trapped = true) ∧
      exec (.commandTimeout p q x) s = .next (m.incident
        { kind := .timeout, p := p, lcore := (u.ctxAt p x).bind.lcore, ctx := x.val, queue := q.val, count := (u.ctxAt p x).cmdPos q.val }
        (((List.range 4).filter (fun y => u.suspect p y q.val)).map (fun y => (p, y)))))

/-- R225, R227, R229: a unit of a running SEND that finds a credit leaves, and a running RECV takes the oldest unit of its stream into core store;
each moves its command on by one unit. A first member of a chain that is no SUM and goes in FP32 wire units sends its own unit. -/
def Obligations.StreamCommandsMove : Prop :=
  ∀ (s : State) (p : Nat) (port : Fin 2) (x : Fin 4) (l : Line) (k : Nat), s.coreUp p → (s.ctxAt p x).alive = true →
    let q := 3 + port.val
    let e := s.eng p x.val q
    q ∉ (s.core p).halted → (s.ctxAt p x).current q = some (l, k) → k < stCount l →
    (stOp l = 0 → ∀ d, s.streamOut p x.val port.val l = some d → ∀ u, s.readUnit e (stLocalAddr l k) = some u → u.2 = false →
      ∀ t, s.sendUnit p x.val port.val d u false = some t →
      exec (.streamSend p port x) s = .next (t.progress p x.val q (k + 1))) ∧
    (stOp l = 1 → stFwd l = false → ∀ d, s.streamIn p x.val port.val l = some d → ∀ u t, s.takeUnit p d = some (u, t) →
      s.mapped e spCore (stOutAt l k) 64 true = true →
      exec (.streamRecv p port x) s = .next ((t.writeUnit e (stOutAt l k) u).progress p x.val q (k + 1))) ∧
    (stOp l = 2 → stRole l = roleFirst → s.chainBad e l = false → ∀ c, s.chainD? (stChain l) = some c → c.op ≠ coSum → c.mode = cmFp32 →
      ((s.ctxAt p x).chainBuf q).toSend = [] → ((s.ctxAt p x).chainBuf q).got = [] → ∀ u, s.readUnit e (stLocalAddr l k) = some u → u.2 = false →
      let b : ChainBuf := { (s.ctxAt p x).chainBuf q with got := [], acc := [], toSend := [u] }
      let m := s.setChainBuf e b
      ((m.core p).ctx x.val).alive = true → ∀ d, m.streamOut p x.val port.val l = some d →
      ∀ t, m.sendUnit p x.val port.val d u false = some t →
      exec (.chain p port x) s = .next ((t.setChainBuf e { ((m.ctxAt p x).chainBuf q) with toSend := [] }).progress p x.val q (k + 1)))

/-- R225, R227: the credits of a stream between two cores of the module. Sending a unit takes a credit, its arrival over joins that are UP moves
it into the receiver's share (for a stream that is not journaled), consuming it sends the credit back, and the return gives it to the sender: the
total of the book stays what it was, and a unit leaves its share in the order in which it was sent. -/
def Obligations.StreamCreditsConserved : Prop :=
  ∀ (s : State) (d : StreamD) (b : Stream), s.streamD? d.num = some d → d.num < 2 ^ 32 → s.book? d.num = some b → b.num = d.num →
    epType d.src = epCore → epType d.dst = epCore →
    (∀ (u : SUnit) (l : List SUnit), b.flying = u :: l → d.journal = false → s.mayArrive d = true →
      ∃ t c, exec (.streamUnitArrival d.num u.1 u.2) s = .next t ∧ t.book? d.num = some c ∧ c.total = b.total ∧
        c.flying = l ∧ c.share = b.share ++ [u] ∧ c.credits = b.credits) ∧
    (0 < b.returning → ∃ t c, exec (.streamCreditReturn d.num) s = .next t ∧ t.book? d.num = some c ∧ c.total = b.total ∧
      c.credits = b.credits + 1 ∧ c.share = b.share) ∧
    (∀ (p x port : Nat) (u : SUnit) (t : State), s.replayOf p = none → s.sendUnit p x port d u true = some t →
      0 < b.credits ∧ ∃ c, t.book? d.num = some c ∧ c.total = b.total ∧ c.flying = b.flying ++ [u]) ∧
    (∀ (p : Nat) (u : SUnit) (t : State), s.replayOf p = none → b.again = [] → s.takeUnit p d = some (u, t) →
      b.share.head? = some u ∧ ∃ c, t.book? d.num = some c ∧ c.total = b.total ∧ c.share = b.share.tail)

/- The life of a step. -/

/-- R15, R21, R24, R51, R331: the first PENDING step starts when the step boundary has passed, the lag window is open and its journal space is
there: it is RUNNING, and no other step is; LAST_ISSUED holds the highest step started, LAST_FIXED and the other steps' records stand, and
every bound context of the image's cores that RUN reaches through the vat queues is at its entry point in that step; the exponents of its
history-mode declarations are kept. Without journal space it stays PENDING, and the first such wait is counted. -/
def Obligations.StepStarts : Prop :=
  ∀ (s : State) (r : StepRec), s.nextPending = some r → s.step? r.n = some r → s.mayStart r = true →
    (s.journalSpace r.n = true → s.cleanWrites → (∀ e, s.steps.runEnd = some e → max r.n s.lastStarted < e) →
      ∃ t c, exec .stepStart s = .next t ∧ t.step? r.n = some { r with st := .running, started := true, chosen := c } ∧
        ((∀ im, s.image = some im → im.histories = []) → c = r.chosen) ∧
        (∀ n q, t.step? n = some q → q.st = .running → n = r.n) ∧ (∀ n, n ≠ r.n → t.step? n = s.step? n) ∧
        t.o kLastIssued = max r.n (s.o kLastIssued) ∧ t.lastFixed = s.lastFixed ∧ t.mstate = s.mstate ∧
        (∀ (l p : Nat) (x : Fin 4), l < s.imageLcores → s.lcore? l = some p → (s.core p).ctxs.length = 4 → (s.ctxAt p x).bound = true →
          s.runReaches r.n (s.ctxAt p x).bind.vat → (t.ctxAt p x).running = true ∧ (t.ctxAt p x).step = r.n ∧ (t.ctxAt p x).g = [] ∧ (t.ctxAt p x).queues = [] ∧
          (t.ctxAt p x).pc = BitVec.ofNat 32 (4 * ((s.ctxAt p x).bind.codeBase + (s.ctxAt p x).bind.entry)))) ∧
    (s.journalSpace r.n = false → ∃ t, exec .stepStart s = .next t ∧ t.step? r.n = some { r with waited := true } ∧
      t.o 0x502040 = (if r.waited then s.o 0x502040 else (s.o 0x502040 + 1) % 2 ^ 64) ∧ (∀ n, n ≠ r.n → t.step? n = s.step? n))

/-- R21, R27, R28, R244: a vat whose contexts and children have returned their tokens for the RUNNING step returns its own. The step goes on
until the last of them; with that it leaves RUNNING: unmarked and not chosen for audit it stands PROVISIONAL where the module waits for a grant,
and in a job of one module with nothing left to evaluate, and no pin on the granules of its histories, it is FIXED. -/
def Obligations.VatTokens : Prop :=
  ∀ (s : State) (vat : Nat) (n : W64) (r : StepRec) (v : Vat), s.hubUp = true → s.step? n.toNat = some r → s.vat? vat = some v →
    r.st = .running → r.tokens.contains vat = false → s.vatDone r vat = true →
    ((∃ w ∈ s.vats, w.num ≠ vat ∧ r.tokens.contains w.num = false) → ∃ t q, exec (.vatToken vat n) s = .next t ∧
      t.step? n.toNat = some q ∧ q.st = .running ∧ q.tokens = r.tokens ++ [vat] ∧ q.marks = r.marks ∧ t.lastFixed = s.lastFixed ∧
      (vat ∉ s.segments → q.digests = r.digests)) ∧
    ((∀ w ∈ s.vats, w.num = vat ∨ r.tokens.contains w.num = true) → s.audited n.toNat = none → r.marks = [] → s.steps.rollback = none →
      s.o kDecisionMode = 0 →
      (s.isRoot = false → s.o kLastGranted < n.toNat → ∃ t q, exec (.vatToken vat n) s = .next t ∧ t.step? n.toNat = some q ∧
        q.st = .provisional) ∧
      (s.isRoot = true → s.children = [] → s.steps.list = [r] → r.n = s.lastFixed + 1 → r.swatchOwing = [] →
        (∀ g ∈ s.historyGranules, s.pinWait g = .none) →
        ∃ t, exec (.vatToken vat n) s = .next t ∧ t.lastFixed = n.toNat))

/-- R18: when a step becomes FIXED every granule that it wrote swaps its slots, and when it becomes DISCARDED the fixed slots are
unchanged; either way the step no longer stands as the writer of any granule. (The granules of the history region are written at the fix
itself.) -/
def Obligations.SlotsSwapWhenFixed : Prop :=
  ∀ (s : State) (r : StepRec) (cause g : Nat), SMap.sorted s.mem.gran = true →
    (∀ im, s.image = some im → g < s.historyBase ∨ s.historyBase + im.historyMib ≤ g) →
    let x := s.gran g
    let fixed := (s.fixStep r).gran g
    let dropped := (s.discardStep r cause).gran g
    (x.writer = some r.n → fixed.fixedSlot = 1 - x.fixedSlot ∧ fixed.writer = none ∧
      dropped.fixedSlot = x.fixedSlot ∧ dropped.writer = none) ∧
    (x.writer ≠ some r.n → fixed = x ∧ dropped = x)

/-- R350, R353: the replay at the head of the queue starts once its spares, its replay areas and its copies are free, a suspect's once no other
runs: it runs on the cores assigned, each in REPLAY and reading the logical number that it stands in for, and it is counted. One whose spares
are gone leaves its segment undecided. When its vat has returned its token, a first replay whose digest is the original's keeps its
segment; one that differs queues a second replay on other spares, or leaves the segment undecided where there are none; it leaves the queue. -/
def Obligations.ReplaysRun : Prop :=
  ∀ s : State, s.hubUp = true →
    (∀ (r : Replay) (cores : List (Nat × Nat)), s.headReplay = some r → s.areaFree r.vat = true → s.copyBusy r.vat = false →
      (r.which = .suspect → s.runningReplays = []) → (r.which ≠ .suspect → s.sparesGone r = false) →
      assignCores (s.freeSpares (s.usedFirst r)) [] (s.coresOf r.vat) = some cores → s.cleanWrites →
      ∃ t, exec .replayStart s = .next t ∧
        { r.rewind with cores := cores, running := true } ∈ t.ledger.queue ∧
        (∀ c ∈ cores, t.coreState c.2 = 3) ∧ (∀ p, p ∉ cores.map (fun c => c.2) → t.coreState p = s.coreState p) ∧
        (r.which = .first → t.o 0x502106 = (s.o 0x502106 + 1) % 2 ^ 64) ∧ t.steps.list = s.steps.list) ∧
    (∀ (r : Replay) (q : StepRec) (other : Nat), s.headReplay = some r → r.which ≠ .suspect → s.sparesGone r = true → s.step? r.n = some q →
      q.st = .checking → other ≠ r.vat → s.verdict? r.n other = some .waiting → (∀ e ∈ s.ledger.verdicts, e.1 = r.n → e.2.2 ≠ .discard) →
      ∃ t, exec .replayStart s = .next t ∧ r ∉ t.ledger.queue ∧ t.step? r.n = some q ∧ t.verdict? r.n r.vat = some .undecided) ∧
    (∀ (vat : Nat) (n : W64) (r : Replay) (q : StepRec) (other : Nat), s.running? n.toNat vat = some r → r.which = .first →
      s.replayReturned r = true → r.poisoned = false → s.step? r.n = some q → q.st = .checking →
      (s.verdict? r.n r.vat = none ∨ s.verdict? r.n r.vat = some .waiting) → other ≠ r.vat → s.verdict? r.n other = some .waiting →
      (∀ e ∈ s.ledger.verdicts, e.1 = r.n → e.2.2 ≠ .discard) →
      let d := s.digest r.n r.vat r.cores
      ∃ t, exec (.replayComplete vat n) s = .next t ∧ r ∉ t.ledger.queue ∧ t.step? r.n = some q ∧
        (d = q.digest? r.vat → t.verdict? r.n r.vat = some .keep) ∧
        (d ≠ q.digest? r.vat → t.verdict? r.n r.vat = some (.second d (r.cores.map (fun c => c.2))) ∧
            newReplay r.n r.vat .second ∈ t.ledger.queue ∨
          t.verdict? r.n r.vat = some .undecided))

/-- R354: the outcome of a step is formed from its segments' outcomes: any discard discards it; otherwise a segment still open keeps it in
CHECKING; otherwise an undecided one leaves it unverified, and else it is kept. -/
def Obligations.CheckOutcomes : Prop :=
  ∀ (s : State) (n : Nat), (∀ e ∈ s.ledger.verdicts, e.1 = n → s.verdict? n e.2.1 = some e.2.2) →
    (s.checkOutcome n = .discard ↔ ∃ v, s.verdict? n v = some .discard) ∧
    (s.checkOutcome n = .open_ ↔ (∀ v, s.verdict? n v ≠ some .discard) ∧
      ∃ v, s.verdict? n v = some .waiting ∨ ∃ d ps, s.verdict? n v = some (.second d ps)) ∧
    (∀ u, s.checkOutcome n = .unverified u → s.verdict? n u = some .undecided ∧
      ∀ v w, s.verdict? n v = some w → w = .keep ∨ w = .undecided) ∧
    (s.checkOutcome n = .keep ↔ ∀ v w, s.verdict? n v = some w → w = .keep)

/-- R400, R401: once the abandoned vats have stopped, a local recovery goes on with the replay of its first suspect; a rollback reports up the
tree. The judgement of a suspect's replay: one that returned its token without an incident, timed out on input that the journal no longer holds,
or could not run gives way to the next suspect that stands in a segment, after the last of which the core of the incident is proved; the original's incident met again
writes 0 to AUTO_RESUME and is a program fault; any other is the spare's, which is fenced, and its replay waits for others. -/
def Obligations.LocalRecovery : Prop :=
  ∀ s : State, s.hubUp = true →
    (∀ (rc : Recovery) (e : Nat × Nat) (l : List (Nat × Nat)) (g : Nat), s.steps.rollback = none → s.ledger.recovery = some rc →
      rc.quiesced = false → rc.suspects = e :: l → s.settleStopped.steps.rollback = none → s.settleStopped.ledger.recovery = some rc →
      ({ s.settleStopped with ledger := { s.settleStopped.ledger with recovery := some { rc with quiesced := true } } } :
        State).suspectSegment e = some g →
      ∃ t, exec .quiesceComplete s = .next t ∧ t.ledger.recovery = some { rc with quiesced := true } ∧
        newReplay rc.step g .suspect ∈ t.ledger.queue) ∧
    (∀ b : Rollback, s.steps.rollback = some b → b.quiesced = false → s.settleStopped.steps.rollback = some b → s.isRoot = false →
      ∃ t c, exec .quiesceComplete s = .next t ∧ t.steps.rollback = some c ∧ c.quiesced = true ∧ c.target = b.target) ∧
    (∀ (rc : Recovery) (i : Incident) (r : Replay), s.ledger.recovery = some rc → rc.incident = some i →
      s.suspectReplay = some r → r.which = .suspect →
      let rest := (s.endReplay r).judgeable rc.suspects.tail
      let next := fun (j : Judgement) => ∃ t, exec (.suspectReplayJudged j) s = .next t ∧
        t.ledger.recovery = some { rc with suspects := rest } ∧
        (r.running = true ∨ rest = [] → r ∉ t.ledger.queue) ∧
        (rest = [] → t.coreState i.p = 2) ∧
        (∀ e l g, rest = e :: l → (s.endReplay r).suspectSegment e = some g → newReplay rc.step g .suspect ∈ t.ledger.queue)
      (r.running = true → r.met = none → s.replayReturned r = true → next .returned) ∧
      (∀ k : Incident, r.running = true → r.met = some k → k.kind = .timeout → s.starved r = true → next .waitingOnInput) ∧
      (r.running = false → s.hasSpares r.vat [] = false → next .notJudged) ∧
      (∀ k : Incident, r.running = true → r.met = some k → k.kind ≠ .timeout ∨ s.starved r = false →
        (i.same k = true → ∃ t, exec (.suspectReplayJudged .reproduced) s = .next t ∧ t.o kAutoResume = 0 ∧
          t.o 0x504305 = (s.o 0x504305 + 1) % 2 ^ 32) ∧
        (i.same k = false → ∃ t, exec (.suspectReplayJudged (.spareFault k.p)) s = .next t ∧ (t.coreState k.p = 4 ∨ t.coreState k.p = 5) ∧
          r.rewind ∈ t.ledger.queue)))

/-- R403, R404, R405, R407, R488: a proving that is due takes a SPARE or a FENCED core into PROVING when no other core of its die is proved and no one has put
it off, and waits otherwise, until the deferral ends. A SPARE that passes, below the limit of suspect marks, is SPARE again; one that fails is fenced, FENCE_COUNT
advancing, and RETIRED at its limit. A FENCED core advances CLEAN_PASSES when it passes and clears it when it fails. When a fence's remap
completes, the commands that wait on it are done; a logical number of the image that no core holds leaves the module FAULTED. -/
def Obligations.CoresProvedAndFenced : Prop :=
  ∀ (s : State) (p : Nat), s.hubUp = true → s.calm → p < s.grade.cores →
    (s.coreState p = 1 ∨ s.coreState p = 4 →
      let busy := s.proving.active.any (fun e => decide (coreDie e.1 = coreDie p))
      (s.obit kBgDefer 3 = false → busy = false → ∃ t, exec (.provingDue p) s = .next t ∧ t.coreState p = 2 ∧
        (p, s.coreState p) ∈ t.proving.active ∧ (∀ q, q ≠ p → t.coreState q = s.coreState q)) ∧
      (s.obit kBgDefer 3 = true ∨ busy = true →
        exec (.provingDue p) s = .next { s with proving := { s.proving with due := insSet p s.proving.due } }) ∧
      (s.obit kBgDefer 3 = true → busy = false → s.proving.due = [p] → ∃ t, exec (.bgDeferExpiry 3) s = .next t ∧ t.coreState p = 2 ∧
        (p, s.coreState p) ∈ t.proving.active ∧ p ∉ t.proving.due)) ∧
    (∀ from_ : Nat, s.proving.active.find? (fun e => decide (e.1 = p)) = some (p, from_) →
      let n := min 15 (s.o (kCore p 0x10) + 1)
      let passes := min 10 (s.o (kCore p 0x13) + 1)
      (from_ = 1 → s.numberOf p = none → s.o (kCore p 0x0F) < s.o 0x504400 →
        ∃ t, exec (.provingComplete p none) s = .next t ∧ t.coreState p = 1 ∧ p ∉ t.proving.active.map (fun e => e.1)) ∧
      (from_ = 1 → s.numberOf p = none → s.coreState p = 2 → ∀ k : Fin 4, ∃ t, exec (.provingComplete p (some k)) s = .next t ∧
        t.coreState p = (if s.o 0xC01003 ≤ n then 5 else 4) ∧ t.o (kCore p 0x10) = n ∧ t.o (kCore p 0x13) = 0) ∧
      (from_ = 4 → ∃ t, exec (.provingComplete p none) s = .next t ∧ t.o (kCore p 0x13) = passes ∧
        t.coreState p = (if s.o 0xC01002 ≤ passes then 1 else 4)) ∧
      (from_ = 4 → ∀ k : Fin 4, ∃ t, exec (.provingComplete p (some k)) s = .next t ∧ t.o (kCore p 0x13) = 0 ∧ t.coreState p = 4 ∧
        t.o (kCore p 0x10) = s.o (kCore p 0x10))) ∧
    (∀ l : Nat, s.proving.remap.find? (fun e => decide (e.1 = p)) = some (p, l) →
      ∃ t, exec (.fenceRemapComplete p) s = .next t ∧ p ∉ t.proving.remap.map (fun e => e.1) ∧ (∀ e ∈ t.jobs.fence, e.2 ≠ p) ∧
        (s.lcore? l = none → s.image.isSome = true → l < s.imageLcores → t.mstate = .faulted))

/- HBM behind its buffers. -/

/-- R188, R190: every byte of a write to HBM is read back from its address at once, whether it stands in a write-combining entry or has been
flushed, and every other byte of the module's HBM reads as before. -/
def Obligations.HbmReadsWhatWasWritten : Prop :=
  ∀ (s : State) (a : Nat) (bytes : List Byte) (poison : Bool) (b : Nat), s.entriesSound →
    (s.hbmWrite a bytes poison).hbmByte b = if a ≤ b ∧ b < a + bytes.length then bytes.getD (b - a) 0 else s.hbmByte b

/-- R186, R189, R193, R194, R200: the events of the memories. An idle flush takes the line's entry out of its buffer and changes no byte that is
read. The oldest entry of a narrow window that has not read issues one read of its line, and the read that returns serves every request of
its entry from those bytes. A READY stack whose neighbour does not retrain is recalibrated; then it resumes service, and its full entries
are flushed, those before them in their buffers first. -/
def Obligations.MemoryEvents : Prop :=
  ∀ (s : State) (die pc : Nat), die < s.grade.dies → pc < 128 →
    (∀ line : Nat, s.cleanWrites → s.entriesSound → s.pcHeld die pc = false →
      ∃ t, exec (.wcbIdleFlush die pc line) s = .next t ∧ (∀ b, t.hbmByte b = s.hbmByte b) ∧
        (s.linePc die line = pc → ∀ e ∈ t.mem.wcb, ¬ (e.die = die ∧ e.line = line))) ∧
    (∀ e : NEntry, (s.nwin die pc).find? (fun e => e.read.isNone) = some e → s.o (kStack (s.lineStack die e.line) 1) ≠ 1 →
      ∃ t, exec (.narrowEntryTimeout die pc) s = .next t ∧ t.o 0x840004 = (s.o 0x840004 + 1) % 2 ^ 64 ∧
        { e with read := some (BitVec.ofNat 512 (ofLe (s.hbmBytes (hbmAddr die (64 * e.line)) 64)),
                               s.hbmLineHit (hbmAddr die (64 * e.line) / 64)) } ∈ t.mem.narrow) ∧
    (∀ (e : NEntry) (l : Line × Bool), (s.nwin die pc).find? (fun e => e.read.isSome) = some e → e.read = some l → s.mem.narrowWait = [] →
      (∀ r ∈ e.reqs, ((s.core r.p).runningKind r.ctx lkGather).isSome = true ∧
        ∃ f ∈ s.mem.narrow, ¬ (f.die = e.die ∧ f.line = e.line) ∧ ∃ w ∈ f.reqs, w.p = r.p ∧ w.ctx = r.ctx) →
      ∃ t, exec (.narrowLineReturn die pc) s = .next t ∧
        t.mem.served = s.mem.served ++ e.reqs.map (fun r => (r, bytesAt (leBytes 64 l.1.toNat) (r.addr % 64) r.size, l.2 || r.hit)) ∧
        t.mem.narrow = s.mem.narrow.filter (fun f => decide (¬ (f.die = e.die ∧ f.line = e.line)))) ∧
    (∀ n : Nat, n < s.grade.stacks → s.live = true → s.o (kStack n 1) = 0 → s.o (kStack (n / 2 * 2 + (1 - n % 2)) 1) ≠ 1 →
      s.obit kBgDefer 7 = false ∨ s.tempMoved n = true →
      ∃ t, exec (.hbmRecalibration n) s = .next t ∧ t.o (kStack n 1) = 1 ∧ (∀ k, k ≠ kStack n 1 → t.o k = s.o k) ∧ t.mem = s.mem ∧
        (s.cleanWrites → s.entriesSound → ∃ u, exec (.hbmRetrainComplete n) t = .next u ∧ u.o (kStack n 1) = 0 ∧
          (∀ b, u.hbmByte b = s.hbmByte b) ∧
          (∀ e ∈ u.mem.wcb, e ∈ s.mem.wcb ∧ ¬ (s.lineStack e.die e.line = n ∧ e.mask = BitVec.allOnes 64)) ∧
          (∀ e ∈ s.mem.wcb, s.lineStack e.die e.line ≠ n → e ∈ u.mem.wcb)))

/-- R199, R200, R488: a patrol read takes the next line of its memory. A sound line changes nothing else; a hit in a line of HBM that is no slot,
journal or reserve enters the line in the poison list, and a hit in a core store inverts the parity of one unit of the line; both are counted. A
set deferral bit holds the scrubber of its memories. -/
def Obligations.PatrolScrubs : Prop :=
  ∀ (s : State) (hit : Bool), s.live = true →
    (∀ n : Nat, n < s.grade.stacks → s.o (kStack n 1) = 0 →
      let la := s.stackLine n (s.scrubbed n % stackLines)
      (s.obit kBgDefer 0 = true → exec (.patrolScrubRead (.hbm n) hit) s = .next s) ∧
      (s.obit kBgDefer 0 = false → s.hbmLineHit la = false → hit = false →
        ∃ t, exec (.patrolScrubRead (.hbm n) hit) s = .next t ∧ t.scrubbed n = s.scrubbed n + 1 ∧ t.mem.hbm = s.mem.hbm ∧
          t.mem.poison = s.mem.poison ∧ t.steps = s.steps ∧ t.cores = s.cores) ∧
      (s.obit kBgDefer 0 = false → hit = true → s.hbmPlace (64 * la) = .other → s.poisonCount (la / 2 ^ 31) < 16384 → s.mem.overflow = [] →
        ∃ t, exec (.patrolScrubRead (.hbm n) hit) s = .next t ∧ t.scrubbed n = s.scrubbed n + 1 ∧ t.linePoisoned la = true ∧
          t.mem.hbm = s.mem.hbm ∧ t.o (kStack n 4) = (s.o (kStack n 4) + 1) % 2 ^ 64 ∧ t.steps = s.steps)) ∧
    (∀ d : Nat, d < s.grade.dies → s.dieUp d = true → s.obit kBgDefer 1 = false → s.baseHit (baseKey d (s.scrubbed (8 + d) % baseLines * 256)) 256 = false →
      hit = false → ∃ t, exec (.patrolScrubRead (.baseStore d) hit) s = .next t ∧ t.scrubbed (8 + d) = s.scrubbed (8 + d) + 1 ∧
        t.mem.base = s.mem.base ∧ t.obj = s.obj) ∧
    (∀ p : Nat, p < s.grade.cores → s.dieUp (coreDie p) = true → s.obit kBgDefer 2 = false → hit = true →
      let a := s.scrubbed (16 + p) % coreLines * 256
      ∃ t k, exec (.patrolScrubRead (.coreStore p) hit) s = .next t ∧ k < 4 ∧ (t.core p).cs = (s.core p).cs ∧
        (∀ b, b ∈ (t.core p).csPoison ↔ b ∈ (s.core p).csPoison ∨ (a + 64 * k ≤ b ∧ b < a + 64 * k + 64)) ∧
        t.o 0x820005 = (s.o 0x820005 + 1) % 2 ^ 64 ∧ t.scrubbed (16 + p) = s.scrubbed (16 + p) + 1)

/- Messages between modules. -/

/-- R27, R28, R35, R36, R317, R414-R416: the decision protocol, with the module's own fault decision on and an image bound. The first copy of a HALT
begins a rollback: every step above the ready run is discarded, a RUNNING module enters STOPPING or, with nothing unfixed, STOPPED, and the
message is forwarded. READY sets the child's report, and at the root a grant goes out for every step that all reports have reached. GRANT raises
LAST_GRANTED, fixes the next step if it is ready and leaves it if it is not. STOP_REPORT is kept for the aggregate. TARGET fixes the target and
discards every step above it. RESUME at the target sets a STOPPED module RUNNING. -/
def Obligations.DecisionMessages : Prop :=
  ∀ (s : State) (m : Msg), s.o kDecisionMode = 0 → s.image.isSome = true → s.links.length = 6 →
    (s.hearsFirst m 0xF001 → s.steps.rollback = none → s.mstate = .running → ∃ t, exec (.halt m) s = .next t ∧
      t.steps.rollback.isSome = true ∧ (t.mstate = .stopping ∨ t.mstate = .stopped) ∧
      (∀ n r, s.readyTo < n → t.step? n = some r → r.closed) ∧ t.o 0x504203 = bits m.word.toNat 0 8 ∧ t.o 0x504204 = m.coord.toNat ∧
      t.lastFixed = s.lastFixed ∧ ∀ p ∈ s.floodPorts m.port,
        t.outOn p 0xF001 (messageBytes m.jobId.toNat m.msgId.toNat m.step.toNat m.word.toNat m.value.toNat)) ∧
    (s.hears m → m.coord.toNat ∈ s.children → ∃ t, exec (.ready m) s = .next t ∧
      SMap.get 0 m.coord.toNat t.steps.childReady = m.step.toNat ∧
      (s.isRoot = true → s.steps.rollback = none → ∀ n, n ≤ s.steps.ownReady → n ≤ m.step.toNat →
        (∀ c ∈ s.children, c ≠ m.coord.toNat → n ≤ SMap.get 0 c s.steps.childReady) → n ≤ t.o kLastGranted)) ∧
    (s.hearsFirst m 0xF003 → m.coord = 0 → m.word.getLsbD 0 = false → ∃ t, exec (.grant m) s = .next t ∧
      t.o kLastGranted = max (s.o kLastGranted) m.step.toNat ∧
      (∀ r, s.step? (s.lastFixed + 1) = some r → r.n ≤ m.step.toNat → r.ready = true → s.lastFixed + 1 ≤ t.lastFixed) ∧
      ((∀ r, s.step? (s.lastFixed + 1) = some r → r.ready = false) → t.lastFixed = s.lastFixed)) ∧
    (s.hears m → m.coord.toNat ∈ s.children → s.steps.rollback.isSome = true → s.isRoot = false → ∃ t, exec (.stopReport m) s = .next t ∧
      SMap.get (0, 0) m.coord.toNat t.steps.childStop = (m.step.toNat, m.word.toNat % 8) ∧ t.steps.list = s.steps.list) ∧
    (∀ b, s.hearsFirst m 0xF007 → m.coord = 0 → s.steps.rollback = some b → b.target = none → ∃ t c, exec (.target m) s = .next t ∧
      t.steps.rollback = some c ∧ c.target = some m.step.toNat ∧ t.o 0x504205 = m.step.toNat ∧
      ∀ n r, m.step.toNat < n → t.step? n = some r → r.closed) ∧
    (∀ b, s.hearsFirst m 0xF005 → m.coord = 0 → s.steps.rollback = some b → b.target = some m.step.toNat → s.mstate = .stopped →
      ∃ t, exec (.resume m) s = .next t ∧ t.mstate = .running ∧ t.steps.rollback = none)

/-- R418: with FAULT_DECISION_MODE 1, HALT, READY, STOP_REPORT, TARGET, RESUME and a GRANT without a checkpoint cut are discarded. -/
def Obligations.ExternalModeDiscards : Prop :=
  ∀ (s : State) (m : Msg), s.o kDecisionMode = 1 → s.hears m →
    exec (.halt m) s = .next s ∧ exec (.ready m) s = .next s ∧ exec (.stopReport m) s = .next s ∧ exec (.target m) s = .next s ∧
    exec (.resume m) s = .next s ∧ (m.word.getLsbD 0 = false → exec (.grant m) s = .next s)

/-- R39, R360, R361, R363, R364, R366, R531: the partner mirror. As source: a delta starts for LAST_FIXED with every dirty granule, whose fixed
slots it pins; each granule is coded and sent from its pinned slot, MIRROR_END following the last, and a fix that the pin held goes on; the
acknowledgement of a whole delta makes its target the base and LAST_MIRRORED and every FIXED step up to it MIRRORED; a granule reported invalid is
dirty again; MIRROR_DATA rewrites the slot under repair while it is the fixed one and the partner still holds it, and where the other slot has
become fixed it writes nothing. As receiver: MIRROR_OPEN is accepted from the one source and refused from any other; a delta that is whole becomes
current at MIRROR_END and is acknowledged with its step; MIRROR_ABORT drops what has come; MIRROR_READ is answered with the granule held. -/
def Obligations.MirrorMessages : Prop :=
  ∀ (s : State) (m : Msg), s.links.length = 6 →
    let c := m.coord.toNat
    let mine := s.hears m ∧ s.mirror.inSource = some c
    (s.hubUp = true → s.image.isSome = true → s.o kMirrorEnable = 1 → s.mirror.opened = true → s.mirror.openWait = false →
      s.mirror.delta = none → s.partnerUp = true → s.dirtyGranules ≠ [] → ∃ t d, exec .mirrorDeltaStart s = .next t ∧
        t.mirror.delta = some d ∧ d.m = s.lastFixed ∧ d.unsent = s.dirtyGranules ∧ d.ended = false ∧
        (∀ g ∈ s.dirtyGranules, (t.gran g).mirrorPin = some (s.gran g).fixedSlot ∧ (t.gran g).dirty = false) ∧
        s.sentClass1 t s.steps.msgId s.partner 0xF102 s.lastFixed 0 s.dirtyGranules.length []) ∧
    (∀ (d : Delta) (g : Nat) (l : List Nat) (slot : Nat), s.hubUp = true → s.partnerUp = true → s.mirror.delta = some d → d.unsent = g :: l →
      d.all.find? (fun e => decide (e.1 = g)) = some (g, slot) → s.hbmHit (s.slotAddr g slot) mib = false →
      let code := codeGranule (s.hbmBytes (s.slotAddr g slot) mib)
      ∃ t : State, exec .mirrorGranuleSent s = .next t.settleHeld ∧ t.mirror.delta = some { d with unsent := l, ended := l.isEmpty } ∧
        (t.gran g).mirrorPin = none ∧ s.sentClass1 t s.steps.msgId s.partner 0xF103 d.m (s.granuleNumber g) code.length code ∧
        (l = [] → s.sentClass1 t ((s.steps.msgId + 1) % 2 ^ 32) s.partner 0xF104 d.m 0 d.all.length [])) ∧
    (∀ d : Delta, s.hears m → c = s.partner → s.mirror.openWait = false → s.mirror.delta = some d → d.ended = true →
      m.word.getLsbD 0 = false → m.step.toNat = d.m → ∃ t, exec (.mirrorAck m) s = .next t ∧ t.mirror.delta = none ∧
        t.mirror.base = some d.m ∧ t.o kLastMirrored = d.m ∧
        (∀ r ∈ s.steps.list, r.st = .fixed → r.n ≤ d.m → { r with st := .mirrored } ∈ t.steps.list)) ∧
    (∀ g : Nat, s.hears m → c = s.partner → s.granules[m.word.toNat]? = some g → ∃ t, exec (.mirrorInvalid m) s = .next t ∧
      (t.gran g).dirty = true ∧ g ∈ t.mirror.partnerInvalid) ∧
    (∀ (g k : Nat) (l : List (Nat × Nat)) (asked : List (Option Bool)) (b : List Byte), s.hears m → c = s.partner →
      s.mirror.asked = some true :: asked → s.mirror.repairs = (g, k) :: l → m.word.getLsbD 0 = false →
      decodeGranule (m.data.take m.value.toNat) = some b → s.entriesSound →
      ((s.gran g).fixedSlot = k → s.mirrorHolds g = true → ∃ t, exec (.mirrorData m) s = .next t ∧ t.mirror.repairs = l ∧
        t.o 0x503508 = (s.o 0x503508 + 1) % 2 ^ 64 ∧ ∀ i : Nat, i < b.length → t.hbmByte (s.slotAddr g k + i) = b.getD i 0) ∧
      ((s.gran g).fixedSlot ≠ k → ∃ t, exec (.mirrorData m) s = .next t ∧ t.mirror.repairs = l ∧ t.mem = s.mem)) ∧
    (s.hears m → s.mirror.inSource = none ∨ s.mirror.inSource = some c → ∃ t, exec (.mirrorOpen m) s = .next t ∧
      t.mirror.inSource = some c ∧ t.mirror.inNeed = m.value.toNat ∧
      s.sentClass1 t s.steps.msgId c 0xF106 (if t.inComplete then t.inStep else 2 ^ 64 - 1) 0 0 []) ∧
    (∀ d, s.hears m → s.mirror.inSource = some d → d ≠ c → ∃ t, exec (.mirrorOpen m) s = .next t ∧ t.mirror = s.mirror ∧
      s.sentClass1 t s.steps.msgId c 0xF106 s.inStep 1 0 [] ∧ s.raised t 0x0403 c 0) ∧
    (mine → exec (.mirrorBegin m) s =
      .next { s with mirror := { s.mirror with inPartial := some { m := m.step.toNat, count := m.value.toNat, got := [], good := true } } }) ∧
    (∀ (d : Partial) (b : List Byte) (a : Nat), mine → s.mirror.inPartial = some d → d.m = m.step.toNat →
      decodeGranule (m.data.take m.value.toNat) = some b → s.reserveAddr (2 * m.word.toNat + s.inOther m.word.toNat) = some a →
      s.entriesSound →
      ∃ t, exec (.mirrorGranule m) s = .next t ∧ t.mirror.inPartial = some { d with got := insSet m.word.toNat d.got } ∧
        t.mirror.inMap = s.mirror.inMap ∧ ∀ i : Nat, i < b.length → t.hbmByte (a + i) = b.getD i 0) ∧
    (∀ d : Partial, mine → s.mirror.inPartial = some d → d.m = m.step.toNat → d.good = true → d.got.length = m.value.toNat →
      ∃ t, exec (.mirrorEnd m) s = .next t ∧ t.inStep = d.m ∧ t.mirror.inPartial = none ∧
        (∀ g ∈ d.got, SMap.get 0 g t.mirror.inMap = s.inOther g + 1 ∧ g ∉ t.mirror.inInvalid) ∧
        s.sentClass1 t s.steps.msgId c 0xF106 d.m 0 0 []) ∧
    (mine → exec (.mirrorAbort m) s = .next { s with mirror := { s.mirror with inPartial := none } }) ∧
    (∀ b : List Byte, mine → m.step.toNat = s.inStep → s.heldGranule m.word.toNat = some b → ∃ t, exec (.mirrorRead m) s = .next t ∧
      s.sentClass1 t s.steps.msgId c 0xF109 s.inStep 0 (codeGranule b).length (codeGranule b) ∧ t.mirror = s.mirror ∧ t.mem = s.mem)

/-- R374, R376, R379, R384, R385, R389: a checkpoint. The block that is next is coded from its pinned slot and written through record b mod T of
the shard, its pin goes, and a fix that the pin held goes on. An answer is that of the oldest write of its record that is out: with every block
written and answered the index follows, then the header, whose acknowledgement completes the shard; the entries of the manifest are followed by its
header, whose acknowledgement completes the cut, its step and slot becoming the last complete ones. A failed write fails the shard with
cause 2, or the cut; a report with a cause, or a gather that is late, fails the cut. The zeroed manifest header lets the cut be declared. -/
def Obligations.CheckpointEvents : Prop :=
  ∀ (s : State) (n : Nat) (m : Msg), s.hubUp = true → n < 8 →
    let k := s.ckpt
    let acks := fun (what : StoreFor) (ws : List StoreWrite) =>
      takeWrite (fun w => decide (w.record = n ∧ w.what ≠ .invalidation)) k.writes = some ({ record := n, what := what, live := true }, ws)
    let fails := fun (what : StoreFor) (ws : List StoreWrite) =>
      takeWrite (fun w => decide (w.record = n)) k.writes = some ({ record := n, what := what, live := true }, ws)
    (∀ (h : Shard) (b : Nat × Nat) (l : List (Nat × Nat)), k.shard = some h → h.blocks = b :: l → s.mirror.repairs.contains b = false →
      (b.2 = 2 ∨ s.hbmHit (s.slotAddr b.1 b.2) mib = false) → s.blockNumber b = h.written.length →
      SMap.has (h.written.length + 1) h.raw = false →
      let data := storedBlock h.written.length (s.blockBytes b)
      let record := h.records.getD (h.written.length % h.records.length) 0
      s.connected record = true → ∃ t : State, exec .shardBlockCoded s = .next t.settleHeld ∧
        t.out = s.out ++ [.storageWrite record (h.addr + h.offset) data] ∧
        t.ckpt.writes = k.writes ++ [{ record := record, what := .shard, live := true }] ∧
        (∃ g, t.ckpt.shard = some g ∧ g.blocks = l ∧ g.written = h.written ++ [(h.offset, data.length)] ∧ g.offset = h.offset + data.length) ∧
        (b.2 ≠ 2 → (t.gran b.1).cutPin = (s.gran b.1).cutPin.erase (h.step, b.2))) ∧
    (∀ (h : Shard) (ws : List StoreWrite), k.shard = some h → k.queued = [] →
      let left := { k with writes := ws }
      let record := h.records.headD 0
      (acks .shard ws → h.phase ≠ 2 → h.blocks ≠ [] ∨ left.unacked ≠ 0 → exec (.storageWriteAck n) s = .next { s with ckpt := left }) ∧
      (acks .shard ws → h.phase = 0 → h.blocks = [] → left.unacked = 0 → s.connected record = true → ∃ t g, exec (.storageWriteAck n) s = .next t ∧
        t.ckpt.shard = some g ∧ g.phase = 1 ∧ g.stored = round64 (h.offset + 16 * h.written.length) ∧
        t.out = s.out ++ [.storageWrite record (h.addr + h.offset) h.indexBytes]) ∧
      (acks .shard ws → h.phase = 1 → h.blocks = [] → left.unacked = 0 → s.connected record = true → ∃ t, exec (.storageWriteAck n) s = .next t ∧
        t.ckpt.shard = some { h with phase := 2 } ∧
        t.out = s.out ++ [.storageWrite record h.addr (s.shardHeader { h with phase := 2 } h.digest)]) ∧
      (acks .shard ws → h.phase = 2 → ∃ t, exec (.storageWriteAck n) s = .next t ∧ t.ckpt.shard = none ∧ t.o 0x506206 = h.stored ∧
        t.o 0x506208 = (s.o 0x506208 + 1) % 2 ^ 32) ∧
      (fails .shard ws → ∃ t : State, exec (.storageWriteFailure n) s = .next t.settleHeld ∧ t.ckpt.shard = none ∧ t.o 0x50620A = 2 ∧
        t.o 0x506209 = (s.o 0x506209 + 1) % 2 ^ 32)) ∧
    (∀ ws : List StoreWrite, k.cutHnd.isSome = true → k.waitHnd = none →
      (∀ (record : Nat) (l : List Nat), acks .entries ws → s.targets = record :: l → ∃ t, exec (.storageWriteAck n) s = .next t ∧
        t.out = s.out ++ [.storageWrite record (targetSlotAddr (s.target record) (s.o kCutSlot)) (s.manifestHeader (s.o kCutStep) (s.o kCutSlot))]) ∧
      (acks .header ws → k.anyOpen = false → ∃ t, exec (.storageWriteAck n) s = .next t ∧ t.o 0x506204 = s.o 0x506202 ∧
        t.o 0x506205 = s.o 0x506203 ∧ t.ckpt.cutHnd = none ∧ t.o 0x506201 = 0) ∧
      (∀ what, what ≠ .shard → fails what ws → ∃ t : State, exec (.storageWriteFailure n) s = .next t.settleHeld ∧ t.o 0x50620A = 2 ∧
        t.ckpt.cutHnd = none ∧ t.o 0x506205 = s.o 0x506205)) ∧
    (s.hears m → s.isRoot = true → k.cutHnd.isSome = true → k.waitHnd = none → s.o 0x506201 = 2 ∨ s.o 0x506201 = 3 →
      let cause := bits m.word.toNat 0 8
      let rs := k.reports.filter (fun e => decide (e.coord ≠ m.coord.toNat))
      (cause ≠ 0 → ∃ t, exec (.shardReport m) s = .next t ∧ t.o 0x50620A = cause ∧ t.ckpt.cutHnd = none) ∧
      (cause = 0 → m.step.toNat = s.o 0x506202 → rs.length + 1 < s.jobModules → ∃ t r, exec (.shardReport m) s = .next t ∧
        t.ckpt.reports = rs ++ [r] ∧ r.coord = m.coord.toNat ∧ r.step = m.step.toNat ∧ r.stored = m.value.toNat ∧ r.cause = 0) ∧
      (∃ t, exec .gatherTimeout s = .next t ∧ t.o 0x50620A = 8 ∧ t.ckpt.cutHnd = none)) ∧
    (∀ (record : Nat) (ws : List StoreWrite),
      takeWrite (fun w => decide (w.what = .invalidation)) k.writes = some ({ record := record, what := .invalidation, live := true }, ws) →
      s.mstate ≠ .stopped → exec .manifestInvalidated s = .next { s with ckpt := { k with writes := ws, invalidated := true } })

/-- R393-R395: a restore. A read that does not complete reports FAULT; a header of the step, shape and number of blocks leads on to the index; the
root keeps each module's report until all are in. RESTORE_END with DONE makes the step the last fixed, issued and granted one,
swaps the slots that the restore wrote, and leaves the module STOPPED with no step issued; with any other status every step object and every
fixed slot stays as it was. -/
def Obligations.RestoreEvents : Prop :=
  ∀ (s : State) (r : Restore), s.ckpt.restore = some r →
    (∀ data : List Byte, s.hubUp = true → s.isRoot = false →
      (r.phase = 1 ∨ r.phase = 2 ∨ r.phase = 3 → ∃ t q, exec (.storageReadResponse data false) s = .next t ∧
        t.ckpt.restore = some q ∧ q.phase = 4 ∧ q.status = stFault ∧ q.source = srcStorage) ∧
      (r.phase = 1 → fieldAt data 0 4 = 0x44535854 → fieldAt data 16 8 = r.step → s.shardShape data = true →
        fieldAt data 48 4 = s.contentBlocks.length → ∃ t, exec (.storageReadResponse data true) s = .next t ∧
          t.ckpt.restore = some { r with hdr := data, phase := 2 } ∧
          t.out = s.out ++ [.storageRead (r.records.headD 0) (s.shardAddr r.records r.slot + fieldAt data 64 8)
            (16 * s.contentBlocks.length)])) ∧
    (∀ m : Msg, s.hears m → s.isRoot = true →
      let rs := s.ckpt.restoreReports.filter (fun e => decide (e.coord ≠ m.coord.toNat))
      rs.length + 1 < s.jobModules → ∃ t q, exec (.restoreReport m) s = .next t ∧ t.ckpt.restoreReports = rs ++ [q] ∧
        q.coord = m.coord.toNat ∧ q.step = m.step.toNat ∧ q.status = bits m.word.toNat 0 8 ∧ t.ckpt.restore = some r) ∧
    (∀ m : Msg, s.hearsFirst m 0xF006 → m.coord = 0 → m.step.toNat = r.step → s.mstate = .recovering → s.steps.rollback = none →
      SMap.sorted s.mem.gran = true →
      (m.word = 0 → ∃ t, exec (.restoreEnd m) s = .next t ∧ t.lastFixed = r.step ∧ t.o kLastIssued = r.step ∧ t.o kLastGranted = r.step ∧
        t.steps.list = [] ∧ t.ledger.pages = [] ∧ t.mstate = .stopped ∧ t.ckpt.restore = none ∧
        ∀ g, (t.gran g).fixedSlot = if (s.gran g).restored then 1 - (s.gran g).fixedSlot else (s.gran g).fixedSlot) ∧
      (m.word ≠ 0 → ∃ t, exec (.restoreEnd m) s = .next t ∧ t.lastFixed = s.lastFixed ∧ t.o kLastIssued = s.o kLastIssued ∧
        t.o kLastGranted = s.o kLastGranted ∧ t.steps.list = s.steps.list ∧ t.mstate = .stopped ∧ t.ckpt.restore = none ∧
        ∀ g, (t.gran g).fixedSlot = (s.gran g).fixedSlot))

/- Torus links. -/

/-- R301-R303, R305, R319: flits on an ACTIVE port. A flit whose CRC fails is counted and moves nothing on. A good flit acknowledges what its
ACK_SEQ covers. A DATA flit that is next in sequence and carries a stream of the image to this module brings its bytes into the stream behind
those that OFFSET says have come (log 116 where they have not), whole units in flight and the rest in part; a STREAM_CREDIT flit puts its credits
on their way back to the stream's sender here. -/
def Obligations.TorusFlits : Prop :=
  ∀ (s : State) (p : Nat) (f : Flit), p < 6 → s.links.length = 6 → s.hubUp = true → s.linkState p = 5 →
    let l := s.link p
    (flitGood f = false → ∀ i ∈ [Instr.flitData p f, .flitStreamCredit p f, .flitNull p f, .marker p f],
      ∃ t, exec i s = .next t ∧ t.o (kLink p 8) = (s.o (kLink p 8) + 1) % 2 ^ 64 ∧ (t.link p).rxSeq = l.rxSeq ∧
        (t.link p).retry = l.retry ∧ t.streams = s.streams ∧ (t.link p).nakSent = true) ∧
    (flitGood f = true → flitMalformed f = false → flNak f = false → l.queue = [] →
      ∀ i : Instr, ((flType f = 0 ∧ i = .flitNull p f) ∨ (flType f = 3 ∧ i = .marker p f)) →
        ∃ t, exec i s = .next t ∧ (t.link p).rxSeq = l.rxSeq ∧ t.streams = s.streams ∧
          (t.link p).retry = (if flAckValid f then l.retry.filter (fun e => !covered (flAckSeq f) e.1) else l.retry) ∧
          (∀ k : Nat, k < l.credits.length → (t.link p).credits.getD k 0 =
            l.credits.getD k 0 + if k = flCreditClass f then flCreditCount f else 0)) ∧
    (∀ (d : StreamD) (b : Stream), flitGood f = true → flitMalformed f = false → flSeq f = l.rxSeq → flDst f = s.coord →
      flTag f < 0xF000 → flDst f ≠ dstFlood → s.streamD? (flTag f) = some d → s.book? (flTag f) = some b → b.num = flTag f →
      (flType f = 1 → epType d.src = epTorus → epCoord d.src = flSrc f →
        let j := joinBytes b.part (flOffset f) (bytesAt f.payload 0 (flLen f))
        let r := flitUnits (flPoison f) 6 j.2.1 j.1 (b.partPoison && !j.1.isEmpty) j.2.2
        ∃ t, exec (.flitData p f) s = .next t ∧ (t.link p).rxSeq = (l.rxSeq + 1) % 4096 ∧
          t.book? (flTag f) = some { b with flying := b.flying ++ r.1, part := r.2.1, partPoison := r.2.2 }) ∧
      (flType f = 2 → epType d.dst = epTorus → epCoord d.dst = flSrc f →
        ∃ t, exec (.flitStreamCredit p f) s = .next t ∧ (t.link p).rxSeq = (l.rxSeq + 1) % 4096 ∧
          t.book? (flTag f) = some { b with returning := b.returning + fieldAt f.payload 0 2 }))

/-- R309-R312: a port comes up from DETECT to ACTIVE: signal on 16 or more lanes, the lanes that train, the exchange of lane maps and of peer
records, and ACCEPT sent and received, which sets the books (toward the partner of an open mirror MIRROR_OPEN goes out at once). A record that
fails a check, a REFUSE, and a link-up that takes too long leave the port FAULTED with its reason. -/
def Obligations.TorusLinkUp : Prop :=
  ∀ (s : State) (p : Nat), p < 6 → s.links.length = 6 → s.hubUp = true → s.coordFits →
    (∀ lanes : Nat, s.linkState p = 1 →
      let seen := (List.range 34).filter (fun i => Nat.testBit lanes i && !(s.link p).retired.contains i)
      16 ≤ seen.length → ∃ t, exec (.signalDetect p lanes) s = .next t ∧ t.linkState p = 2 ∧ (t.link p).detected = seen) ∧
    (∀ trained : List Nat, s.linkState p = 2 →
      let good := (s.link p).detected.filter (fun i => trained.contains i)
      ∃ t, exec (.equalizationComplete p trained) s = .next t ∧ t.linkState p = 3 ∧ (t.link p).map = freshMap good ∧
        s.sentControl t p (5 :: (freshMap good).map (BitVec.ofNat 8))) ∧
    (∀ map : List Byte, s.linkState p = 3 → mapLegal (map.map (fun b => b.toNat)) = true →
      let good := (s.link p).detected.filter (fun i => (mapGood (map.map (fun b => b.toNat))).contains i)
      ∃ t, exec (.laneMap p map) s = .next t ∧ t.linkState p = 3 ∧ (t.link p).map = freshMap good ∧ (t.link p).detected = good) ∧
    (s.linkState p = 3 → mapWidth (s.link p).map ≠ 0 → ∃ t, exec (.alignComplete p) s = .next t ∧ t.linkState p = 4 ∧
      s.sentControl t p (bytesAt (s.peerRecordBytes p) 0 232)) ∧
    (∀ rec : List Byte, s.linkState p = 4 → rec.length = 232 → rec.getD 0 0 = 2 →
      (s.refuseReason p rec = 0 → (s.link p).acceptGot = false → ∃ t, exec (.peerRecord p rec) s = .next t ∧ t.linkState p = 4 ∧
        t.o (kLink p 5) = ofLe rec ∧ (t.link p).acceptSent = true ∧ (t.link p).peerBuf = (List.range 4).map (peerRxbuf rec) ∧
        s.sentControl t p [3]) ∧
      (s.refuseReason p rec ≠ 0 → ∃ t, exec (.peerRecord p rec) s = .next t ∧ t.linkState p = 8 ∧
        t.o (kLink p 0x0D) = s.refuseReason p rec)) ∧
    (s.linkState p = 4 → (s.link p).acceptSent = true → (s.link p).queue = [] → ∃ t, exec (.torusAccept p) s = .next t ∧ t.linkState p = 5 ∧
      t.o (kLink p 2) = mapWidth (s.link p).map ∧ (p ≠ s.partnerPort ∨ s.mirror.opened = false →
        (t.link p).credits = (s.link p).peerBuf ∧ (t.link p).txSeq = 0 ∧ (t.link p).rxSeq = 0)) ∧
    (∀ reason : Byte, s.linkState p = 4 → ∃ t, exec (.torusRefuse p reason) s = .next t ∧ t.linkState p = 8) ∧
    (1 ≤ s.linkState p → s.linkState p ≤ 4 → ∃ t, exec (.linkUpTimeout p) s = .next t ∧ t.linkState p = 8 ∧ t.o (kLink p 0x0D) = 6)

/-- R310, R313-R315: faults of an ACTIVE link. A lane fault adds 1 to the lane's flap score and retrains the link, under the map it has where the
lane recovered below FLAP_LIMIT, else with the lane retired and a new map proposed, its place taken by a spare or the width degraded; the map that
both sides accept takes effect and makes the port ACTIVE again, every held flit kept. A RETRAIN not complete in time, and loss of signal on more
than half the lanes, take the link down and at once to DETECT. -/
def Obligations.TorusLinkFaults : Prop :=
  ∀ (s : State) (p : Nat), p < 6 → s.links.length = 6 → s.hubUp = true →
    let l := s.link p
    (∀ (lane : Nat) (recovered : Bool), s.linkState p = 5 → lane < 34 → l.map.getD lane laneRetired ≠ laneRetired →
      let n := l.score lane + 1
      let map := repairMap l.latestMap lane
      (recovered = true → n < s.o 0x700605 → ∃ t, exec (.torusLaneFault p lane recovered) s = .next t ∧ t.linkState p = 6 ∧
        (t.link p).map = l.map ∧ (t.link p).score lane = n ∧ (t.link p).retry = l.retry ∧ t.o (kLink p 6) = (s.o (kLink p 6) + 1) % 2 ^ 32) ∧
      (recovered = false ∨ s.o 0x700605 ≤ n → mapWidth map ≠ 0 → ∃ t, exec (.torusLaneFault p lane recovered) s = .next t ∧
        t.linkState p = 6 ∧ (t.link p).map = l.map ∧ (t.link p).nextMap = map ∧ lane ∈ (t.link p).retired ∧ (t.link p).retry = l.retry) ∧
      (recovered = false ∨ s.o 0x700605 ≤ n → mapWidth map = 0 → ∃ t, exec (.torusLaneFault p lane recovered) s = .next t ∧
        t.linkState p = 1 ∧ lane ∈ (t.link p).retired ∧ (t.link p).retry = [])) ∧
    (∀ lane : Nat, lane < 34 → ∃ t, exec (.flapDecay p lane) s = .next t ∧ (t.link p).score lane = l.score lane - 1 ∧ t.obj = s.obj ∧
      ∀ k, k ≠ lane → (t.link p).score k = l.score k) ∧
    (s.linkState p = 6 → l.acceptSent = true → l.retry = [] → l.queue = [] → ∃ t, exec (.torusAccept p) s = .next t ∧ t.linkState p = 5 ∧
      (t.link p).map = l.latestMap ∧ t.o (kLink p 2) = mapWidth l.latestMap ∧ (t.link p).txSeq = l.txSeq ∧ (t.link p).rxSeq = l.rxSeq ∧ (t.link p).credits = l.credits) ∧
    (s.linkState p = 6 → ∃ t, exec (.retrainTimeout p) s = .next t ∧ t.linkState p = 1 ∧ (t.link p).retry = [] ∧ t.o (kLink p 2) = 0) ∧
    (∀ (lost : Nat) (peerDown : Bool), s.linkState p = 5 → peerDown = true ∨ s.o (kLink p 2) < 2 * lost →
      ∃ t, exec (.lossOfSignal p lost peerDown) s = .next t ∧ t.linkState p = 1 ∧ (t.link p).retry = [] ∧ t.o (kLink p 2) = 0)

/- Die-to-die joins and the expansion site. -/

/-- R275, R276, R280, R290, R291: frames on a join that is UP. A unit frame from the partner whose tag is a stream of its class, with a stream
credit left, puts the unit in flight on that stream, takes the credit and gives the join credit back; a credit frame of the package moves the
credits that are on their way to the stream's sender, or the join credits of a class that are on their way in either direction (log 112); a frame
that breaks the rules within the package is counted, and takes the join DOWN. -/
def Obligations.JoinFrames : Prop :=
  ∀ (s : State) (j : Join) (header : W64) (unit : Line), s.hasJoin j = true → s.live = true →
    s.joinState (joinKey j) = 0 →
    let key := joinKey j
    (∀ (d : StreamD) (b : Stream), key = 8 → frType header = 0 → s.frameBroken key true header = false → frCreditTag header = 0 →
      s.tagged key (frTag header) = some d → s.book? d.num = some b → b.num = d.num → epType d.src = epExpansion → d.cls = frClass header →
      0 < b.credits → ∃ t, exec (.d2dUnitFrame j header unit) s = .next t ∧
        t.book? d.num = some { b with credits := b.credits - 1, flying := b.flying ++ [(unit, frPoison header)] } ∧
        ((s.join 8).wait = [] → (s.join 8).owed = [] → t.out = s.out ++
          [.creditFrame .expansion (s.nearestChannel 8 0) (BitVec.ofNat 64 (2 ^ 62 + (0xFFF0 + frClass header) * 2 ^ 16 + 2 ^ 8))])) ∧
    (∀ (d : StreamD) (b : Stream), key ≠ 8 → frType header = 1 → s.frameBroken key false header = false → 0 < frCreditTag header →
      frCreditTag header < 0xFFF0 → s.tagged key (frCreditTag header) = some d → s.book? d.num = some b → b.num = d.num →
      let m := min (frCreditCount header) b.returning
      ∃ t, exec (.d2dCreditFrame j header) s = .next t ∧
        t.book? d.num = some { b with returning := b.returning - m, credits := b.credits + m }) ∧
    (key ≠ 8 → frType header = 1 → s.frameBroken key false header = false → 0xFFF0 ≤ frCreditTag header → frCreditTag header ≤ 0xFFF3 →
      let k := frCreditTag header - 0xFFF0
      let n := frCreditCount header
      let f := (s.join key).fwd.back.getD k 0
      let r := (s.join key).rev.back.getD k 0
      ∃ t, exec (.d2dCreditFrame j header) s = .next t ∧ (t.join key).fwd.back.getD k 0 = f - min n f ∧
        (t.join key).rev.back.getD k 0 = r - min (n - min n f) r ∧ t.streams = s.streams) ∧
    (key ≠ 8 → frType header ≠ 1 → s.frameBroken key true header = true → ∃ t, exec (.d2dUnitFrame j header unit) s = .next t ∧
      t.joinState key = 2 ∧ t.o (kJoin key 8) = (s.o (kJoin key 8) + 1) % 2 ^ 32)

/-- R281-R283, R292: lanes and retrains of a join in service. A lane fault that its channel repairs retrains the join; one that it cannot puts a spare
module in the channel's place, and with none left halves its width. A retrain that completes makes the join UP again and is counted; one
that fails, and the loss of the link, take it DOWN. -/
def Obligations.JoinFaults : Prop :=
  ∀ (s : State) (j : Join) (r : Nat), s.hasJoin j = true → s.live = true →
    let key := joinKey j
    let c := s.chan key r
    (s.inService key = true → r < joinChannels key → c.up = true →
      (c.times = [] → ∃ t, exec (.d2dLaneFault j r true) s = .next t ∧ t.joinState key = 1 ∧ t.chan key r = { c with times := [s.uptimeMs] }) ∧
      (∀ m : Nat, c.width = 64 → s.spareModule key = some m → ∃ t, exec (.d2dLaneFault j r false) s = .next t ∧ t.joinState key = 1 ∧
        t.chan key r = { c with module := m, times := [] } ∧ t.o (kJoin key 3) = s.o (kJoin key 3) - 1 ∧ c.module ∈ (t.join key).retired) ∧
      (s.spareModule key = none → c.width = 64 → ∃ t, exec (.d2dLaneFault j r false) s = .next t ∧ t.joinState key = 1 ∧
        t.chan key r = { c with width := 32, times := [] })) ∧
    (s.joinState key = 1 → (s.join key).phase = 0 →
      (∃ t, exec (.d2dRetrainComplete j true) s = .next t ∧ t.joinState key = 0 ∧
        (key ≠ 8 → t.o (kJoin key 6) = (s.o (kJoin key 6) + 1) % 2 ^ 64)) ∧
      (∃ t, exec (.d2dRetrainComplete j false) s = .next t ∧ t.joinState key = 2)) ∧
    (s.inService key = true → ∃ t, exec (.d2dLinkLoss j) s = .next t ∧ t.joinState key = 2)

/-- R284-R288, R292, R508: how a join comes up. Training done, the module sends its record; a record without fault brings a join of the package UP
with its books set, and at the expansion site the endpoint records follow, the last of which brings it UP. A record that meets a reason of
refusal, a malformed endpoint record and a negotiation that takes too long are refused. A join that stays DOWN is FAULTED; an overcurrent turns
the site's rails off and takes the join DOWN. -/
def Obligations.JoinNegotiation : Prop :=
  ∀ (s : State) (j : Join), s.hasJoin j = true → s.live = true →
    let key := joinKey j
    let q := s.join key
    (∀ rate : Nat, rateOk key rate = true → s.mayTrain key = true → ∃ t, exec (.d2dLinkUp j rate) s = .next t ∧ t.joinState key = 1 ∧
      (t.join key).phase = 1 ∧ (t.join key).rate = rate ∧
      t.out = s.out ++ (List.range 4).map (fun i => .sideband j 1 (bits (s.ownRecord key) (64 * i) 64))) ∧
    (∀ rec : BitVec 256, q.phase = 1 →
      (refusal key rec = 0 → key ≠ 8 → ∃ t, exec (.capabilityRecord j rec) s = .next t ∧ t.joinState key = 0 ∧
        (t.join key).fwd = .fresh joinBuffers ∧ (t.join key).rev = .fresh joinBuffers ∧ t.out = s.out ++ [.sideband j 2 0]) ∧
      (refusal key rec = 0 → key = 8 → ∃ t, exec (.capabilityRecord j rec) s = .next t ∧ t.join key = { q with record := rec, phase := 2 }) ∧
      (refusal key rec ≠ 0 → ∃ t, exec (.capabilityRecord j rec) s = .next t ∧ (t.join key).refused = true ∧
        .sideband j 3 (refusal key rec) ∈ t.out)) ∧
    (∀ rec : BitVec 128, j = .expansion → q.phase = 2 →
      (endpointOk q.endpoints.getLast? rec = true → q.endpoints.length + 1 = recEndpoints q.record → ∃ t,
        exec (.endpointRecord rec) s = .next t ∧ t.joinState 8 = 0 ∧ (t.join 8).endpoints = q.endpoints ++ [rec] ∧ .sideband j 2 0 ∈ t.out) ∧
      (endpointOk q.endpoints.getLast? rec = false → ∃ t, exec (.endpointRecord rec) s = .next t ∧ (t.join 8).refused = true ∧
        t.o 0x730006 = 4)) ∧
    (q.phase ≠ 0 → ∃ t, exec (.negotiationTimeout j) s = .next t ∧ (t.join key).refused = true ∧ .sideband j 3 5 ∈ t.out) ∧
    (j = .expansion → s.joinState 8 = 2 → ∃ t, exec .expansionDownTimeout s = .next t ∧ t.joinState 8 = 3) ∧
    (j = .expansion → s.joinState 8 = 0 → ∃ t, exec .expansionRailOvercurrent s = .next t ∧ t.joinState 8 = 2 ∧ t.power.expRails = false)

/- Dies, hub and power. -/

/-- R187, R292, R408-R411, R420: a die whose watchdog expires, or whose PLL loses lock, enters a disorderly reset: DIE_STATE says so, its cores
hold nothing, every byte of its HBM reads 0 (log 1), and its stacks are LOST. It returns, its joins being UP, with DIE_STATE 0 and what waited for
it done. A stack that fails under an image loses the die's HBM and the fixed state with it. -/
def Obligations.DieResets : Prop :=
  ∀ (s : State) (d : Nat), d < s.grade.dies → s.live = true →
    let gone := fun (t : State) => SMap.get 0 d t.power.dieReset = 2 ∧ (∀ p, p < s.grade.cores → coreDie p = d → t.core p = Core.empty) ∧
      (∀ a, hbmDie a = d → t.hbmByte a = 0) ∧ (∀ n, n / 2 = d → s.o (kStack n 1) ≠ 5 → t.o (kStack n 1) = 4)
    (SMap.get 0 d s.power.dieReset = 0 →
      (∃ t, exec (.dieWatchdogExpiry d) s = .next t ∧ gone t ∧ t.o (kDie d 1) = 2 ∧ t.o (kDie d 3) = (s.o (kDie d 3) + 1) % 2 ^ 32) ∧
      (∃ t, exec (.diePllLoss d) s = .next t ∧ gone t ∧ t.o (kDie d 1) = 3 ∧ t.o (kDie d 4) = (s.o (kDie d 4) + 1) % 2 ^ 32)) ∧
    (SMap.has d s.power.dieReset = true → s.dieJoined d = true → ∃ t, exec (.dieResetComplete d) s = .next t ∧ t.o (kDie d 1) = 0 ∧
      SMap.get 0 d t.power.dieReset = 0 ∧ ∀ e ∈ t.jobs.reset, ¬ (e.2.1 = 1 ∧ e.2.2 = d)) ∧
    (∀ n : Nat, n / 2 = d → ∃ t, exec (.hbmStackFailure n) s = .next t ∧ t.o (kStack n 1) = 5 ∧
      (s.image.isSome = true → t.steps.lost = true ∧
        (s.steps.rollback = none → s.o kDecisionMode = 0 → ∀ a, hbmDie a = d → t.hbmByte a = 0)))

/-- R32, R249, R310, R412, R496, R498, R530: the hub. A watchdog puts it in reset, every session ended and the event buffer lost; it returns. At
the end of a boot the module is in STANDBY, its dies and the joins of its package UP and each torus port in DETECT or DISABLED. A failed start
takes the other firmware image; an activation's hub reset starts the chosen one. -/
def Obligations.HubEvents : Prop :=
  ∀ s : State,
    (s.hubUp = true → s.mstate ≠ .boot → s.areaValid s.bootFirst = true → ∃ t, exec .hubWatchdogExpiry s = .next t ∧ t.power.hubReset = 1 ∧
      t.sessions = [] ∧ t.windows = [] ∧ t.logBuf = [] ∧ t.fw.started = s.bootFirst) ∧
    (s.live = true → s.power.hubReset ≠ 0 → s.fw.started < 2 → ∃ t, exec .hubReturn s = .next t ∧ t.power.hubReset = 0) ∧
    (s.mstate = .boot → s.hubUp = true → s.fw.started < 2 → ∃ t, exec .hubBootComplete s = .next t ∧ t.mstate = .standby ∧
      (∀ d, d < s.grade.dies → (SMap.has d s.power.dieReset = false → t.o (kDie d 1) = 0) ∧ t.o (kDie d 2) = s.grade.dieRecord d) ∧
      (∀ k ∈ s.grade.joins, k ≠ 8 → t.joinState k = 0) ∧
      (∀ p, p < 6 → t.linkState p = if 1 < s.dimOf p ∧ s.o (kLink p 0x0C) = 1 then 1 else 0)) ∧
    (s.live = true → s.fw.started < 2 → s.mstate = .boot → s.fw.failsRow < 2 → s.areaValid (1 - s.fw.started) = true →
      ∃ t, exec .bootWatchdog s = .next t ∧ t.fw.started = 1 - s.fw.started ∧ t.fw.failsRow = s.fw.failsRow + 1) ∧
    (∀ a, s.fw.activate = some a → s.hubUp = true → s.areaValid a.1 = true → ∃ t, exec .activationHubReset s = .next t ∧
      t.fw.activate = none ∧ t.fw.oneStart = some a ∧ t.fw.started = a.1 ∧ t.power.hubReset = 1)

/-- R403, R475, R497, R503, R504: work that ends by itself. A firmware area that has been written holds its VERSION and is valid, or the update
fails; a repaired stack has as many rows repaired as its candidates and spare rows allow and is READY; a die reset past its limit leaves the die
reading FAILED; a suspect mark lapses. -/
def Obligations.HubJobsEnd : Prop :=
  ∀ s : State, s.hubUp = true →
    (∀ (h : Hnd) (x version epoch : Nat) (digest : BitVec 512), s.fw.updateHnd = some h → s.fw.updateImg = some (x, version, epoch, digest) → x < 2 →
      (∃ t, exec (.firmwareWriteComplete true) s = .next t ∧ t.o (0xB00002 + x) = version ∧ t.o (0xB00004 + x) = 1 ∧
        t.fw.updateHnd = none) ∧
      (∃ t, exec (.firmwareWriteComplete false) s = .next t ∧ t.o (0xB00004 + x) = s.o (0xB00004 + x) ∧ t.fw.updateHnd = none)) ∧
    (∀ (h : Hnd) (n : Nat), n < 8 → s.jobs.repair.find? (fun e => decide (e.2 = n)) = some (h, n) →
      let r := min (s.candidates n) (s.spareRowsLeft n)
      ∃ t, exec (.hbmRepairComplete n) s = .next t ∧ t.candidates n = s.candidates n - r ∧ t.spareRowsLeft n = s.spareRowsLeft n - r ∧
        t.o (kStack n 1) = 0 ∧ t.jobs.repair = s.jobs.repair.erase (h, n)) ∧
    (∀ (h : Hnd) (d : Nat), d < 4 → s.jobs.reset.find? (fun e => decide (e.1.handle = h.handle)) = some (h, 1, d) →
      ∃ t, exec (.commandLimitExpiry h.handle) s = .next t ∧ t.o (kDie d 1) = 4 ∧ t.jobs.reset = s.jobs.reset.erase (h, 1, d)) ∧
    (∀ p : Nat, p < s.grade.cores → exec (.suspectMarkExpiry p) s = .next (s.put (kCore p 0x0F) (s.o (kCore p 0x0F) - 1)))

/-- R464, R510-R516, R518, R521, R525: power, reset, clock and the trip. Input power starts the module where nothing holds it; its loss leaves
OFF, with nothing but flash kept; RST_IN_N takes the rails down and its release starts the module; loss of REFCLK holds it OFF with PGOOD low
until REFCLK returns; a sensor at its trip limit sets the latch and takes the rails down, and the latch clears while RST_IN_N is held. -/
def Obligations.PowerEvents : Prop :=
  ∀ s : State,
    let lost := fun (t : State) => t.mstate = .off ∧ t.image = none ∧ t.sessions = [] ∧ t.steps = .empty ∧ t.mem = .empty ∧ t.power.railsOn = false
    (∀ straps : Byte, s.power.input = false → s.power.rstAsserted = false → s.power.refclkGood = true → s.areaValid s.bootFirst = true →
      ∃ t, exec (.inputPowerGood straps) s = .next t ∧ t.mstate = .boot ∧ t.power.railsOn = true ∧ t.power.pgood = some true ∧
        t.o 0x102000 = straps.toNat ∧ t.power.tripLatch = false) ∧
    (s.power.input = true → ∃ t, exec .inputPowerLoss s = .next t ∧ lost t ∧ t.power.input = false ∧ t.uptimeMs = 0 ∧
      (∀ k, keptOverPowerLoss k = true → (∀ p, p < s.grade.cores → k ≠ kCore p 1) → t.o k = s.o k)) ∧
    (s.power.rstAsserted = false → s.power.railsOn = true → ∃ t, exec .rstInNAsserted s = .next t ∧ lost t ∧ t.power.rstAsserted = true ∧
      t.power.pgood = none) ∧
    (s.power.rstAsserted = true → s.power.input = true → s.power.tripLatch = false → s.areaValid s.bootFirst = true →
      (∃ t, exec (.rstInNReleased true) s = .next t ∧ t.mstate = .boot ∧ t.power.pgood = some true ∧ t.power.rstAsserted = false) ∧
      (∃ t, exec (.rstInNReleased false) s = .next t ∧ t.mstate = s.mstate ∧ t.power.pgood = some false ∧ t.power.rstAsserted = false)) ∧
    (s.power.refclkGood = true → s.power.railsOn = true → ∃ t, exec .refclkLoss s = .next t ∧ t.mstate = .off ∧ t.power.pgood = some false ∧
      t.image = none ∧ t.power.railsOn = true ∧ (s.power.input = true → t.faultActive = true)) ∧
    (s.power.refclkGood = false → s.power.input = true → s.power.rstAsserted = false → s.power.tripLatch = false →
      s.areaValid s.bootFirst = true → ∃ t, exec .refclkReturn s = .next t ∧ t.mstate = .boot ∧ t.power.pgood = some true) ∧
    (∀ rail : Nat, s.power.railsOn = true →
      exec (.railOutOfRegulation rail) s = .next { s with power := { s.power with pgood := some false } }) ∧
    (∀ (sensor : TripSensor) (mc : Int), s.grade.hasSensor sensor = true → s.power.input = true → s.power.railsOn = true → tripLimit sensor ≤ mc →
      ∃ t, exec (.thermalTripComparator sensor mc) s = .next t ∧ lost t ∧ t.power.tripLatch = true ∧ t.power.pgood = some false ∧
        t.faultActive = true) ∧
    (s.power.rstAsserted = true → exec .tripLatchClear s = .next { s with power := { s.power with tripLatch := false } })

/-- R486, R488-R493, R524: the hub's periodic work. A sample takes uptime on by 10 ms and writes each reading to its entry; the telemetry message
goes to every session that asks for it; the event buffer is written to the log; a deferral bit that runs out is cleared; flash housekeeping keeps
the greatest erase count and the share of wear; the calibrations change nothing that an entry shows. -/
def Obligations.PeriodicWork : Prop :=
  ∀ s : State, s.hubUp = true →
    (∀ v : Sample, ∃ t, exec (.sensorSample v) s = .next t ∧ t.uptimeMs = s.uptimeMs + 10 ∧ t.o 0xA20001 = v.inputMv % 2 ^ 32 ∧
      t.o 0xA20005 = twos 32 v.outletMc ∧ (∀ d, d < s.grade.dies → t.o (0xA20101 + d) = twos 32 (v.dieMc.getD d 0)) ∧
      (∀ n, n < s.grade.stacks → t.o (0xA20111 + n) = twos 32 (v.hbmMc.getD n 0)) ∧ t.steps = s.steps ∧ t.cores = s.cores ∧ t.mem = s.mem) ∧
    (s.answering = true → s.obit kBgDefer 5 = false → ∃ t, exec .telemetryPeriod s = .next t ∧
      (∀ q ∈ s.sessions, q.slot < 16 → q.opened = true → s.o (0xA10101 + q.slot) = 1 → .telemetry q.word (q.modSeq + 1) s.telemetryBody ∈ t.out) ∧
      t.steps = s.steps ∧ t.mem = s.mem) ∧
    (∃ t, exec .eventLogFlush s = .next t ∧ t.logBuf = [] ∧ t.log = (s.log ++ s.logBuf).drop (s.log.length + s.logBuf.length - 8388608) ∧
      t.obj = s.obj) ∧
    (∀ bit : Fin 8, s.obit kBgDefer bit.val = true → ∃ t, exec (.bgDeferExpiry bit) s = .next t ∧ t.obit kBgDefer bit.val = false ∧
      (∀ b, b ≠ bit.val → t.obit kBgDefer b = s.obit kBgDefer b)) ∧
    (∀ (erases : Nat) (replaced : Bool), s.obit kBgDefer 4 = false → ∃ t, exec (.flashHousekeeping erases replaced) s = .next t ∧
      t.o 0xC03003 = max (s.o 0xC03003) (erases % 2 ^ 32) ∧ t.o 0xC03001 = min 1000 (t.o 0xC03003 * 1000 / 30000) ∧
      t.o 0xC03002 = if replaced then s.o 0xC03002 - 1 else s.o 0xC03002) ∧
    exec .pllCalibration s = .next s ∧ exec .voltageCalibration s = .next s

/-- R502, R522: the test access port. IDCODE captures the grade's code, SAMPLE/PRELOAD the pins with its bits in the update register, BYPASS the
bypass register; EXTEST drives the pins in a test state of 1 or more, an internal scan runs in the full state alone, and an instruction that the
port does not accept selects BYPASS. Nothing outside the port changes. -/
def Obligations.TestAccessPort : Prop :=
  ∀ s : State, s.power.input = true →
    let bypass := s.tapBypass
    exec .tapBypass s = .next bypass ∧
    exec .tapIdcode s = .next { s with tap := { s.tap with ir := 1, captured := s.grade.idcode, driving := false } } ∧
    (∀ bits : BitVec 14,
      exec (.tapSamplePreload bits) s = .next { s with tap := { ir := 2, boundary := bits, captured := s.pins, driving := false } } ∧
      (1 ≤ s.testState →
        exec (.tapExtest bits) s = .next { s with tap := { ir := 0, boundary := bits, captured := s.pins, driving := true } }) ∧
      (s.testState = 0 → exec (.tapExtest bits) s = .next bypass)) ∧
    (∀ op : Byte,
      (0x10 ≤ op.toNat → op.toNat ≤ 0x1F → s.testState = 2 → ∃ t, exec (.tapInternalScan op) s = .next t ∧ t.tap.ir = op ∧
        t.tap.driving = false ∧ t.obj = s.obj ∧ t.power = s.power) ∧
      (op.toNat < 0x10 ∨ 0x1F < op.toNat ∨ s.testState ≠ 2 → exec (.tapInternalScan op) s = .next bypass))

/- The host: jobs. -/

/-- R32-R34, R260, R262, R370, R372, R390, R391, R452: the commands of a job, in the states that take them. LOAD_IMAGE verifies the image and
leaves its verdict; at IMAGE_LOAD_COMPLETE the image is bound in READY with step 0 fixed, or its failure ends the load. UNLOAD drops the
image; RUN_STEPS issues from LAST_FIXED + 1 to E; STOP withdraws what has not started and ends in STOPPED when nothing is left to do;
CHECKPOINT invalidates the manifest; RESTORE looks for its source; a suspect mark lands on its step. -/
def Obligations.JobCommands : Prop :=
  ∀ (s : State) (r : Req) (q : Session),
    (s.takesCommand r q 2 →
      (∀ w : W16, s.mstate = .standby → s.imageWindow w.toNat = true → s.jobs.load = none → s.cutBusy = false →
        ∃ t, exec (.loadImage r w 0) s = .next t ∧ t.answered r 1 [] ∧ t.mstate = .standby ∧ t.image = s.image ∧
          t.jobs.load = some (reqHnd r, w.toNat) ∧ (t.jobs.loadImage.isSome = true ∨ t.jobs.loadResult.isSome = true) ∧
          t.o 0x201002 = (Config.sha512 s.imageWhole).toNat) ∧
      ((s.mstate = .ready ∨ s.mstate = .stopped) → s.cutBusy = false →
        (∃ t, exec (.unload r) s = .next t ∧ t.answered r 1 [] ∧ t.mstate = .standby ∧ t.image = none) ∧
        (∀ (c : W64) (slot : Byte), slot.toNat ≤ 1 ∨ slot = 0xFF → ∃ t, exec (.restore r c slot 0) s = .next t ∧ t.answered r 1 [] ∧
          ((t.mstate = .recovering ∧ t.ckpt.restore.isSome = true) ∨ (t.mstate = .stopped ∧ t.ckpt.restore = none)))) ∧
      (∀ c : W64, (s.mstate = .ready ∨ s.mstate = .stopped) → s.image.isSome = true →
        (∀ x ∈ s.steps.list, x.st = .discarded ∨ x.n ≤ s.lastFixed) →
        ∃ t x, exec (.runSteps r c) s = .next t ∧ t.answered r 1 [] ∧ t.mstate = .running ∧ t.lastFixed = s.lastFixed ∧
          t.steps.runHnd = some (reqHnd r) ∧ t.steps.runEnd = (if c = 0 then none else some (s.lastFixed + c.toNat)) ∧
          t.step? (s.lastFixed + 1) = some x ∧ x.st = .pending ∧ x.started = false ∧ x.hnd = some (reqHnd r)) ∧
      (s.mstate = .running → s.steps.rollback = none → ∃ t, exec (.stop r) s = .next t ∧ t.answered r 1 [] ∧
        (∀ x ∈ t.steps.list, x.st = .pending → x.started = true) ∧
        ((∀ x ∈ s.steps.list, x.open_ = true → x.st = .pending ∧ x.started = false) → t.mstate = .stopped) ∧
        ((∃ x ∈ s.steps.list, x.open_ = true ∧ (x.st = .pending → x.started = true)) →
          t.mstate = .stopping ∧ t.steps.stopPending = true)) ∧
      (∀ (n : Nat) (l : List Nat), s.mstate = .stopped ∨ (s.mstate = .running ∧ s.o kDecisionMode = 0) → s.isRoot = true →
        s.ckpt.cutHnd = none → s.ckpt.waitHnd = none → s.targets = n :: l →
        ∃ t, exec (.checkpoint r) s = .next t ∧ t.answered r 1 [] ∧ t.ckpt.cutHnd = some (reqHnd r) ∧ t.o kCutState = 1 ∧
          .storageWrite n (targetSlotAddr (s.target n) s.cutSlot) (List.replicate 256 0) ∈ t.out) ∧
      (∀ (n : W64) (vat : W16) (x : StepRec), (s.mstate = .running ∨ s.mstate = .stopping) → s.step? n.toNat = some x → x.st = .running →
        vat.toNat ∈ s.segments → vat ≠ 0xFFFF → ∃ t, exec (.markSuspect r n vat) s = .next t ∧ t.answered r 0 [] ∧
          t.step? n.toNat = some { x with marks := x.marks ++ [(vat.toNat, .host)] })) ∧
    (s.takesCommand r q 3 →
      (s.mstate = .standby ∨ s.mstate = .faulted → ∃ t, exec (.enterMaintenance r) s = .next t ∧ t.answered r 0 [] ∧
        t.mstate = .maintenance) ∧
      (s.mstate = .maintenance → ∃ t, exec (.leaveMaintenance r) s = .next t ∧ t.answered r 0 [] ∧ t.mstate = .standby ∧
        t.o 0xB03000 = 0)) ∧
    (∀ (h : Hnd) (w : Nat), s.hubUp = true → s.mstate = .standby → s.jobs.load = some (h, w) →
      (∀ j : Judged, s.jobs.loadImage = some j → ∃ t, exec .imageLoadComplete s = .next t ∧ t.mstate = .ready ∧
        t.image = some j.image ∧ t.lastFixed = 0 ∧ t.steps.list = [] ∧ t.jobs.load = none) ∧
      (∀ (st : Nat) (ws : List Nat), s.jobs.loadImage = none → s.jobs.loadResult = some (st :: ws) → ∃ t,
        exec .imageLoadComplete s = .next t ∧ t.mstate = .standby ∧ t.image = s.image ∧ t.jobs.load = none))

/-- R310, R403-R408, R423, R503: the commands on units of the module, in the states that take them. RESET_DOMAIN empties a core, puts a die or the
hub in reset, or starts the module anew; FENCE_CORE isolates a core, and waits for the remap where a number moves; PROVE_CORE puts a core in
PROVING; LINK_RESET brings a FAULTED port to DETECT; REPAIR_HBM takes its stack out of service with what the die's HBM held (read as 0:
log 1). -/
def Obligations.UnitCommands : Prop :=
  ∀ (s : State) (r : Req) (q : Session),
    (s.takesCommand r q 3 →
      (resetStates s.mstate = true →
        (∀ p : W16, p.toNat < s.grade.cores → s.image = none → ∃ t, exec (.resetDomain r 0 p) s = .next t ∧ t.answered r 1 [] ∧
          t.core p.toNat = Core.empty ∧ t.coreState p.toNat = s.coreState p.toNat) ∧
        (∀ d : W16, d.toNat < s.grade.dies → SMap.get 0 d.toNat s.power.dieReset = 0 → ∃ t, exec (.resetDomain r 1 d) s = .next t ∧
          t.answered r 1 [] ∧ SMap.get 0 d.toNat t.power.dieReset = 1 ∧ t.o (kDie d.toNat 1) = 2 ∧ (reqHnd r, 1, d.toNat) ∈ t.jobs.reset) ∧
        (∀ i : W16, s.areaValid s.bootFirst = true → (∃ t, exec (.resetDomain r 2 i) s = .next t ∧ t.answered r 1 [] ∧
            t.power.hubReset = 1 ∧ t.sessions = []) ∧
          (∃ t, exec (.resetDomain r 3 i) s = .next t ∧ t.answered r 1 [] ∧ t.mstate = .boot ∧ t.image = none ∧ t.sessions = [] ∧
            t.mem = .empty))) ∧
      (∀ p : W16, p.toNat < s.grade.cores →
        (coreStatesLegal s.mstate = true → s.coreState p.toNat ≠ 5 →
          (s.numberOf p.toNat = none → (∀ e ∈ s.proving.remap, e.1 ≠ p.toNat) → s.calm → ∃ t, exec (.fenceCore r p) s = .next t ∧
            t.answered r 1 [] ∧ (p.toNat ∉ s.proving.due → t.coreState p.toNat = if s.o 0xC01003 ≤ min 15 (s.o (kCore p.toNat 0x10) + 1) then 5 else 4)) ∧
          (∀ l : Nat, s.numberOf p.toNat = some l → ∃ t, exec (.fenceCore r p) s = .next t ∧ t.answered r 1 [] ∧
            (reqHnd r, p.toNat) ∈ t.jobs.fence ∧ (p.toNat, l) ∈ t.proving.remap ∧ t.lcore? l ≠ some p.toNat)) ∧
        (s.proveStates p.toNat s.mstate = true → s.coreState p.toNat ∈ [0, 1, 4] → ∃ t, exec (.proveCore r p) s = .next t ∧
          t.answered r 1 [] ∧ t.coreState p.toNat = 2 ∧ t.core p.toNat = Core.empty ∧
          (p.toNat, s.coreState p.toNat) ∈ t.proving.active ∧ (reqHnd r, p.toNat) ∈ t.jobs.prove)) ∧
      (∀ n : Byte, n.toNat < s.grade.stacks → s.mstate = .maintenance → ∃ t, exec (.repairHbm r n 0) s = .next t ∧ t.answered r 1 [] ∧
        t.o (kStack n.toNat 1) = 3 ∧ (∀ a, hbmDie a = n.toNat / 2 → t.hbmByte a = 0) ∧ (reqHnd r, n.toNat) ∈ t.jobs.repair)) ∧
    (s.takesCommand r q 2 → ∀ port : Byte, port.toNat < 6 → s.linkState port.toNat = 8 → ∃ t, exec (.linkReset r port) s = .next t ∧
      t.answered r 0 [] ∧ t.linkState port.toNat = 1)

/-- R497-R502: the commands of firmware, keys, attestation and the test port. A sound image makes its area invalid while it is written; an
activation waits for its hub reset; a key goes into its slot, or leaves it and ends the sessions opened with it, unless the commit to flash fails;
ATTEST makes its report; the test port changes state, to the full state for a signature that unlocks it. -/
def Obligations.FirmwareAndKeys : Prop :=
  ∀ (s : State) (r : Req) (q : Session),
    (s.takesCommand r q 3 → (s.mstate = .standby ∨ s.mstate = .maintenance) →
      (∀ w : W16, s.imageWindow w.toNat = true → s.fw.updateHnd = none →
        let head := s.imageBytes 0 512
        let x := s.inactiveArea
        let good := firmwareFormed head && decide (s.fw.floor ≤ fieldAt head 8 1) && firmwareSigned head (s.imageBytes 512 (fieldAt head 12 4))
        ∃ t, exec (.updateFirmware r w 0) s = .next t ∧ t.answered r 1 [] ∧ t.o (0xB00004 + x) = (if good then 2 else s.o (0xB00004 + x)) ∧
          t.fw.updateHnd = (if good then some (reqHnd r) else none)) ∧
      (∀ image flags : Byte, image.toNat ≤ 1 → flags.toNat < 4 → s.areaValid image.toNat = true → ∃ t,
        exec (.activateFirmware r image flags 0) s = .next t ∧ t.answered r 0 [] ∧
        t.fw.activate = some (image.toNat, Nat.testBit flags.toNat 0, Nat.testBit flags.toNat 1)) ∧
      (∀ (level key : Byte) (pub : BitVec 1064), slotNamed level.toNat key.toNat = true →
        let slot := kKeySlot level.toNat key.toNat
        let lost := s.flashFails slot
        (s.enrolled level.toNat key.toNat = false → ∃ t, exec (.enrollKey r level key 0 pub) s = .next t ∧
          t.o slot = (if Config.onCurve pub && !lost then slotValue level.toNat key.toNat pub else s.o slot) ∧
          t.answered r (if !Config.onCurve pub then 0x13 else if lost then 0x20 else 0) []) ∧
        (s.enrolled level.toNat key.toNat = true → s.lastMaintainer level.toNat key.toNat = false → ∃ t,
          exec (.revokeKey r level key 0) s = .next t ∧ t.o slot = (if lost then s.o slot else 0) ∧
          t.answered r (if lost then 0x20 else 0) [] ∧
          (lost = false → ∀ x ∈ t.sessions, x.opensWith level.toNat key.toNat = false)))) ∧
    (s.takesCommand r q 3 → s.mstate = .maintenance →
      (∀ st : Byte, st.toNat ≤ 1 → ∃ t, exec (.testPort r st 0 0) s = .next t ∧ t.answered r 0 [] ∧ t.testState = st.toNat) ∧
      (∀ sig : BitVec 1056, ∃ t, exec (.testPort r 2 0 sig) s = .next t ∧ t.testState = (if s.unlocks sig then 2 else s.testState) ∧
        t.answered r (if s.unlocks sig then 0 else 0x24) [])) ∧
    (s.takesCommand r q 2 → ∀ nonce : BitVec 256, ∃ t, exec (.attest r nonce) s = .next t ∧ t.answered r 0 [552] ∧
      t.attestReport = s.attestBytes nonce)

/- The host: sessions. -/

/-- R438, R439, R441-R446, R456, R463: sessions. OPEN_REQUEST reserves the lowest free slot and sends its challenge
(one with a reserved field that is not zero is discarded, log 62); the proof opens the session, or
frees the slot and is counted; a slot whose challenge lapses, a session that idles and one that is closed are gone, with its windows. A
READ returns the piece of the value that it asks for; a WRITE that a check refuses changes no entry, and any other acts on its entry.
Records that wait for a ring go out when the consumer count makes room. -/
def Obligations.SessionMessages : Prop :=
  ∀ (s : State),
    (∀ (src : Source) (level key : Byte) (reserved : W16) (nonce : BitVec 256), reserved ≠ 0 →
      exec (.openRequest src level key reserved nonce) s = .next s) ∧
    (∀ (src : Source) (level key : Byte) (nonce : BitVec 256), s.answering = true → s.objectPath src = true → s.mayOpen = true →
      (∀ n : Nat, s.freeSlot = some n → ∃ t x sig, exec (.openRequest src level key 0 nonce) s = .next t ∧
        t.sessions = s.sessions ++ [x] ∧ x.slot = n ∧ x.opened = false ∧ x.level = level.toNat ∧ x.key = key.toNat ∧ x.src = src ∧
        x.nonceC = nonce ∧ t.out = s.out ++ [.challenge src 0 x.word x.nonceM sig]) ∧
      (s.freeSlot = none → ∃ t, exec (.openRequest src level key 0 nonce) s = .next t ∧ t.sessions = s.sessions ∧
        t.out = s.out ++ [.challenge src 0x12 0 0 0])) ∧
    (∀ (src : Source) (word : W32) (sig : BitVec 1056) (q : Session), s.answering = true → s.objectPath src = true →
      s.sessions.find? (fun x => decide (x.word = word)) = some q → s.session? q.slot = some q → q.opened = false → ∃ t,
        exec (.openProof src word sig) s = .next t ∧ .openResult src (if s.proofHolds q src sig then 0 else 0x12) ∈ t.out ∧
        t.session? q.slot = (if s.proofHolds q src sig then some { q with opened := true, src := src } else none) ∧
        (s.proofHolds q src sig = false → t.o 0xB10201 = (s.o 0xB10201 + 1) % 2 ^ 64)) ∧
    (∀ (r : Req) (q : Session), s.takeAs r = .take q →
      (∃ t, exec (.close r) s = .next t ∧ t.replied r 0 ∧ t.session? q.slot = none ∧ ∀ w ∈ t.windows, w.session ≠ q.word) ∧
      (∀ (index : W16) (sub : Byte) (offset : W32) (row : DRow), entryRow index.toNat sub.toNat = some row →
        entryPresent s.grade index.toNat sub.toNat = true → row.acc ≠ .cmd →
        let v := (s.taken r q).valueBytes row index.toNat sub.toNat
        v.length ≤ 1024 → ∃ t m, exec (.read r index sub 0 offset) s = .next t ∧ .reply r.via m ∈ t.out ∧ m.seq = r.seq ∧ m.status = 0 ∧
          m.otype = row.ty.code ∧ m.total = v.length ∧ m.data = v.drop offset.toNat ∧ t.obj = s.obj ∧ t.steps = s.steps ∧ t.mem = s.mem ∧
          t.cores = s.cores) ∧
      (∀ (index : W16) (sub reserved : Byte) (offset : W32) (value : List Byte),
        let c := writeCheck (s.taken r q) { q with highSeq := r.seq.toNat } index.toNat sub.toNat reserved.toNat offset.toNat value
        (∀ st : Nat, c = some st → ∃ t, exec (.write r index sub reserved offset value) s = .next t ∧ t.replied r st ∧ t.obj = s.obj ∧
          t.steps = s.steps ∧ t.mem = s.mem ∧ t.mstate = s.mstate) ∧
        (c = none → entryInFlash index.toNat sub.toNat = false → ∃ u : State, u.replied r 0 ∧ u.obj = s.obj ∧
          exec (.write r index sub reserved offset value) s = .next (u.writeEntry index.toNat sub.toNat (ofLe value))))) ∧
    (∀ (w : Nat) (b : List Byte), s.answering = true → s.sendPath w = true →
      let u := s.emit (.rdmaAck w)
      let r := messageReq w b
      let index : W16 := BitVec.ofNat 16 (fieldAt b 16 2)
      let sub : Byte := BitVec.ofNat 8 (fieldAt b 18 1)
      let reserved : Byte := BitVec.ofNat 8 (fieldAt b 19 1)
      let offset : W32 := BitVec.ofNat 32 (fieldAt b 20 4)
      (messageSound b = false → exec (.windowSend w b) s = .next u) ∧
      (messageSound b = true →
        (fieldAt b 3 1 = 0x05 → b.length = 16 → exec (.windowSend w b) s = exec (.close r) u) ∧
        (fieldAt b 3 1 = 0x10 → b.length = 24 → exec (.windowSend w b) s = exec (.read r index sub reserved offset) u) ∧
        (fieldAt b 3 1 = 0x11 → 24 ≤ b.length → exec (.windowSend w b) s = exec (.write r index sub reserved offset (b.drop 24)) u) ∧
        (fieldAt b 3 1 = 0x12 → fieldAt b 16 4 = 0x9003 → b.length = 32 →
          exec (.windowSend w b) s = exec (.runSteps r (BitVec.ofNat 64 (fieldAt b 24 8))) u))) ∧
    (∀ (slot : Nat) (q : Session), s.session? slot = some q →
      (q.opened = false → ∃ t, exec (.challengeExpiry slot) s = .next t ∧ t.session? slot = none ∧
        ∀ k : Nat, k ≠ slot → t.session? k = s.session? k) ∧
      (q.opened = true → q.outstanding = [] → (∀ w ∈ s.windows, w.session ≠ q.word) → ∃ t,
        exec (.sessionIdleExpiry slot) s = .next t ∧ t.session? slot = none ∧ t.windows = s.windows) ∧
      (∀ count : W64, q.reading = true → q.ringK + q.held.length - count.toNat ≤ routeEntries (s.route slot) → ∃ t,
        exec (.ringConsumerReadDone slot count) s = .next t ∧
        t.session? slot = some { q with ringC := count.toNat, ringK := q.ringK + q.held.length, reading := false, held := [] } ∧
        t.out.length = s.out.length + 2 * q.held.length))

/-- R466: the three entries of write-1-to-clear flags, STATUS, VEC_FLAGS and ALERT_FLAGS. Each bit written 1 clears its flag, each bit written 0
leaves it, no flag is set, and no other entry changes; a value with a reserved bit set completes BAD_ARGUMENT and changes no entry (R12). -/
def Obligations.WriteOneToClear : Prop :=
  ∀ (s : State) (r : Req) (q : Session), s.takeAs r = .take q → 2 ≤ q.level →
    let clears := fun (i : Instr) (key n v width : Nat) =>
      exec (.write r (BitVec.ofNat 16 (key / 256)) (BitVec.ofNat 8 (key % 256)) 0 0 (leBytes n v)) s = exec i s ∧
      (v < 2 ^ width → ∃ t, exec i s = .next t ∧ t.replied r 0 ∧
        (∀ b : Nat, Nat.testBit (t.o key) b = (Nat.testBit (s.o key) b && !Nat.testBit v b)) ∧ ∀ k : Nat, k ≠ key → t.o k = s.o k) ∧
      (2 ^ width ≤ v → ∃ t, exec i s = .next t ∧ t.replied r 0x13 ∧ t.obj = s.obj)
    (∀ (p : Nat), p < s.grade.cores →
      (∀ v : W32, clears (.statusWrite r p v) (0x400005 + 256 * p) 4 v.toNat 3) ∧
      (∀ v : Byte, clears (.vecFlagsWrite r p v) (0x40000A + 256 * p) 1 v.toNat 5)) ∧
    (∀ v : W32, clears (.alertFlagsWrite r v) 0xA01000 4 v.toNat 8)

/-- R296, R310, R327, R359, R360, R378, R436, R455, R456, R464, R473, R488, R489: what the WRITE of an entry does beside holding its value, where
R439's checks pass: a reserve is pending, or in force at once in STANDBY with no IMAGE window; a new JOB_ID clears the inbound map; a storage
target starts or drops its queue pair; a route takes the records held for it; a port goes DISABLED or on its way up with PORT_ENABLE and its
dimension. An entry in flash keeps its value where the commit fails. -/
def Obligations.EntryWrites : Prop :=
  ∀ (s : State) (r : Req) (q : Session), s.takeAs r = .take q → s.session? q.slot = some q →
    let ok := fun (key n v : Nat) =>
      writeCheck (s.taken r q) { q with highSeq := r.seq.toNat } (key / 256) (key % 256) 0 0 (leBytes n v) = none
    let holds := fun (i : Instr) (key v : Nat) => ∃ t, exec i s = .next t ∧ t.replied r 0 ∧ t.o key = v ∧ ∀ k : Nat, k ≠ key → t.o k = s.o k
    (∀ v : W32, ok 0xA01100 4 v.toNat → holds (.alertEnableWrite r v) 0xA01100 v.toNat) ∧
    (∀ v : W16, ok 0xA30000 2 v.toNat → ∃ t, exec (.bgDeferWrite r v) s = .next t ∧ t.replied r 0 ∧ t.o 0xA30000 = v.toNat ∧
      (s.proving.due = [] ∨ v.getLsbD 3 = true → ∀ k : Nat, k ≠ 0xA30000 → t.o k = s.o k)) ∧
    (∀ v : W16, ok 0x502000 2 v.toNat → holds (.ledgerReserveWrite r v) 0x502000 v.toNat) ∧
    (∀ v : Byte, ok 0x201100 1 v.toNat → holds (.verifierEnableWrite r v) 0x201100 v.toNat) ∧
    (∀ v : W32, ok 0xA10000 4 v.toNat → holds (.telemetryPeriodWrite r v) 0xA10000 v.toNat) ∧
    (∀ v : W32, ok 0x503200 4 v.toNat → ∃ t, exec (.mirrorReserveWrite r v) s = .next t ∧ t.replied r 0 ∧ t.o 0x503200 = v.toNat ∧
      t.mirror.share = (if s.mstate = .standby ∧ (∀ w ∈ s.windows, w.kind ≠ 0) then v.toNat / s.grade.dies else s.mirror.share)) ∧
    (∀ v : W32, ok 0x700604 4 v.toNat → ∃ t, exec (.jobIdWrite r v) s = .next t ∧ t.replied r 0 ∧ t.jobId = v.toNat ∧
      (s.jobId ≠ v.toNat → t.mirror.inMap = [] ∧ t.mirror.inSource = none)) ∧
    (∀ (n : Nat) (rec : BitVec 512) (x : StorageQp), n < 8 → ok (0x506001 + n) 64 rec.toNat → s.storage[n]? = some x →
      let fails := s.flashFails (0x506001 + n)
      ∃ t y, exec (.storageTargetWrite r n rec) s = .next t ∧ t.replied r (if fails then 0x20 else 0) ∧
        t.target n = (if fails then s.target n else rec.toNat) ∧ t.storage[n]? = some y ∧ (fails = true → y = x) ∧
        (fails = false → y.state = (if targetPort rec.toNat < 4 ∧ s.o (kEth (targetPort rec.toNat) 0 1) = 2 then 1 else 0) ∧
          (x.qpn ≠ 0 → y.qpn = x.qpn))) ∧
    (∀ rec : BitVec 256, ok (0x910001 + q.slot) 32 rec.toNat → ∃ t x, exec (.completionRouteWrite r q.slot rec) s = .next t ∧
      t.replied r 0 ∧ t.route q.slot = rec.toNat ∧ t.session? q.slot = some x ∧ x.held = [] ∧ x.ringK = 0 ∧
      x.modSeq = q.modSeq + q.held.length) ∧
    (∀ (port : Nat) (v : Byte), port < 6 → ok (0x70000C + 256 * port) 1 v.toNat →
      ∃ t, exec (.portEnableWrite r port v) s = .next t ∧ t.replied r 0 ∧ t.o (0x70000C + 256 * port) = v.toNat ∧
        (v = 0 → t.linkState port = 0) ∧ (v = 1 → 1 < s.dimOf port → t.linkState port = if s.linkState port = 0 then 1 else s.linkState port)) ∧
    (∀ (axis : Fin 3) (v : Byte), ok (0x700601 + axis.val) 1 v.toNat →
      let fails := s.flashFails (0x700601 + axis.val)
      ∃ t, exec (.dimensionWrite r axis v) s = .next t ∧ t.replied r (if fails then 0x20 else 0) ∧
        t.o (0x700601 + axis.val) = (if fails then s.o (0x700601 + axis.val) else v.toNat) ∧
        (fails = false → v = 1 → t.linkState (2 * axis.val) = 0 ∧ t.linkState (2 * axis.val + 1) = 0))

/- The host: windows and Ethernet. -/

/-- R428-R435: windows. OPEN_WINDOW gives the lowest free number to a connection of the session, and CLOSE_WINDOW ends one with nothing
outstanding. A write to a region lands in its bytes and no others, in a STATE region in the fixed slot of its granule, and it waits
where both slots are held; a read returns the bytes; a step input keeps what is written to it; the image area is read, and written while no
image is loading or bound. What a window does not allow is answered with a NAK and changes nothing. -/
def Obligations.WindowsMoveData : Prop :=
  ∀ (s : State),
    (∀ (r : Req) (q : Session), s.takeAs r = .take q → r.hseq.toNat ∉ q.usedHseq →
      (∀ (kind access portByte : Byte) (region hostQpn : W32) (gid : BitVec 128),
        openWindowCheck (s.taken r q) { q with highSeq := r.seq.toNat } r kind.toNat access.toNat portByte.toNat 0 region.toNat hostQpn.toNat = none →
        ∃ t w, exec (.openWindow r kind access portByte 0 region hostQpn gid) s = .next t ∧ t.windows = s.windows ++ [w] ∧
          s.freeWindow = some w.num ∧ w.kind = kind.toNat ∧ w.session = q.word ∧ w.hostQpn = hostQpn.toNat ∧
          w.canRead = Nat.testBit access.toNat 0 ∧ w.canWrite = Nat.testBit access.toNat 1 ∧
          t.answered r 0 [w.num, w.qpn, w.rkey.toNat, s.windowMib kind.toNat region.toNat]) ∧
      (∀ (num : W16) (w : Window), s.takesCommand r q 2 → s.window? num.toNat = some w → w.session = q.word → w.closing = none →
        (∀ e ∈ s.mem.waiting, e.1 ≠ num.toNat) → ∃ t, exec (.closeWindow r num 0) s = .next t ∧ t.answered r 1 [] ∧
          t.window? num.toNat = none)) ∧
    (∀ (w : Nat) (e : Window), s.answering = true → s.window? w = some e → s.ipUp e.port e.iface = true → e.closing = none →
      s.mem.waiting = [] → s.cleanWrites → s.entriesSound →
      (∀ (g : Region) (addr len : Nat) (data : List Byte), e.kind = 1 → s.windowRegion e = some g →
        (e.canWrite = true → addr + data.length ≤ g.sizeMib * mib → ¬ (s.mstate = .running ∧ s.stepRuns = true) →
          (g.kind ≠ rkState → ∃ t, exec (.regionWindowWrite w addr data) s = .next t ∧ .rdmaAck w ∈ t.out ∧
            ∀ b, t.hbmByte b = if g.addr + addr ≤ b ∧ b < g.addr + addr + data.length then data.getD (b - (g.addr + addr)) 0 else s.hbmByte b) ∧
          (∀ n : Nat, g.kind = rkState → n = (g.addr + addr) / mib → data ≠ [] → (g.addr + addr) % mib + data.length ≤ mib →
            (s.hostWaits n = true → exec (.regionWindowWrite w addr data) s =
              .next { s with mem := { s.mem with waiting := [(w, addr, data)] } }) ∧
            ((s.gran n).pinned (s.gran n).fixedSlot = false → ∃ t, exec (.regionWindowWrite w addr data) s = .next t ∧ .rdmaAck w ∈ t.out ∧
              (∀ k, k < data.length → t.hbmByte (s.slotAddr n (s.gran n).fixedSlot + (g.addr + addr) % mib + k) = data.getD k 0) ∧
              (t.gran n).fixedSlot = (s.gran n).fixedSlot))) ∧
        (e.canRead = true → addr + len ≤ g.sizeMib * mib → g.kind ≠ rkState →
          (s.hbmHit (g.addr + addr) len = false →
            exec (.regionWindowRead w addr len) s = .next (s.emit (.rdmaData w (s.hbmBytes (g.addr + addr) len)))) ∧
          (s.hbmHit (g.addr + addr) len = true → ∃ t c, exec (.regionWindowRead w addr len) s = .next t ∧ .rdmaNak w c ∈ t.out ∧
            s.raised t 0x0206 w 0)) ∧
        (g.sizeMib * mib < addr + data.length → ∃ c, exec (.regionWindowWrite w addr data) s = .next (s.emit (.rdmaNak w c)))) ∧
      (∀ (va : W64) (data : List Byte) (d : JournalD) (n : Nat), e.kind = 2 → e.canWrite = true → s.inputD? (bits va.toNat 32 16) = some d →
        s.inputStep (bits va.toNat 48 16) = some n → bits va.toNat 0 32 + data.length ≤ d.bytes → ∃ t i,
          exec (.stepInputWrite w va data) s = .next t ∧ .rdmaAck w ∈ t.out ∧ t.input? n d.id = some i ∧
          ∀ k, k < data.length → Memory.byte i.bytes (bits va.toNat 0 32 + k) = data.getD k 0) ∧
      (∀ (addr len : Nat) (data : List Byte), e.kind = 0 →
        (e.canWrite = true → s.image = none → s.jobs.load = none → addr + data.length ≤ 2 ^ 30 → ∃ t,
          exec (.imageWindowAccess w true addr len data) s = .next t ∧ .rdmaAck w ∈ t.out ∧
          ∀ k, k < data.length → t.hbmByte (s.imageArea + addr + k) = data.getD k 0) ∧
        (e.canRead = true → addr + len ≤ 2 ^ 30 → s.hbmHit (s.imageArea + addr) len = false →
          exec (.imageWindowAccess w false addr len data) s = .next (s.emit (.rdmaData w (s.hbmBytes (s.imageArea + addr) len)))) ∧
        (s.image.isSome = true → ∃ c, exec (.imageWindowAccess w true addr len data) s = .next (s.emit (.rdmaNak w c)))))

/-- R427, R435, R436: queue pairs. A congestion notice halves the rate and is counted; each quiet period gives an eighth of the line rate back,
to the full rate at most; a packet not acknowledged is sent again up to seven times; then the queue pair is in error: a window closes, and a
storage queue pair stays in error. -/
def Obligations.QueuePairs : Prop :=
  ∀ (s : State),
    (∀ (w : Nat) (e : Window), s.window? w = some e →
      let gone := fun (t : State) => t.window? w = none ∧ (s.hubUp = true → s.raised t 0x0502 w 0)
      (∃ t, exec (.qpError (.window w)) s = .next t ∧ gone t) ∧
      (∃ t, exec (.cnpReceived (.window w)) s = .next t ∧ t.window? w = some { e with rateDen := 2 * e.rateDen } ∧
        t.o (kEth e.port e.iface 0x0F) = (s.o (kEth e.port e.iface 0x0F) + 1) % 2 ^ 64) ∧
      (∃ t, exec (.rateRecoveryTick (.window w)) s = .next t ∧ t.obj = s.obj ∧ t.window? w =
        some (if e.rateDen ≤ e.rateNum + e.rateDen / 8 then { e with rateNum := e.rateDen } else { e with rateNum := e.rateNum + e.rateDen / 8 })) ∧
      (e.retries < 7 → ∃ t, exec (.ackTimeoutExpiry (.window w)) s = .next t ∧ t.window? w = some { e with retries := e.retries + 1 } ∧
        .retransmit (.window w) ∈ t.out) ∧
      (7 ≤ e.retries → ∃ t, exec (.ackTimeoutExpiry (.window w)) s = .next t ∧ gone t)) ∧
    (∀ (n : Nat) (e : StorageQp), s.storage[n]? = some e →
      let now := fun (t : State) (x : StorageQp) => t.storage[n]? = some x ∧ ∀ m : Nat, m ≠ n → t.storage[m]? = s.storage[m]?
      (e.state = 1 → ∃ t, exec (.qpError (.storage n)) s = .next t ∧ now t { e with state := 2 }) ∧
      (e.state ≠ 0 → ∃ t, exec (.cnpReceived (.storage n)) s = .next t ∧ now t { e with rateDen := 2 * e.rateDen }) ∧
      (∃ t, exec (.rateRecoveryTick (.storage n)) s = .next t ∧ now t
        (if e.rateDen ≤ e.rateNum + e.rateDen / 8 then { e with rateNum := e.rateDen } else { e with rateNum := e.rateNum + e.rateDen / 8 })) ∧
      (e.state = 1 → e.retries < 7 → ∃ t, exec (.ackTimeoutExpiry (.storage n)) s = .next t ∧ now t { e with retries := e.retries + 1 } ∧
        .retransmit (.storage n) ∈ t.out) ∧
      (e.state = 1 → 7 ≤ e.retries → ∃ t, exec (.ackTimeoutExpiry (.storage n)) s = .next t ∧ now t { e with state := 2 }))

/-- R424-R426, R436, R458, R459: an interface of Ethernet. It answers ARP, neighbour solicitations and echo requests for its own address and no
other; it obeys a pause of its RDMA priority and ignores any other; its link's state shows in its entry, and with the link up the storage queue
pairs of the port reach ready. -/
def Obligations.EthernetInterfaces : Prop :=
  ∀ (s : State) (port iface : Nat),
    (exec (.ethernetLinkUp 4 iface) s = .next (s.put 0x711001 2) ∧ exec (.ethernetLinkDown 4 iface) s = .next (s.put 0x711001 0)) ∧
    (s.ifaceHere port iface = true →
    (s.answering = true →
      (∀ a : W32, a ≠ 0 → exec (.arpRequest port iface a) s = .next (if s.o (kEth port iface 4) = a.toNat then
        s.emit (.arpReply port iface a (Config.mac port iface)) else s)) ∧
      (∀ a : BitVec 128, a ≠ 0 →
        exec (.neighborSolicitation port iface a) s = .next (if s.ipv6 port iface = a.toNat then
          s.emit (.ndAdvert port iface a (Config.mac port iface)) else s) ∧
        ∀ b : List Byte, exec (.icmpEcho port iface true a b) s = .next (if s.ipv6 port iface = a.toNat then
          s.emit (.icmpReply port iface true b) else s))) ∧
    (∀ (prio : Nat) (quanta : W16),
      let rdma := s.o (0x710009 + 256 * port)
      (prio ≠ rdma → exec (.pfcFrameReceived port iface prio quanta) s = .next s) ∧
      (∃ t, exec (.pfcFrameReceived port iface rdma quanta) s = .next t ∧ SMap.get 0 (ifaceKey port iface) t.pfc = quanta.toNat ∧
        t.o (kEth port iface 0x0C) = if quanta = 0 then s.o (kEth port iface 0x0C) else (s.o (kEth port iface 0x0C) + 1) % 2 ^ 64)) ∧
    (∃ t, exec (.pfcPauseExpiry port iface) s = .next t ∧ SMap.get 0 (ifaceKey port iface) t.pfc = 0 ∧ t.obj = s.obj) ∧
    (∃ t, exec (.ethernetLinkUp port iface) s = .next t ∧ t.o (kEth port iface 1) = 2 ∧
      (∀ (n : Nat) (x : StorageQp), n < 8 → s.storage[n]? = some x → iface = 0 → s.storagePort n = port → ∃ y, t.storage[n]? = some y ∧
        (x.state = 0 → y.state = 1) ∧ (x.state ≠ 0 → y = x))) ∧
    (∃ t, exec (.ethernetLinkDown port iface) s = .next t ∧ t.o (kEth port iface 1) = 0 ∧ t.sessions = s.sessions ∧ t.windows = s.windows))

/-- R342: each evaluated swatch adds 1 to one bucket of SWATCH_HISTOGRAM, and no other bucket changes: bucket 0 for E = 0, bucket 1 for 0 < E < 1,
bucket i from 2 to 16 for 2^(i-2) ≤ E < 2^(i-1), bucket 17 for E ≥ 2^15 or infinite. E is compared as the binary32 number that it is: the code of
2^k is (127 + k) × 2^23. -/
def Obligations.SwatchHistogram : Prop :=
  ∀ (s : State) (p : Nat) (w : Swatch) (l : List Swatch), s.coreUp p → (s.core p).swatches = w :: l →
    let E := val32 w.error
    let two := fun (k : Nat) => val32 (BitVec.ofNat 32 ((127 + k) * 2 ^ 23))
    ∃ t b, exec (.swatchEvaluate p) s = .next t ∧ b ≤ 17 ∧
      SMap.get 0 b t.histogram = (SMap.get 0 b s.histogram + 1) % 2 ^ 64 ∧ (∀ c, c ≠ b → SMap.get 0 c t.histogram = SMap.get 0 c s.histogram) ∧
      (w.error = 0 → b = 0) ∧ ((val32 0).less E = true → E.less (two 0) = true → b = 1) ∧
      (∀ i, 2 ≤ i → i ≤ 16 → E.less (two (i - 2)) = false → E.less (two (i - 1)) = true → b = i) ∧
      (E.less (two 15) = false → b = 17)

/- The whole machine. -/

/-- A step takes the command at the front of the queue and runs it on the state with the rest of the queue. -/
def Obligations.StepRunsFront : Prop :=
  ∀ (s : State) (c : Instr) (rest : List Instr), s.pending = c :: rest → Machine.step s = exec c { s with pending := rest }

/-- The model's choice (log 2): with no command waiting the module idles, which changes nothing unless a host write waits for a slot; a reset
module's step is such a step. -/
def Obligations.IdleStep : Prop :=
  (∀ s : State, s.pending = [] → Machine.step s = .next s.idle ∧ s.idle.grade = s.grade ∧ s.idle.pending = [] ∧
    (s.mem.waiting = [] → s.idle = s)) ∧ Machine.step State.reset = .next State.reset

/-- R31, R464, R476-R485, R499: the state after reset: BOOT, no image, no session, no window, nothing in the queue; entries at their defaults,
the MAINTAINER key of manufacture enrolled. And the forms: six torus ports; every memory and the map of entries are canonical. -/
def Obligations.ResetState : Prop :=
  State.reset.mstate = .boot ∧ State.reset.image = none ∧ State.reset.sessions = [] ∧ State.reset.windows = [] ∧ State.reset.pending = [] ∧
  State.reset.o 0x501000 = 1 ∧ State.reset.o 0x501100 = 64 ∧ State.reset.o 0x602100 = 0x44800000 ∧ State.reset.o 0x700605 = 3 ∧
  State.reset.enrolled 3 0 = true ∧ State.reset.enrolled 3 1 = false ∧
  State.reset.links.length = 6 ∧ State.reset.objWf = true ∧ State.reset.memWf = true ∧ (∀ p : Nat, (State.reset.core p).memWf = true)

/-- Whatever command runs, the grade is what it was, the queue behind it is untouched, nothing that has been sent is taken back, and the torus
ports are as many as they were. -/
def Obligations.ExecKeeps : Prop :=
  ∀ (c : Instr) (s t : State), exec c s = .next t →
    t.grade = s.grade ∧ t.pending = s.pending ∧ s.out <+: t.out ∧ t.links.length = s.links.length

/-- Every step keeps the map of entries in canonical form, with no entry listed at its default, and every memory of the module outside the cores:
HBM, the base store and the replay area. -/
def Obligations.StepKeepsForms : Prop :=
  ∀ s t : State, s.objWf = true → s.memWf = true → Machine.step s = .next t → t.objWf = true ∧ t.memWf = true
end

