-- ==== Sys2Proof/Laws/Maps.lean ====
section
/-! SUPPORT. The laws of sparse maps and of byte memories: what a read answers after a write, and that every write keeps the canonical
form. -/

namespace Sys2Proof.Machine

variable {α : Type}

theorem SMap.get_ins_self (d : α) (k : Nat) (v : α) (m : SMap α) : SMap.get d k (SMap.ins k v m) = v := by
  induction m with
  | nil => simp [SMap.ins, SMap.get]
  | cons e t ih =>
    obtain ⟨j, w⟩ := e
    simp only [SMap.ins]
    split
    · simp only [SMap.get]; rw [if_neg (by omega)]; exact ih
    · split <;> simp [SMap.get]

theorem SMap.get_ins_ne (d : α) {j k : Nat} (h : j ≠ k) (v : α) (m : SMap α) :
    SMap.get d j (SMap.ins k v m) = SMap.get d j m := by
  induction m with
  | nil => simp [SMap.ins, SMap.get, Ne.symm h]
  | cons e t ih =>
    obtain ⟨i, w⟩ := e
    simp only [SMap.ins]
    split
    · simp only [SMap.get, ih]
    · split
      · subst i; simp [SMap.get, Ne.symm h]
      · simp [SMap.get, Ne.symm h]

theorem SMap.get_del_self (d : α) (k : Nat) (m : SMap α) : SMap.get d k (SMap.del k m) = d := by
  induction m with
  | nil => rfl
  | cons e t ih =>
    obtain ⟨j, w⟩ := e
    simp only [SMap.del]
    split
    · exact ih
    · rename_i h; simp only [SMap.get]; rw [if_neg h]; exact ih

theorem SMap.get_del_ne (d : α) {j k : Nat} (h : j ≠ k) (m : SMap α) : SMap.get d j (SMap.del k m) = SMap.get d j m := by
  induction m with
  | nil => rfl
  | cons e t ih =>
    obtain ⟨i, w⟩ := e
    simp only [SMap.del]
    split
    · subst i; simp only [SMap.get]; rw [if_neg (Ne.symm h)]; exact ih
    · simp only [SMap.get, ih]

/-- Reading back the entry just written. -/
@[simp] theorem SMap.get_put_self [DecidableEq α] (d : α) (k : Nat) (v : α) (m : SMap α) :
    SMap.get d k (SMap.put d k v m) = v := by
  unfold SMap.put
  split
  · subst v; exact SMap.get_del_self d k m
  · exact SMap.get_ins_self d k v m

/-- A write leaves every other entry alone, whatever the two keys read as unlisted. -/
theorem SMap.get_put_ne [DecidableEq α] (d d' : α) {j k : Nat} (h : j ≠ k) (v : α) (m : SMap α) :
    SMap.get d j (SMap.put d' k v m) = SMap.get d j m := by
  unfold SMap.put
  split
  · exact SMap.get_del_ne d h m
  · exact SMap.get_ins_ne d h v m

/-- What a read answers after a write. -/
theorem SMap.get_put [DecidableEq α] (d : α) (j k : Nat) (v : α) (m : SMap α) :
    SMap.get d j (SMap.put d k v m) = if j = k then v else SMap.get d j m := by
  split
  · subst j; simp
  · rename_i h; exact SMap.get_put_ne d d h v m

theorem SMap.above_lt {a b : Nat} (h : a < b) {m : SMap α} (hm : SMap.above b m = true) : SMap.above a m = true := by
  cases m with
  | nil => rfl
  | cons e t =>
    obtain ⟨j, w⟩ := e
    simp only [SMap.above, Bool.and_eq_true, decide_eq_true_eq] at *
    exact ⟨by omega, hm.2⟩

theorem SMap.above_sorted {a : Nat} {m : SMap α} (h : SMap.above a m = true) : SMap.sorted m = true := by
  cases m with
  | nil => rfl
  | cons e t =>
    obtain ⟨j, w⟩ := e
    simp only [SMap.above, Bool.and_eq_true] at h
    exact h.2

theorem SMap.above_ins {a k : Nat} (h : a < k) (v : α) {m : SMap α} (hm : SMap.above a m = true) :
    SMap.above a (SMap.ins k v m) = true := by
  induction m generalizing a with
  | nil => simp [SMap.ins, SMap.above, h]
  | cons e t ih =>
    obtain ⟨j, w⟩ := e
    simp only [SMap.above, Bool.and_eq_true, decide_eq_true_eq] at hm
    simp only [SMap.ins]
    split
    · rename_i hj
      simp only [SMap.above, Bool.and_eq_true, decide_eq_true_eq]
      exact ⟨hm.1, ih hj hm.2⟩
    · split
      · subst j
        simp only [SMap.above, Bool.and_eq_true, decide_eq_true_eq]
        exact ⟨h, hm.2⟩
      · simp only [SMap.above, Bool.and_eq_true, decide_eq_true_eq]
        exact ⟨h, by omega, hm.2⟩

theorem SMap.above_del {a : Nat} (k : Nat) {m : SMap α} (hm : SMap.above a m = true) : SMap.above a (SMap.del k m) = true := by
  induction m generalizing a with
  | nil => rfl
  | cons e t ih =>
    obtain ⟨j, w⟩ := e
    simp only [SMap.above, Bool.and_eq_true, decide_eq_true_eq] at hm
    simp only [SMap.del]
    split
    · exact ih (SMap.above_lt hm.1 hm.2)
    · simp only [SMap.above, Bool.and_eq_true, decide_eq_true_eq]
      exact ⟨hm.1, ih hm.2⟩

theorem SMap.sorted_ins (k : Nat) (v : α) {m : SMap α} (hm : SMap.sorted m = true) : SMap.sorted (SMap.ins k v m) = true := by
  cases m with
  | nil => rfl
  | cons e t =>
    obtain ⟨j, w⟩ := e
    simp only [SMap.sorted] at hm
    simp only [SMap.ins]
    split
    · rename_i hj; exact SMap.above_ins hj v hm
    · split
      · subst j; exact hm
      · simp only [SMap.sorted, SMap.above, Bool.and_eq_true, decide_eq_true_eq]
        exact ⟨by omega, hm⟩

theorem SMap.sorted_del (k : Nat) {m : SMap α} (hm : SMap.sorted m = true) : SMap.sorted (SMap.del k m) = true := by
  cases m with
  | nil => rfl
  | cons e t =>
    obtain ⟨j, w⟩ := e
    simp only [SMap.sorted] at hm
    simp only [SMap.del]
    split
    · exact SMap.above_sorted (SMap.above_del k hm)
    · exact SMap.above_del k hm

/-- A write keeps the keys rising. -/
theorem SMap.sorted_put [DecidableEq α] (d : α) (k : Nat) (v : α) {m : SMap α} (hm : SMap.sorted m = true) :
    SMap.sorted (SMap.put d k v m) = true := by
  unfold SMap.put
  split
  · exact SMap.sorted_del k hm
  · exact SMap.sorted_ins k v hm

theorem SMap.mem_ins {k : Nat} {v : α} {m : SMap α} {e : Nat × α} (h : e ∈ SMap.ins k v m) : e = (k, v) ∨ e ∈ m := by
  induction m with
  | nil => simpa [SMap.ins] using h
  | cons f t ih =>
    obtain ⟨j, w⟩ := f
    simp only [SMap.ins] at h
    split at h
    · rcases List.mem_cons.1 h with rfl | h
      · exact .inr (by simp)
      · rcases ih h with h | h
        · exact .inl h
        · exact .inr (List.mem_cons_of_mem _ h)
    · split at h
      · rcases List.mem_cons.1 h with rfl | h
        · exact .inl rfl
        · exact .inr (List.mem_cons_of_mem _ h)
      · rcases List.mem_cons.1 h with rfl | h
        · exact .inl rfl
        · exact .inr h

theorem SMap.mem_del {k : Nat} {m : SMap α} {e : Nat × α} (h : e ∈ SMap.del k m) : e ∈ m ∧ e.1 ≠ k := by
  induction m with
  | nil => simp [SMap.del] at h
  | cons f t ih =>
    obtain ⟨j, w⟩ := f
    simp only [SMap.del] at h
    split at h
    · exact ⟨List.mem_cons_of_mem _ (ih h).1, (ih h).2⟩
    · rename_i hj
      rcases List.mem_cons.1 h with rfl | h
      · exact ⟨by simp, hj⟩
      · exact ⟨List.mem_cons_of_mem _ (ih h).1, (ih h).2⟩

/-- An entry after a write is the one written, where its value is none that the key reads as unlisted, or an old one of another key or of
the same list. -/
theorem SMap.mem_put [DecidableEq α] {d : α} {k : Nat} {v : α} {m : SMap α} {e : Nat × α} (h : e ∈ SMap.put d k v m) :
    (e = (k, v) ∧ v ≠ d) ∨ e ∈ m := by
  unfold SMap.put at h
  split at h
  · exact .inr (SMap.mem_del h).1
  · rename_i hv
    rcases SMap.mem_ins h with rfl | h
    · exact .inl ⟨rfl, hv⟩
    · exact .inr h

theorem SMap.noDefault_iff [DecidableEq α] (d : α) (m : SMap α) : SMap.noDefault d m = true ↔ ∀ e ∈ m, e.2 ≠ d := by
  induction m with
  | nil => simp [SMap.noDefault]
  | cons e t ih =>
    obtain ⟨j, w⟩ := e
    simp [SMap.noDefault, ih]

/-- A write lists no entry equal to what an unlisted key reads as. -/
theorem SMap.noDefault_put [DecidableEq α] (d : α) (k : Nat) (v : α) {m : SMap α} (hm : SMap.noDefault d m = true) :
    SMap.noDefault d (SMap.put d k v m) = true := by
  rw [SMap.noDefault_iff] at *
  intro e he
  rcases SMap.mem_put he with ⟨rfl, hv⟩ | he
  · exact hv
  · exact hm e he

theorem SMap.above_filter {a : Nat} (p : Nat × α → Bool) {m : SMap α} (hm : SMap.above a m = true) :
    SMap.above a (m.filter p) = true := by
  induction m generalizing a with
  | nil => rfl
  | cons e t ih =>
    obtain ⟨j, w⟩ := e
    simp only [SMap.above, Bool.and_eq_true, decide_eq_true_eq] at hm
    simp only [List.filter_cons]
    split
    · simp only [SMap.above, Bool.and_eq_true, decide_eq_true_eq]
      exact ⟨hm.1, ih hm.2⟩
    · exact ih (SMap.above_lt hm.1 hm.2)

theorem SMap.sorted_filter (p : Nat × α → Bool) {m : SMap α} (hm : SMap.sorted m = true) : SMap.sorted (m.filter p) = true := by
  cases m with
  | nil => rfl
  | cons e t =>
    obtain ⟨j, w⟩ := e
    simp only [SMap.sorted] at hm
    simp only [List.filter_cons]
    split
    · exact SMap.above_filter p hm
    · exact SMap.above_sorted (SMap.above_filter p hm)

/- Byte memories. -/

/-- Reading back the byte just stored. -/
@[simp] theorem Memory.byte_setByte_self (m : SMap Byte) (a : Nat) (b : Byte) : Memory.byte (Memory.setByte m a b) a = b :=
  SMap.get_put_self 0 a b m

/-- A stored byte leaves every other address alone. -/
theorem Memory.byte_setByte_ne {a c : Nat} (h : c ≠ a) (m : SMap Byte) (b : Byte) :
    Memory.byte (Memory.setByte m a b) c = Memory.byte m c := SMap.get_put_ne 0 0 h b m

/-- Every address outside the stored bytes reads as before. -/
theorem Memory.byte_write_outside (l : List Byte) (m : SMap Byte) (a c : Nat) (h : c < a ∨ a + l.length ≤ c) :
    Memory.byte (Memory.write m a l) c = Memory.byte m c := by
  induction l generalizing m a with
  | nil => rfl
  | cons b t ih =>
    simp only [Memory.write, List.length_cons] at *
    rw [ih _ _ (by omega), Memory.byte_setByte_ne (by omega)]

/-- The stored bytes read back. -/
theorem Memory.byte_write_inside (l : List Byte) (m : SMap Byte) (a i : Nat) (h : i < l.length) :
    Memory.byte (Memory.write m a l) (a + i) = l[i] := by
  induction l generalizing m a i with
  | nil => simp at h
  | cons b t ih =>
    simp only [Memory.write]
    cases i with
    | zero => rw [Memory.byte_write_outside _ _ _ _ (by omega)]; simp
    | succ j =>
      have := ih (Memory.setByte m a b) (a + 1) j (by simpa using h)
      rw [show a + (j + 1) = a + 1 + j by omega, this]
      simp

theorem Memory.wf_iff (m : SMap Byte) : Memory.wf m = true ↔ SMap.sorted m = true ∧ ∀ e ∈ m, e.2 ≠ 0 := by
  simp [Memory.wf, SMap.noDefault_iff]

/-- Storing a byte keeps the canonical form. -/
theorem Memory.wf_setByte (a : Nat) (b : Byte) {m : SMap Byte} (h : Memory.wf m = true) : Memory.wf (Memory.setByte m a b) = true := by
  simp only [Memory.wf, Bool.and_eq_true] at *
  exact ⟨SMap.sorted_put 0 a b h.1, SMap.noDefault_put 0 a b h.2⟩

/-- Storing bytes keeps the canonical form. -/
theorem Memory.wf_write (l : List Byte) (a : Nat) {m : SMap Byte} (h : Memory.wf m = true) : Memory.wf (Memory.write m a l) = true := by
  induction l generalizing m a with
  | nil => exact h
  | cons b t ih => exact ih (a + 1) (Memory.wf_setByte a b h)

/-- Dropping bytes keeps the canonical form. -/
theorem Memory.wf_filter (p : Nat × Byte → Bool) {m : SMap Byte} (h : Memory.wf m = true) : Memory.wf (m.filter p) = true := by
  rw [Memory.wf_iff] at *
  exact ⟨SMap.sorted_filter p h.1, fun e he => h.2 e (List.mem_filter.1 he).1⟩

/-- Clearing a range keeps the canonical form. -/
theorem Memory.wf_clear (a n : Nat) {m : SMap Byte} (h : Memory.wf m = true) : Memory.wf (Memory.clear m a n) = true :=
  Memory.wf_filter _ h

end Sys2Proof.Machine
end

