-- ==== Sys2Proof/Laws/State.lean ====
section
/-! SUPPORT. What each update of the state writes and what it leaves: one lemma per field and update, true by rfl. -/

namespace Sys2Proof.Machine

/- The scalar entries. -/

/-- Reading back the entry just set. -/
@[simp] theorem State.o_put_self (s : State) (k v : Nat) : (s.put k v).o k = v := SMap.get_put_self _ k v s.obj

/-- Setting an entry leaves every other entry alone. -/
theorem State.o_put_ne {j k : Nat} (h : j ≠ k) (s : State) (v : Nat) : (s.put k v).o j = s.o j :=
  SMap.get_put_ne _ _ h v s.obj

/-- What an entry reads as after one is set. -/
theorem State.o_put (s : State) (j k v : Nat) : (s.put k v).o j = if j = k then v else s.o j := by
  split
  · subst j; simp
  · rename_i h; exact State.o_put_ne h s v

/-- Setting an entry keeps the scalar entries in canonical form. -/
theorem State.objWf_put (s : State) (k v : Nat) (h : SMap.sorted s.obj = true) (hd : ∀ e ∈ s.obj, e.2 ≠ objDefault e.1) :
    SMap.sorted (s.put k v).obj = true ∧ ∀ e ∈ (s.put k v).obj, e.2 ≠ objDefault e.1 := by
  refine ⟨SMap.sorted_put _ k v h, fun e he => ?_⟩
  rcases SMap.mem_put he with ⟨rfl, hv⟩ | he
  · exact hv
  · exact hd e he

/- Cores. -/

@[simp] theorem State.core_setCore_self (s : State) (p : Nat) (c : Core) : (s.setCore p c).core p = c :=
  SMap.get_put_self _ p c s.cores

/-- Replacing a core leaves every other core alone. -/
theorem State.core_setCore_ne {p q : Nat} (h : q ≠ p) (s : State) (c : Core) : (s.setCore p c).core q = s.core q :=
  SMap.get_put_ne _ _ h c s.cores

/- put writes obj. -/

@[simp] theorem State.put_grade (s : State) (k v : Nat) : (s.put k v).grade = s.grade := rfl
@[simp] theorem State.put_power (s : State) (k v : Nat) : (s.put k v).power = s.power := rfl
@[simp] theorem State.put_mstate (s : State) (k v : Nat) : (s.put k v).mstate = s.mstate := rfl
@[simp] theorem State.put_uptimeMs (s : State) (k v : Nat) : (s.put k v).uptimeMs = s.uptimeMs := rfl
@[simp] theorem State.put_logicalMap (s : State) (k v : Nat) : (s.put k v).logicalMap = s.logicalMap := rfl
@[simp] theorem State.put_cores (s : State) (k v : Nat) : (s.put k v).cores = s.cores := rfl
@[simp] theorem State.put_mem (s : State) (k v : Nat) : (s.put k v).mem = s.mem := rfl
@[simp] theorem State.put_image (s : State) (k v : Nat) : (s.put k v).image = s.image := rfl
@[simp] theorem State.put_streams (s : State) (k v : Nat) : (s.put k v).streams = s.streams := rfl
@[simp] theorem State.put_steps (s : State) (k v : Nat) : (s.put k v).steps = s.steps := rfl
@[simp] theorem State.put_ledger (s : State) (k v : Nat) : (s.put k v).ledger = s.ledger := rfl
@[simp] theorem State.put_mirror (s : State) (k v : Nat) : (s.put k v).mirror = s.mirror := rfl
@[simp] theorem State.put_ckpt (s : State) (k v : Nat) : (s.put k v).ckpt = s.ckpt := rfl
@[simp] theorem State.put_sessions (s : State) (k v : Nat) : (s.put k v).sessions = s.sessions := rfl
@[simp] theorem State.put_windows (s : State) (k v : Nat) : (s.put k v).windows = s.windows := rfl
@[simp] theorem State.put_storage (s : State) (k v : Nat) : (s.put k v).storage = s.storage := rfl
@[simp] theorem State.put_pfc (s : State) (k v : Nat) : (s.put k v).pfc = s.pfc := rfl
@[simp] theorem State.put_links (s : State) (k v : Nat) : (s.put k v).links = s.links := rfl
@[simp] theorem State.put_joins (s : State) (k v : Nat) : (s.put k v).joins = s.joins := rfl
@[simp] theorem State.put_fw (s : State) (k v : Nat) : (s.put k v).fw = s.fw := rfl
@[simp] theorem State.put_log (s : State) (k v : Nat) : (s.put k v).log = s.log := rfl
@[simp] theorem State.put_logBuf (s : State) (k v : Nat) : (s.put k v).logBuf = s.logBuf := rfl
@[simp] theorem State.put_armed (s : State) (k v : Nat) : (s.put k v).armed = s.armed := rfl
@[simp] theorem State.put_proving (s : State) (k v : Nat) : (s.put k v).proving = s.proving := rfl
@[simp] theorem State.put_jobs (s : State) (k v : Nat) : (s.put k v).jobs = s.jobs := rfl
@[simp] theorem State.put_tap (s : State) (k v : Nat) : (s.put k v).tap = s.tap := rfl
@[simp] theorem State.put_opensSec (s : State) (k v : Nat) : (s.put k v).opensSec = s.opensSec := rfl
@[simp] theorem State.put_opensAt (s : State) (k v : Nat) : (s.put k v).opensAt = s.opensAt := rfl
@[simp] theorem State.put_recalAt (s : State) (k v : Nat) : (s.put k v).recalAt = s.recalAt := rfl
@[simp] theorem State.put_loadReport (s : State) (k v : Nat) : (s.put k v).loadReport = s.loadReport := rfl
@[simp] theorem State.put_attestReport (s : State) (k v : Nat) : (s.put k v).attestReport = s.attestReport := rfl
@[simp] theorem State.put_causeLog (s : State) (k v : Nat) : (s.put k v).causeLog = s.causeLog := rfl
@[simp] theorem State.put_frozenDigests (s : State) (k v : Nat) : (s.put k v).frozenDigests = s.frozenDigests := rfl
@[simp] theorem State.put_frozenStale (s : State) (k v : Nat) : (s.put k v).frozenStale = s.frozenStale := rfl
@[simp] theorem State.put_histogram (s : State) (k v : Nat) : (s.put k v).histogram = s.histogram := rfl
@[simp] theorem State.put_fresh (s : State) (k v : Nat) : (s.put k v).fresh = s.fresh := rfl
@[simp] theorem State.put_out (s : State) (k v : Nat) : (s.put k v).out = s.out := rfl
@[simp] theorem State.put_pending (s : State) (k v : Nat) : (s.put k v).pending = s.pending := rfl

/- bump64 writes obj. -/

@[simp] theorem State.bump64_grade (s : State) (k n : Nat) : (s.bump64 k n).grade = s.grade := rfl
@[simp] theorem State.bump64_power (s : State) (k n : Nat) : (s.bump64 k n).power = s.power := rfl
@[simp] theorem State.bump64_mstate (s : State) (k n : Nat) : (s.bump64 k n).mstate = s.mstate := rfl
@[simp] theorem State.bump64_uptimeMs (s : State) (k n : Nat) : (s.bump64 k n).uptimeMs = s.uptimeMs := rfl
@[simp] theorem State.bump64_logicalMap (s : State) (k n : Nat) : (s.bump64 k n).logicalMap = s.logicalMap := rfl
@[simp] theorem State.bump64_cores (s : State) (k n : Nat) : (s.bump64 k n).cores = s.cores := rfl
@[simp] theorem State.bump64_mem (s : State) (k n : Nat) : (s.bump64 k n).mem = s.mem := rfl
@[simp] theorem State.bump64_image (s : State) (k n : Nat) : (s.bump64 k n).image = s.image := rfl
@[simp] theorem State.bump64_streams (s : State) (k n : Nat) : (s.bump64 k n).streams = s.streams := rfl
@[simp] theorem State.bump64_steps (s : State) (k n : Nat) : (s.bump64 k n).steps = s.steps := rfl
@[simp] theorem State.bump64_ledger (s : State) (k n : Nat) : (s.bump64 k n).ledger = s.ledger := rfl
@[simp] theorem State.bump64_mirror (s : State) (k n : Nat) : (s.bump64 k n).mirror = s.mirror := rfl
@[simp] theorem State.bump64_ckpt (s : State) (k n : Nat) : (s.bump64 k n).ckpt = s.ckpt := rfl
@[simp] theorem State.bump64_sessions (s : State) (k n : Nat) : (s.bump64 k n).sessions = s.sessions := rfl
@[simp] theorem State.bump64_windows (s : State) (k n : Nat) : (s.bump64 k n).windows = s.windows := rfl
@[simp] theorem State.bump64_storage (s : State) (k n : Nat) : (s.bump64 k n).storage = s.storage := rfl
@[simp] theorem State.bump64_pfc (s : State) (k n : Nat) : (s.bump64 k n).pfc = s.pfc := rfl
@[simp] theorem State.bump64_links (s : State) (k n : Nat) : (s.bump64 k n).links = s.links := rfl
@[simp] theorem State.bump64_joins (s : State) (k n : Nat) : (s.bump64 k n).joins = s.joins := rfl
@[simp] theorem State.bump64_fw (s : State) (k n : Nat) : (s.bump64 k n).fw = s.fw := rfl
@[simp] theorem State.bump64_log (s : State) (k n : Nat) : (s.bump64 k n).log = s.log := rfl
@[simp] theorem State.bump64_logBuf (s : State) (k n : Nat) : (s.bump64 k n).logBuf = s.logBuf := rfl
@[simp] theorem State.bump64_armed (s : State) (k n : Nat) : (s.bump64 k n).armed = s.armed := rfl
@[simp] theorem State.bump64_proving (s : State) (k n : Nat) : (s.bump64 k n).proving = s.proving := rfl
@[simp] theorem State.bump64_jobs (s : State) (k n : Nat) : (s.bump64 k n).jobs = s.jobs := rfl
@[simp] theorem State.bump64_tap (s : State) (k n : Nat) : (s.bump64 k n).tap = s.tap := rfl
@[simp] theorem State.bump64_opensSec (s : State) (k n : Nat) : (s.bump64 k n).opensSec = s.opensSec := rfl
@[simp] theorem State.bump64_opensAt (s : State) (k n : Nat) : (s.bump64 k n).opensAt = s.opensAt := rfl
@[simp] theorem State.bump64_recalAt (s : State) (k n : Nat) : (s.bump64 k n).recalAt = s.recalAt := rfl
@[simp] theorem State.bump64_loadReport (s : State) (k n : Nat) : (s.bump64 k n).loadReport = s.loadReport := rfl
@[simp] theorem State.bump64_attestReport (s : State) (k n : Nat) : (s.bump64 k n).attestReport = s.attestReport := rfl
@[simp] theorem State.bump64_causeLog (s : State) (k n : Nat) : (s.bump64 k n).causeLog = s.causeLog := rfl
@[simp] theorem State.bump64_frozenDigests (s : State) (k n : Nat) : (s.bump64 k n).frozenDigests = s.frozenDigests := rfl
@[simp] theorem State.bump64_frozenStale (s : State) (k n : Nat) : (s.bump64 k n).frozenStale = s.frozenStale := rfl
@[simp] theorem State.bump64_histogram (s : State) (k n : Nat) : (s.bump64 k n).histogram = s.histogram := rfl
@[simp] theorem State.bump64_fresh (s : State) (k n : Nat) : (s.bump64 k n).fresh = s.fresh := rfl
@[simp] theorem State.bump64_out (s : State) (k n : Nat) : (s.bump64 k n).out = s.out := rfl
@[simp] theorem State.bump64_pending (s : State) (k n : Nat) : (s.bump64 k n).pending = s.pending := rfl

/- bump32 writes obj. -/

@[simp] theorem State.bump32_grade (s : State) (k n : Nat) : (s.bump32 k n).grade = s.grade := rfl
@[simp] theorem State.bump32_power (s : State) (k n : Nat) : (s.bump32 k n).power = s.power := rfl
@[simp] theorem State.bump32_mstate (s : State) (k n : Nat) : (s.bump32 k n).mstate = s.mstate := rfl
@[simp] theorem State.bump32_uptimeMs (s : State) (k n : Nat) : (s.bump32 k n).uptimeMs = s.uptimeMs := rfl
@[simp] theorem State.bump32_logicalMap (s : State) (k n : Nat) : (s.bump32 k n).logicalMap = s.logicalMap := rfl
@[simp] theorem State.bump32_cores (s : State) (k n : Nat) : (s.bump32 k n).cores = s.cores := rfl
@[simp] theorem State.bump32_mem (s : State) (k n : Nat) : (s.bump32 k n).mem = s.mem := rfl
@[simp] theorem State.bump32_image (s : State) (k n : Nat) : (s.bump32 k n).image = s.image := rfl
@[simp] theorem State.bump32_streams (s : State) (k n : Nat) : (s.bump32 k n).streams = s.streams := rfl
@[simp] theorem State.bump32_steps (s : State) (k n : Nat) : (s.bump32 k n).steps = s.steps := rfl
@[simp] theorem State.bump32_ledger (s : State) (k n : Nat) : (s.bump32 k n).ledger = s.ledger := rfl
@[simp] theorem State.bump32_mirror (s : State) (k n : Nat) : (s.bump32 k n).mirror = s.mirror := rfl
@[simp] theorem State.bump32_ckpt (s : State) (k n : Nat) : (s.bump32 k n).ckpt = s.ckpt := rfl
@[simp] theorem State.bump32_sessions (s : State) (k n : Nat) : (s.bump32 k n).sessions = s.sessions := rfl
@[simp] theorem State.bump32_windows (s : State) (k n : Nat) : (s.bump32 k n).windows = s.windows := rfl
@[simp] theorem State.bump32_storage (s : State) (k n : Nat) : (s.bump32 k n).storage = s.storage := rfl
@[simp] theorem State.bump32_pfc (s : State) (k n : Nat) : (s.bump32 k n).pfc = s.pfc := rfl
@[simp] theorem State.bump32_links (s : State) (k n : Nat) : (s.bump32 k n).links = s.links := rfl
@[simp] theorem State.bump32_joins (s : State) (k n : Nat) : (s.bump32 k n).joins = s.joins := rfl
@[simp] theorem State.bump32_fw (s : State) (k n : Nat) : (s.bump32 k n).fw = s.fw := rfl
@[simp] theorem State.bump32_log (s : State) (k n : Nat) : (s.bump32 k n).log = s.log := rfl
@[simp] theorem State.bump32_logBuf (s : State) (k n : Nat) : (s.bump32 k n).logBuf = s.logBuf := rfl
@[simp] theorem State.bump32_armed (s : State) (k n : Nat) : (s.bump32 k n).armed = s.armed := rfl
@[simp] theorem State.bump32_proving (s : State) (k n : Nat) : (s.bump32 k n).proving = s.proving := rfl
@[simp] theorem State.bump32_jobs (s : State) (k n : Nat) : (s.bump32 k n).jobs = s.jobs := rfl
@[simp] theorem State.bump32_tap (s : State) (k n : Nat) : (s.bump32 k n).tap = s.tap := rfl
@[simp] theorem State.bump32_opensSec (s : State) (k n : Nat) : (s.bump32 k n).opensSec = s.opensSec := rfl
@[simp] theorem State.bump32_opensAt (s : State) (k n : Nat) : (s.bump32 k n).opensAt = s.opensAt := rfl
@[simp] theorem State.bump32_recalAt (s : State) (k n : Nat) : (s.bump32 k n).recalAt = s.recalAt := rfl
@[simp] theorem State.bump32_loadReport (s : State) (k n : Nat) : (s.bump32 k n).loadReport = s.loadReport := rfl
@[simp] theorem State.bump32_attestReport (s : State) (k n : Nat) : (s.bump32 k n).attestReport = s.attestReport := rfl
@[simp] theorem State.bump32_causeLog (s : State) (k n : Nat) : (s.bump32 k n).causeLog = s.causeLog := rfl
@[simp] theorem State.bump32_frozenDigests (s : State) (k n : Nat) : (s.bump32 k n).frozenDigests = s.frozenDigests := rfl
@[simp] theorem State.bump32_frozenStale (s : State) (k n : Nat) : (s.bump32 k n).frozenStale = s.frozenStale := rfl
@[simp] theorem State.bump32_histogram (s : State) (k n : Nat) : (s.bump32 k n).histogram = s.histogram := rfl
@[simp] theorem State.bump32_fresh (s : State) (k n : Nat) : (s.bump32 k n).fresh = s.fresh := rfl
@[simp] theorem State.bump32_out (s : State) (k n : Nat) : (s.bump32 k n).out = s.out := rfl
@[simp] theorem State.bump32_pending (s : State) (k n : Nat) : (s.bump32 k n).pending = s.pending := rfl

/- setCore writes cores. -/

@[simp] theorem State.setCore_grade (s : State) (p : Nat) (c : Core) : (s.setCore p c).grade = s.grade := rfl
@[simp] theorem State.setCore_power (s : State) (p : Nat) (c : Core) : (s.setCore p c).power = s.power := rfl
@[simp] theorem State.setCore_mstate (s : State) (p : Nat) (c : Core) : (s.setCore p c).mstate = s.mstate := rfl
@[simp] theorem State.setCore_obj (s : State) (p : Nat) (c : Core) : (s.setCore p c).obj = s.obj := rfl
@[simp] theorem State.setCore_uptimeMs (s : State) (p : Nat) (c : Core) : (s.setCore p c).uptimeMs = s.uptimeMs := rfl
@[simp] theorem State.setCore_logicalMap (s : State) (p : Nat) (c : Core) : (s.setCore p c).logicalMap = s.logicalMap := rfl
@[simp] theorem State.setCore_mem (s : State) (p : Nat) (c : Core) : (s.setCore p c).mem = s.mem := rfl
@[simp] theorem State.setCore_image (s : State) (p : Nat) (c : Core) : (s.setCore p c).image = s.image := rfl
@[simp] theorem State.setCore_streams (s : State) (p : Nat) (c : Core) : (s.setCore p c).streams = s.streams := rfl
@[simp] theorem State.setCore_steps (s : State) (p : Nat) (c : Core) : (s.setCore p c).steps = s.steps := rfl
@[simp] theorem State.setCore_ledger (s : State) (p : Nat) (c : Core) : (s.setCore p c).ledger = s.ledger := rfl
@[simp] theorem State.setCore_mirror (s : State) (p : Nat) (c : Core) : (s.setCore p c).mirror = s.mirror := rfl
@[simp] theorem State.setCore_ckpt (s : State) (p : Nat) (c : Core) : (s.setCore p c).ckpt = s.ckpt := rfl
@[simp] theorem State.setCore_sessions (s : State) (p : Nat) (c : Core) : (s.setCore p c).sessions = s.sessions := rfl
@[simp] theorem State.setCore_windows (s : State) (p : Nat) (c : Core) : (s.setCore p c).windows = s.windows := rfl
@[simp] theorem State.setCore_storage (s : State) (p : Nat) (c : Core) : (s.setCore p c).storage = s.storage := rfl
@[simp] theorem State.setCore_pfc (s : State) (p : Nat) (c : Core) : (s.setCore p c).pfc = s.pfc := rfl
@[simp] theorem State.setCore_links (s : State) (p : Nat) (c : Core) : (s.setCore p c).links = s.links := rfl
@[simp] theorem State.setCore_joins (s : State) (p : Nat) (c : Core) : (s.setCore p c).joins = s.joins := rfl
@[simp] theorem State.setCore_fw (s : State) (p : Nat) (c : Core) : (s.setCore p c).fw = s.fw := rfl
@[simp] theorem State.setCore_log (s : State) (p : Nat) (c : Core) : (s.setCore p c).log = s.log := rfl
@[simp] theorem State.setCore_logBuf (s : State) (p : Nat) (c : Core) : (s.setCore p c).logBuf = s.logBuf := rfl
@[simp] theorem State.setCore_armed (s : State) (p : Nat) (c : Core) : (s.setCore p c).armed = s.armed := rfl
@[simp] theorem State.setCore_proving (s : State) (p : Nat) (c : Core) : (s.setCore p c).proving = s.proving := rfl
@[simp] theorem State.setCore_jobs (s : State) (p : Nat) (c : Core) : (s.setCore p c).jobs = s.jobs := rfl
@[simp] theorem State.setCore_tap (s : State) (p : Nat) (c : Core) : (s.setCore p c).tap = s.tap := rfl
@[simp] theorem State.setCore_opensSec (s : State) (p : Nat) (c : Core) : (s.setCore p c).opensSec = s.opensSec := rfl
@[simp] theorem State.setCore_opensAt (s : State) (p : Nat) (c : Core) : (s.setCore p c).opensAt = s.opensAt := rfl
@[simp] theorem State.setCore_recalAt (s : State) (p : Nat) (c : Core) : (s.setCore p c).recalAt = s.recalAt := rfl
@[simp] theorem State.setCore_loadReport (s : State) (p : Nat) (c : Core) : (s.setCore p c).loadReport = s.loadReport := rfl
@[simp] theorem State.setCore_attestReport (s : State) (p : Nat) (c : Core) : (s.setCore p c).attestReport = s.attestReport := rfl
@[simp] theorem State.setCore_causeLog (s : State) (p : Nat) (c : Core) : (s.setCore p c).causeLog = s.causeLog := rfl
@[simp] theorem State.setCore_frozenDigests (s : State) (p : Nat) (c : Core) : (s.setCore p c).frozenDigests = s.frozenDigests := rfl
@[simp] theorem State.setCore_frozenStale (s : State) (p : Nat) (c : Core) : (s.setCore p c).frozenStale = s.frozenStale := rfl
@[simp] theorem State.setCore_histogram (s : State) (p : Nat) (c : Core) : (s.setCore p c).histogram = s.histogram := rfl
@[simp] theorem State.setCore_fresh (s : State) (p : Nat) (c : Core) : (s.setCore p c).fresh = s.fresh := rfl
@[simp] theorem State.setCore_out (s : State) (p : Nat) (c : Core) : (s.setCore p c).out = s.out := rfl
@[simp] theorem State.setCore_pending (s : State) (p : Nat) (c : Core) : (s.setCore p c).pending = s.pending := rfl

/- emit writes out. -/

@[simp] theorem State.emit_grade (s : State) (m : OutMsg) : (s.emit m).grade = s.grade := rfl
@[simp] theorem State.emit_power (s : State) (m : OutMsg) : (s.emit m).power = s.power := rfl
@[simp] theorem State.emit_mstate (s : State) (m : OutMsg) : (s.emit m).mstate = s.mstate := rfl
@[simp] theorem State.emit_obj (s : State) (m : OutMsg) : (s.emit m).obj = s.obj := rfl
@[simp] theorem State.emit_uptimeMs (s : State) (m : OutMsg) : (s.emit m).uptimeMs = s.uptimeMs := rfl
@[simp] theorem State.emit_logicalMap (s : State) (m : OutMsg) : (s.emit m).logicalMap = s.logicalMap := rfl
@[simp] theorem State.emit_cores (s : State) (m : OutMsg) : (s.emit m).cores = s.cores := rfl
@[simp] theorem State.emit_mem (s : State) (m : OutMsg) : (s.emit m).mem = s.mem := rfl
@[simp] theorem State.emit_image (s : State) (m : OutMsg) : (s.emit m).image = s.image := rfl
@[simp] theorem State.emit_streams (s : State) (m : OutMsg) : (s.emit m).streams = s.streams := rfl
@[simp] theorem State.emit_steps (s : State) (m : OutMsg) : (s.emit m).steps = s.steps := rfl
@[simp] theorem State.emit_ledger (s : State) (m : OutMsg) : (s.emit m).ledger = s.ledger := rfl
@[simp] theorem State.emit_mirror (s : State) (m : OutMsg) : (s.emit m).mirror = s.mirror := rfl
@[simp] theorem State.emit_ckpt (s : State) (m : OutMsg) : (s.emit m).ckpt = s.ckpt := rfl
@[simp] theorem State.emit_sessions (s : State) (m : OutMsg) : (s.emit m).sessions = s.sessions := rfl
@[simp] theorem State.emit_windows (s : State) (m : OutMsg) : (s.emit m).windows = s.windows := rfl
@[simp] theorem State.emit_storage (s : State) (m : OutMsg) : (s.emit m).storage = s.storage := rfl
@[simp] theorem State.emit_pfc (s : State) (m : OutMsg) : (s.emit m).pfc = s.pfc := rfl
@[simp] theorem State.emit_links (s : State) (m : OutMsg) : (s.emit m).links = s.links := rfl
@[simp] theorem State.emit_joins (s : State) (m : OutMsg) : (s.emit m).joins = s.joins := rfl
@[simp] theorem State.emit_fw (s : State) (m : OutMsg) : (s.emit m).fw = s.fw := rfl
@[simp] theorem State.emit_log (s : State) (m : OutMsg) : (s.emit m).log = s.log := rfl
@[simp] theorem State.emit_logBuf (s : State) (m : OutMsg) : (s.emit m).logBuf = s.logBuf := rfl
@[simp] theorem State.emit_armed (s : State) (m : OutMsg) : (s.emit m).armed = s.armed := rfl
@[simp] theorem State.emit_proving (s : State) (m : OutMsg) : (s.emit m).proving = s.proving := rfl
@[simp] theorem State.emit_jobs (s : State) (m : OutMsg) : (s.emit m).jobs = s.jobs := rfl
@[simp] theorem State.emit_tap (s : State) (m : OutMsg) : (s.emit m).tap = s.tap := rfl
@[simp] theorem State.emit_opensSec (s : State) (m : OutMsg) : (s.emit m).opensSec = s.opensSec := rfl
@[simp] theorem State.emit_opensAt (s : State) (m : OutMsg) : (s.emit m).opensAt = s.opensAt := rfl
@[simp] theorem State.emit_recalAt (s : State) (m : OutMsg) : (s.emit m).recalAt = s.recalAt := rfl
@[simp] theorem State.emit_loadReport (s : State) (m : OutMsg) : (s.emit m).loadReport = s.loadReport := rfl
@[simp] theorem State.emit_attestReport (s : State) (m : OutMsg) : (s.emit m).attestReport = s.attestReport := rfl
@[simp] theorem State.emit_causeLog (s : State) (m : OutMsg) : (s.emit m).causeLog = s.causeLog := rfl
@[simp] theorem State.emit_frozenDigests (s : State) (m : OutMsg) : (s.emit m).frozenDigests = s.frozenDigests := rfl
@[simp] theorem State.emit_frozenStale (s : State) (m : OutMsg) : (s.emit m).frozenStale = s.frozenStale := rfl
@[simp] theorem State.emit_histogram (s : State) (m : OutMsg) : (s.emit m).histogram = s.histogram := rfl
@[simp] theorem State.emit_fresh (s : State) (m : OutMsg) : (s.emit m).fresh = s.fresh := rfl
@[simp] theorem State.emit_pending (s : State) (m : OutMsg) : (s.emit m).pending = s.pending := rfl

/- emits writes out. -/

@[simp] theorem State.emits_grade (s : State) (l : List OutMsg) : (s.emits l).grade = s.grade := rfl
@[simp] theorem State.emits_power (s : State) (l : List OutMsg) : (s.emits l).power = s.power := rfl
@[simp] theorem State.emits_mstate (s : State) (l : List OutMsg) : (s.emits l).mstate = s.mstate := rfl
@[simp] theorem State.emits_obj (s : State) (l : List OutMsg) : (s.emits l).obj = s.obj := rfl
@[simp] theorem State.emits_uptimeMs (s : State) (l : List OutMsg) : (s.emits l).uptimeMs = s.uptimeMs := rfl
@[simp] theorem State.emits_logicalMap (s : State) (l : List OutMsg) : (s.emits l).logicalMap = s.logicalMap := rfl
@[simp] theorem State.emits_cores (s : State) (l : List OutMsg) : (s.emits l).cores = s.cores := rfl
@[simp] theorem State.emits_mem (s : State) (l : List OutMsg) : (s.emits l).mem = s.mem := rfl
@[simp] theorem State.emits_image (s : State) (l : List OutMsg) : (s.emits l).image = s.image := rfl
@[simp] theorem State.emits_streams (s : State) (l : List OutMsg) : (s.emits l).streams = s.streams := rfl
@[simp] theorem State.emits_steps (s : State) (l : List OutMsg) : (s.emits l).steps = s.steps := rfl
@[simp] theorem State.emits_ledger (s : State) (l : List OutMsg) : (s.emits l).ledger = s.ledger := rfl
@[simp] theorem State.emits_mirror (s : State) (l : List OutMsg) : (s.emits l).mirror = s.mirror := rfl
@[simp] theorem State.emits_ckpt (s : State) (l : List OutMsg) : (s.emits l).ckpt = s.ckpt := rfl
@[simp] theorem State.emits_sessions (s : State) (l : List OutMsg) : (s.emits l).sessions = s.sessions := rfl
@[simp] theorem State.emits_windows (s : State) (l : List OutMsg) : (s.emits l).windows = s.windows := rfl
@[simp] theorem State.emits_storage (s : State) (l : List OutMsg) : (s.emits l).storage = s.storage := rfl
@[simp] theorem State.emits_pfc (s : State) (l : List OutMsg) : (s.emits l).pfc = s.pfc := rfl
@[simp] theorem State.emits_links (s : State) (l : List OutMsg) : (s.emits l).links = s.links := rfl
@[simp] theorem State.emits_joins (s : State) (l : List OutMsg) : (s.emits l).joins = s.joins := rfl
@[simp] theorem State.emits_fw (s : State) (l : List OutMsg) : (s.emits l).fw = s.fw := rfl
@[simp] theorem State.emits_log (s : State) (l : List OutMsg) : (s.emits l).log = s.log := rfl
@[simp] theorem State.emits_logBuf (s : State) (l : List OutMsg) : (s.emits l).logBuf = s.logBuf := rfl
@[simp] theorem State.emits_armed (s : State) (l : List OutMsg) : (s.emits l).armed = s.armed := rfl
@[simp] theorem State.emits_proving (s : State) (l : List OutMsg) : (s.emits l).proving = s.proving := rfl
@[simp] theorem State.emits_jobs (s : State) (l : List OutMsg) : (s.emits l).jobs = s.jobs := rfl
@[simp] theorem State.emits_tap (s : State) (l : List OutMsg) : (s.emits l).tap = s.tap := rfl
@[simp] theorem State.emits_opensSec (s : State) (l : List OutMsg) : (s.emits l).opensSec = s.opensSec := rfl
@[simp] theorem State.emits_opensAt (s : State) (l : List OutMsg) : (s.emits l).opensAt = s.opensAt := rfl
@[simp] theorem State.emits_recalAt (s : State) (l : List OutMsg) : (s.emits l).recalAt = s.recalAt := rfl
@[simp] theorem State.emits_loadReport (s : State) (l : List OutMsg) : (s.emits l).loadReport = s.loadReport := rfl
@[simp] theorem State.emits_attestReport (s : State) (l : List OutMsg) : (s.emits l).attestReport = s.attestReport := rfl
@[simp] theorem State.emits_causeLog (s : State) (l : List OutMsg) : (s.emits l).causeLog = s.causeLog := rfl
@[simp] theorem State.emits_frozenDigests (s : State) (l : List OutMsg) : (s.emits l).frozenDigests = s.frozenDigests := rfl
@[simp] theorem State.emits_frozenStale (s : State) (l : List OutMsg) : (s.emits l).frozenStale = s.frozenStale := rfl
@[simp] theorem State.emits_histogram (s : State) (l : List OutMsg) : (s.emits l).histogram = s.histogram := rfl
@[simp] theorem State.emits_fresh (s : State) (l : List OutMsg) : (s.emits l).fresh = s.fresh := rfl
@[simp] theorem State.emits_pending (s : State) (l : List OutMsg) : (s.emits l).pending = s.pending := rfl

/- setSession writes sessions. -/

@[simp] theorem State.setSession_grade (s : State) (q : Session) : (s.setSession q).grade = s.grade := rfl
@[simp] theorem State.setSession_power (s : State) (q : Session) : (s.setSession q).power = s.power := rfl
@[simp] theorem State.setSession_mstate (s : State) (q : Session) : (s.setSession q).mstate = s.mstate := rfl
@[simp] theorem State.setSession_obj (s : State) (q : Session) : (s.setSession q).obj = s.obj := rfl
@[simp] theorem State.setSession_uptimeMs (s : State) (q : Session) : (s.setSession q).uptimeMs = s.uptimeMs := rfl
@[simp] theorem State.setSession_logicalMap (s : State) (q : Session) : (s.setSession q).logicalMap = s.logicalMap := rfl
@[simp] theorem State.setSession_cores (s : State) (q : Session) : (s.setSession q).cores = s.cores := rfl
@[simp] theorem State.setSession_mem (s : State) (q : Session) : (s.setSession q).mem = s.mem := rfl
@[simp] theorem State.setSession_image (s : State) (q : Session) : (s.setSession q).image = s.image := rfl
@[simp] theorem State.setSession_streams (s : State) (q : Session) : (s.setSession q).streams = s.streams := rfl
@[simp] theorem State.setSession_steps (s : State) (q : Session) : (s.setSession q).steps = s.steps := rfl
@[simp] theorem State.setSession_ledger (s : State) (q : Session) : (s.setSession q).ledger = s.ledger := rfl
@[simp] theorem State.setSession_mirror (s : State) (q : Session) : (s.setSession q).mirror = s.mirror := rfl
@[simp] theorem State.setSession_ckpt (s : State) (q : Session) : (s.setSession q).ckpt = s.ckpt := rfl
@[simp] theorem State.setSession_windows (s : State) (q : Session) : (s.setSession q).windows = s.windows := rfl
@[simp] theorem State.setSession_storage (s : State) (q : Session) : (s.setSession q).storage = s.storage := rfl
@[simp] theorem State.setSession_pfc (s : State) (q : Session) : (s.setSession q).pfc = s.pfc := rfl
@[simp] theorem State.setSession_links (s : State) (q : Session) : (s.setSession q).links = s.links := rfl
@[simp] theorem State.setSession_joins (s : State) (q : Session) : (s.setSession q).joins = s.joins := rfl
@[simp] theorem State.setSession_fw (s : State) (q : Session) : (s.setSession q).fw = s.fw := rfl
@[simp] theorem State.setSession_log (s : State) (q : Session) : (s.setSession q).log = s.log := rfl
@[simp] theorem State.setSession_logBuf (s : State) (q : Session) : (s.setSession q).logBuf = s.logBuf := rfl
@[simp] theorem State.setSession_armed (s : State) (q : Session) : (s.setSession q).armed = s.armed := rfl
@[simp] theorem State.setSession_proving (s : State) (q : Session) : (s.setSession q).proving = s.proving := rfl
@[simp] theorem State.setSession_jobs (s : State) (q : Session) : (s.setSession q).jobs = s.jobs := rfl
@[simp] theorem State.setSession_tap (s : State) (q : Session) : (s.setSession q).tap = s.tap := rfl
@[simp] theorem State.setSession_opensSec (s : State) (q : Session) : (s.setSession q).opensSec = s.opensSec := rfl
@[simp] theorem State.setSession_opensAt (s : State) (q : Session) : (s.setSession q).opensAt = s.opensAt := rfl
@[simp] theorem State.setSession_recalAt (s : State) (q : Session) : (s.setSession q).recalAt = s.recalAt := rfl
@[simp] theorem State.setSession_loadReport (s : State) (q : Session) : (s.setSession q).loadReport = s.loadReport := rfl
@[simp] theorem State.setSession_attestReport (s : State) (q : Session) : (s.setSession q).attestReport = s.attestReport := rfl
@[simp] theorem State.setSession_causeLog (s : State) (q : Session) : (s.setSession q).causeLog = s.causeLog := rfl
@[simp] theorem State.setSession_frozenDigests (s : State) (q : Session) : (s.setSession q).frozenDigests = s.frozenDigests := rfl
@[simp] theorem State.setSession_frozenStale (s : State) (q : Session) : (s.setSession q).frozenStale = s.frozenStale := rfl
@[simp] theorem State.setSession_histogram (s : State) (q : Session) : (s.setSession q).histogram = s.histogram := rfl
@[simp] theorem State.setSession_fresh (s : State) (q : Session) : (s.setSession q).fresh = s.fresh := rfl
@[simp] theorem State.setSession_out (s : State) (q : Session) : (s.setSession q).out = s.out := rfl
@[simp] theorem State.setSession_pending (s : State) (q : Session) : (s.setSession q).pending = s.pending := rfl

@[simp] theorem State.emit_out (s : State) (m : OutMsg) : (s.emit m).out = s.out ++ [m] := rfl
@[simp] theorem State.emits_out (s : State) (l : List OutMsg) : (s.emits l).out = s.out ++ l := rfl
@[simp] theorem State.o_setCore (s : State) (p : Nat) (c : Core) (k : Nat) : (s.setCore p c).o k = s.o k := rfl
@[simp] theorem State.o_emit (s : State) (m : OutMsg) (k : Nat) : (s.emit m).o k = s.o k := rfl
@[simp] theorem State.o_emits (s : State) (l : List OutMsg) (k : Nat) : (s.emits l).o k = s.o k := rfl
@[simp] theorem State.o_setSession (s : State) (q : Session) (k : Nat) : (s.setSession q).o k = s.o k := rfl
@[simp] theorem State.core_put (s : State) (k v p : Nat) : (s.put k v).core p = s.core p := rfl
@[simp] theorem State.core_emit (s : State) (m : OutMsg) (p : Nat) : (s.emit m).core p = s.core p := rfl

end Sys2Proof.Machine
end

