-- ==== Sys2Proof/Laws/Core.lean ====
section
/-! SUPPORT. What the shared operations over cores and contexts do: who cites these need not unfold them. -/

namespace Sys2Proof.Machine

/-- A command of a core that runs acts on that core. -/
theorem State.onCore_up {s : State} {p : Nat} (h : s.coreUp p) (f : Core → Out) : s.onCore p f = f (s.core p) := by
  simp only [State.onCore]
  rw [if_neg (by have := h.1; omega), if_pos h.2]

/-- An instruction of a context that the control core takes runs, and the context has had its turn. -/
theorem State.control_takes {s : State} {p : Nat} {x : Fin 4} (h : s.takesInstr p x) (f : State → Ctx → State) :
    s.control p x f = .next (f (s.turn p x) (s.ctxAt p x)) := by
  rw [State.control, State.onCore_up h.1, if_neg (not_not_intro h.2.1), if_neg (by simp [h.2.2])]
  rfl

/-- A context set reads back. -/
theorem State.ctxAt_setCtx_self (s : State) (p : Nat) (x : Fin 4) (k : Ctx) (h : x.val < (s.core p).ctxs.length) :
    (s.setCtx p x.val k).ctxAt p x = k := by
  simp only [State.ctxAt, State.setCtx, State.core_setCore_self, Core.ctx, Core.setCtx]
  rw [List.getD_eq_getElem?_getD, List.getElem?_set_self (by omega)]
  rfl

/-- Setting a context leaves the others of its core alone. -/
theorem State.ctxAt_setCtx_ne (s : State) (p : Nat) {x y : Fin 4} (k : Ctx) (h : y ≠ x) :
    (s.setCtx p x.val k).ctxAt p y = s.ctxAt p y := by
  have hv : x.val ≠ y.val := fun e => h (Fin.ext e.symm)
  simp only [State.ctxAt, State.setCtx, State.core_setCore_self, Core.ctx, Core.setCtx]
  rw [List.getD_eq_getElem?_getD, List.getElem?_set_ne hv, ← List.getD_eq_getElem?_getD]

/-- Setting a context leaves every other core alone. -/
theorem State.core_setCtx_ne (s : State) {p q : Nat} (x : Nat) (k : Ctx) (h : q ≠ p) : (s.setCtx p x k).core q = s.core q :=
  State.core_setCore_ne h s _

/-- A turn at the control core moves the rotation alone (R59). -/
@[simp] theorem Core.ctx_served (c : Core) (x y : Nat) : (c.served x).ctx y = c.ctx y := rfl
@[simp] theorem State.ctxAt_turn (s : State) (p : Nat) (x y : Fin 4) : (s.turn p x).ctxAt p y = s.ctxAt p y := by
  simp only [State.ctxAt, State.turn, State.core_setCore_self, Core.ctx_served]
@[simp] theorem State.o_turn (s : State) (p : Nat) (x : Fin 4) (k : Nat) : (s.turn p x).o k = s.o k := rfl
@[simp] theorem State.mem_turn (s : State) (p : Nat) (x : Fin 4) : (s.turn p x).mem = s.mem := rfl

/-- Register g0 reads 0 whatever is written to it (R45). -/
@[simp] theorem Ctx.reg_zero (k : Ctx) : k.reg 0 = 0 := rfl

@[simp] theorem Ctx.setReg_zero (k : Ctx) (v : W32) : k.setReg 0 v = k := rfl

/-- A register written reads back. -/
theorem Ctx.reg_setReg_self (k : Ctx) {r : Fin 32} (h : r ≠ 0) (v : W32) : (k.setReg r v).reg r = v := by
  have hv : r.val ≠ 0 := fun e => h (Fin.ext e)
  simp [Ctx.reg, Ctx.setReg, hv]

/-- A write of a register leaves every other alone. -/
theorem Ctx.reg_setReg_ne (k : Ctx) {r q : Fin 32} (h : q ≠ r) (v : W32) : (k.setReg r v).reg q = k.reg q := by
  have hv : q.val ≠ r.val := fun e => h (Fin.ext e)
  simp only [Ctx.reg, Ctx.setReg]
  split
  · rfl
  · split
    · rfl
    · exact SMap.get_put_ne _ _ hv _ _

/-- A slot operation's command issues it. -/
theorem exec_slotCommand (s : State) (p : Nat) (op : SlotOp) (i : Instr) (h : slotCommand p op = some i) : exec i s = s.issueSlot p op := by
  unfold slotCommand at h
  split at h <;> first | (cases h; rfl) | cases h

end Sys2Proof.Machine
end

