-- ==== Sys2Proof/Laws/Memory.lean ====
section
/-! SUPPORT. Every operation over HBM and base store keeps the memories in canonical form, and the memories of reset have it. -/

namespace Sys2Proof.Machine

theorem State.memWf_iff (s : State) : s.memWf = true ↔
    Memory.wf s.mem.hbm = true ∧ Memory.wf s.mem.base = true := by
  simp [State.memWf]

/-- The memories of reset list nothing. -/
theorem State.memWf_reset : State.reset.memWf = true := by decide

@[simp] theorem State.memWf_bump64 (s : State) (k n : Nat) : (s.bump64 k n).memWf = s.memWf := rfl
@[simp] theorem State.memWf_put (s : State) (k v : Nat) : (s.put k v).memWf = s.memWf := rfl
@[simp] theorem State.memWf_cleanLine (s : State) (la : Nat) : (s.cleanLine la).memWf = s.memWf := rfl

@[simp] theorem State.memWf_poisonLine (s : State) (la : Nat) : (s.poisonLine la).memWf = s.memWf := by
  unfold State.poisonLine; split
  · rfl
  · split <;> rfl

/-- A state that differs in HBM only keeps the forms if its HBM has the form. -/
theorem State.memWf_of_hbm {s t : State} (h : s.memWf = true) (hb : Memory.wf t.mem.hbm = true) (hs : t.mem.base = s.mem.base) : t.memWf = true := by
  rw [State.memWf_iff] at h ⊢
  rw [hs]
  exact ⟨hb, h.2⟩

theorem State.memWf_flushEntry (s : State) (e : WcbEntry) (h : s.memWf = true) : (s.flushEntry e).memWf = true := by
  have key : ∀ (l : List Byte) (a : Nat) (w : List WcbEntry),
      ({ s with mem := { s.mem with hbm := Memory.write s.mem.hbm a l, wcb := w } } : State).memWf = true := fun l a w =>
    State.memWf_of_hbm h (Memory.wf_write l a ((State.memWf_iff s).1 h).1) rfl
  unfold State.flushEntry
  dsimp only
  split
  · rw [State.memWf_poisonLine, State.memWf_bump64]; exact key _ _ _
  · split
    · rw [State.memWf_cleanLine, State.memWf_bump64]; exact key _ _ _
    · rw [State.memWf_bump64]; exact key _ _ _

theorem State.memWf_foldl {α : Type} (f : State → α → State) (hf : ∀ t x, t.memWf = true → (f t x).memWf = true) (l : List α) (s : State)
    (h : s.memWf = true) : (l.foldl f s).memWf = true := by
  induction l generalizing s with
  | nil => exact h
  | cons x t ih => exact ih _ (hf _ _ h)

theorem State.memWf_flushWhere (s : State) (p : WcbEntry → Bool) (h : s.memWf = true) : (s.flushWhere p).memWf = true :=
  State.memWf_foldl _ State.memWf_flushEntry _ s h

theorem State.memWf_wcbEnter (s : State) (die line : Nat) (mask : BitVec 64) (data : Line) (poison : Bool) (h : s.memWf = true) :
    (s.wcbEnter die line mask data poison).memWf = true := by
  have older : (match s.pcEntries die (s.linePc die line) with
      | [] => s
      | o :: r => if 31 ≤ r.length then s.flushEntry o else s).memWf = true := by
    split
    · exact h
    · split
      · exact State.memWf_flushEntry _ _ h
      · exact h
  unfold State.wcbEnter
  split
  · exact h
  · exact older

theorem State.memWf_flushDue (s : State) (die pc : Nat) (due : WcbEntry → Bool) (h : s.memWf = true) : (s.flushDue die pc due).memWf = true :=
  State.memWf_foldl _ State.memWf_flushEntry _ s h

theorem State.memWf_wcbWrite (s : State) (die line : Nat) (mask : BitVec 64) (data : Line) (poison : Bool) (h : s.memWf = true) :
    (s.wcbWrite die line mask data poison).memWf = true := by
  have he := State.memWf_wcbEnter s die line mask data poison h
  unfold State.wcbWrite
  dsimp only
  split
  · exact he
  · exact State.memWf_flushDue _ _ _ _ he

theorem State.memWf_hbmWriteGo (k : Nat) (s : State) (a : Nat) (bytes : List Byte) (poison : Bool) (h : s.memWf = true) :
    (s.hbmWriteGo a bytes poison k).memWf = true := by
  induction k generalizing s a bytes with
  | zero => exact h
  | succ k ih =>
    unfold State.hbmWriteGo
    split
    · exact h
    · exact ih _ _ _ (State.memWf_wcbWrite _ _ _ _ _ _ h)

/-- A write of HBM keeps the forms. -/
theorem State.memWf_hbmWrite (s : State) (a : Nat) (bytes : List Byte) (poison : Bool) (h : s.memWf = true) :
    (s.hbmWrite a bytes poison).memWf = true := State.memWf_hbmWriteGo _ s a bytes poison h

/-- Making way for full writes keeps the forms. -/
theorem State.memWf_makeWay (s : State) (b n : Nat) (h : s.memWf = true) : (s.makeWay b n).memWf = true := by
  unfold State.makeWay
  split
  · exact h
  · refine State.memWf_foldl _ (fun t i ht => ?_) _ s h
    dsimp only
    have hf := State.memWf_foldl State.flushEntry State.memWf_flushEntry
      ((t.pcEntries (hbmDie b) (t.linePc (hbmDie b) (hbmLocal b / 64 + i))).takeWhile (fun e => decide (e.line ≠ hbmLocal b / 64 + i))) t ht
    exact State.memWf_of_hbm hf ((State.memWf_iff _).1 hf).1 rfl

/-- Zeroing HBM keeps the forms. -/
theorem State.memWf_hbmZero (s : State) (a n : Nat) (h : s.memWf = true) : (s.hbmZero a n).memWf = true := by
  unfold State.hbmZero
  dsimp only
  rw [State.memWf_bump64]
  have hm := State.memWf_makeWay s a n h
  exact State.memWf_of_hbm hm (Memory.wf_clear a n ((State.memWf_iff _).1 hm).1) rfl

/-- A copy within HBM keeps the forms. -/
theorem State.memWf_hbmCopy (s : State) (a b n : Nat) (h : s.memWf = true) : (s.hbmCopy a b n).memWf = true := by
  unfold State.hbmCopy
  dsimp only
  refine State.memWf_foldl _ (fun t x ht => by rw [State.memWf_poisonLine]; exact ht) _ _ ?_
  rw [State.memWf_bump64]
  have hm := State.memWf_makeWay s b n h
  have all : ∀ (l : List (Nat × Byte)) (m : SMap Byte), Memory.wf m = true →
      Memory.wf (l.foldl (fun m e => Memory.setByte m e.1 e.2) m) = true := by
    intro l
    induction l with
    | nil => intro m hm; exact hm
    | cons e t ih => intro m hm; exact ih _ (Memory.wf_setByte _ _ hm)
  exact State.memWf_of_hbm hm (all _ _ (Memory.wf_clear b n ((State.memWf_iff _).1 hm).1)) rfl

/-- A write of base store keeps the forms. -/
theorem State.memWf_baseWrite (s : State) (key : Nat) (bytes : List Byte) (poison : Bool) (h : s.memWf = true) :
    (s.baseWrite key bytes poison).memWf = true := by
  rw [State.memWf_iff] at h ⊢
  exact ⟨h.1, Memory.wf_write bytes key h.2⟩

end Sys2Proof.Machine
end

