-- ==== Sys2Proof/Laws/Writes.lean ====
section
/-! SUPPORT. What the shared operations of the storage writer and of the fixes do. -/

namespace Sys2Proof.Machine

/-- The write taken is the first that satisfies p; those before and after it stay in their order. -/
theorem takeWrite_some {p : StoreWrite → Bool} {l t : List StoreWrite} {w : StoreWrite} (h : takeWrite p l = some (w, t)) :
    p w = true ∧ ∃ a b, l = a ++ w :: b ∧ t = a ++ b ∧ ∀ x ∈ a, p x = false := by
  induction l generalizing t with
  | nil => cases h
  | cons x l ih =>
    simp only [takeWrite] at h
    split at h
    · rename_i hx
      cases h
      exact ⟨hx, [], l, rfl, rfl, by simp⟩
    · rename_i hx
      obtain ⟨r, hr, he⟩ := Option.map_eq_some_iff.mp h
      cases he
      obtain ⟨hw, a, b, rfl, hb, ha⟩ := ih hr
      exact ⟨hw, x :: a, b, rfl, by rw [hb]; rfl, by simpa using ⟨by simpa using hx, ha⟩⟩

/-- An answer that no write awaits changes nothing. -/
theorem State.answerWrite_none {s : State} {p : StoreWrite → Bool} (h : takeWrite p s.ckpt.writes = none) (f : State → StoreFor → State) :
    s.answerWrite p f = s := by
  simp only [State.answerWrite, h]

/-- Without a history region a fix waits for no pin. -/
theorem State.settleHeld_noHistory {s : State} (h : s.historyMib = 0) : s.settleHeld = s := by
  simp only [State.settleHeld, h, if_true]

end Sys2Proof.Machine
end

