-- ==== Sys2Proof/WellFormed.lean ====
section
/-! DEFINITION. Well-formed commands: every operand that numbers a unit of the module lies in the range that the largest grade has (R1-R6),
and every byte string that has a length of its own has it. A unit that the grade at hand leaves out is no matter of form: the meaning of the
command says what it meets. -/

namespace Sys2Proof

/-- Ethernet ports 0-3, interfaces 0 and 1 (R424). -/
def Source.wf : Source → Bool
  | .udp _ _ port iface => decide (port < 4) && decide (iface < 2)
  | .t1s _ => true

/-- A request comes through one of 64 windows, or none (R428). -/
def Req.wf (r : Req) : Bool := r.src.wf && match r.via with
  | none => true
  | some w => decide (w < 64)

/-- NSLICE is 1-2,048 (R67). -/
def AArgs.wf (a : AArgs) : Bool := decide (1 ≤ a.nslice ∧ a.nslice ≤ 2048)

/-- A message comes from one of six ports, or from the module itself. -/
def Msg.wf (m : Msg) : Bool := decide (m.port < 7)

/-- Payload bytes 16-247 of a flit (R300). -/
def Flit.wf (f : Flit) : Bool := decide (f.payload.length = 232)

/-- Windows 0-63, storage records 0-7 (R378, R428). -/
def Qp.wf : Qp → Bool
  | .window w => decide (w < 64)
  | .storage n => decide (n < 8)

def ScrubMem.wf : ScrubMem → Bool
  | .hbm stack => decide (stack < 8)
  | .baseStore die => decide (die < 4)
  | .coreStore p => decide (p < 576)

/-- Bridges 0-3, hub joins of dies 0-3, the expansion join (R272). -/
def Join.wf : Join → Bool
  | .bridge j => decide (j < 4)
  | .hub d => decide (d < 4)
  | .expansion => true

def Judgement.wf : Judgement → Bool
  | .spareFault p => decide (p < 576)
  | .returned | .waitingOnInput | .reproduced | .notJudged => true

/-- A temperature for each of four dies and eight stacks (R524). -/
def Sample.wf (v : Sample) : Bool := decide (v.dieMc.length = 4) && decide (v.hbmMc.length = 8)

def TripSensor.wf : TripSensor → Bool
  | .die d => decide (d < 4)
  | .hub => true
  | .stack n => decide (n < 8)

/-- A command is well formed. -/
def Instr.wf : Instr → Bool
  | .loadImage r _ _ | .unload r | .runSteps r _ | .stop r | .checkpoint r | .restore r _ _ _ | .enterMaintenance r | .leaveMaintenance r
  | .markSuspect r _ _ | .resetDomain r _ _ | .fenceCore r _ | .proveCore r _ | .linkReset r _ | .openWindow r _ _ _ _ _ _ _
  | .closeWindow r _ _ | .updateFirmware r _ _ | .activateFirmware r _ _ _ | .attest r _ | .enrollKey r _ _ _ _ | .revokeKey r _ _ _
  | .testPort r _ _ _ | .repairHbm r _ _ | .close r | .read r _ _ _ _ | .alertFlagsWrite r _ | .bgDeferWrite r _ | .mirrorReserveWrite r _
  | .ledgerReserveWrite r _ | .jobIdWrite r _ | .verifierEnableWrite r _ | .telemetryPeriodWrite r _ | .dimensionWrite r _ _
  | .alertEnableWrite r _ => r.wf
  | .openRequest src _ _ _ _ | .openProof src _ _ => src.wf
  | .write r _ _ _ _ value => r.wf && decide (value.length ≤ 1376)
  | .windowSend w bytes => decide (w < 64) && decide (bytes.length ≤ 1400)
  | .statusWrite r p _ | .vecFlagsWrite r p _ => r.wf && decide (p < 576)
  | .storageTargetWrite r n _ => r.wf && decide (n < 8)
  | .completionRouteWrite r slot _ => r.wf && decide (slot < 16)
  | .portEnableWrite r port _ => r.wf && decide (port < 6)
  | .regionWindowWrite w _ _ | .regionWindowRead w _ _ | .stepInputWrite w _ _ | .imageWindowAccess w _ _ _ _ => decide (w < 64)
  | .qpError q | .cnpReceived q | .rateRecoveryTick q | .ackTimeoutExpiry q => q.wf
  | .pfcFrameReceived port iface prio _ => decide (port < 4) && decide (iface < 2) && decide (prio < 8)
  | .arpRequest port iface _ | .neighborSolicitation port iface _ | .icmpEcho port iface _ _ _ | .pfcPauseExpiry port iface
    => decide (port < 4) && decide (iface < 2)
  | .ringConsumerReadDone slot _ | .sessionIdleExpiry slot | .challengeExpiry slot => decide (slot < 16)
  | .aluAdd p _ _ _ _ | .aluSub p _ _ _ _ | .aluAnd p _ _ _ _ | .aluOr p _ _ _ _ | .aluXor p _ _ _ _ | .aluSll p _ _ _ _ | .aluSrl p _ _ _ _
  | .aluSra p _ _ _ _ | .aluMul p _ _ _ _ | .aluMulhu p _ _ _ _ | .aluSlt p _ _ _ _ | .aluSltu p _ _ _ _ | .addi p _ _ _ _ | .andi p _ _ _ _
  | .ori p _ _ _ _ | .lui p _ _ _ | .lw p _ _ _ _ | .sw p _ _ _ _ | .lcs p _ _ _ _ | .beq p _ _ _ _ | .bne p _ _ _ _ | .blt p _ _ _ _
  | .bge p _ _ _ _ | .bltu p _ _ _ _ | .bgeu p _ _ _ _ | .jal p _ _ _ | .jalr p _ _ _ _ | .push p _ _ _ _ _ | .pushResume p _ | .waitsc p _ _ _
  | .waitscRelease p _ | .sigsc p _ _ | .stepend p _ | .stepTokenReturn p _ | .stepno p _ _ _ | .groupStart p | .groupBufferFill p
  | .bundleIssue p | .groupComplete p | .drain p _ _ _ | .arrayResultLanding p _ _ | .vecFma p _ | .vecMul p _ | .vecAdd p _ | .vecSub p _
  | .vecMax p _ | .vecMin p _ | .cast p _ _ _ _ _ | .div p _ | .sqrt p _ | .vload p _ _ _ | .vstore p _ _ _ | .vbank p _ _ _ _ | .update p _
  | .swatchEvaluate p | .loadCopy p _ | .amax p _ | .gather p _ | .loadStash p _ | .storeCopy p _ | .scatter p _ | .scatterAdd p _
  | .storeStash p _ | .streamSend p _ _ | .streamRecv p _ _ | .chain p _ _ | .commandComplete p _ _ | .commandTimeout p _ _ | .provingDue p
  | .provingComplete p _ | .fenceRemapComplete p | .suspectMarkExpiry p => decide (p < 576)
  | .mma p a | .arrayMax p a | .arrayMin p a => decide (p < 576) && a.wf
  | .softmaxF p _ rows | .softmaxB p _ rows | .layernormF p _ rows | .layernormB p _ rows | .rmsnormF p _ rows | .rmsnormB p _ rows
    => decide (p < 576) && decide (1 ≤ rows ∧ rows ≤ 65536)
  | .wcbIdleFlush die pc _ | .narrowEntryTimeout die pc | .narrowLineReturn die pc => decide (die < 4) && decide (pc < 128)
  | .patrolScrubRead m _ => m.wf
  | .halt m | .ready m | .grant m | .stopReport m | .target m | .resume m | .restoreEnd m | .mirrorOpen m
  | .mirrorBegin m | .mirrorGranule m | .mirrorEnd m | .mirrorAbort m | .mirrorAck m | .mirrorInvalid m | .mirrorRead m | .mirrorData m
  | .shardReport m | .restoreReport m => m.wf
  | .hbmRecalibration stack | .hbmRetrainComplete stack | .hbmStackFailure stack | .hbmRepairComplete stack => decide (stack < 8)
  | .streamUnitArrival _ _ _ | .streamCreditReturn _ | .stepStart | .replayStart | .quiesceComplete | .mirrorDeltaStart | .manifestInvalidated | .storageReadResponse _ _ | .gatherTimeout
  | .endpointRecord _ | .expansionDownTimeout | .expansionRailOvercurrent | .hubWatchdogExpiry | .hubReturn | .hubBootComplete | .bootWatchdog
  | .inputPowerGood _ | .inputPowerLoss | .rstInNAsserted | .rstInNReleased _ | .refclkLoss | .refclkReturn | .railOutOfRegulation _
  | .telemetryPeriod | .eventLogFlush | .bgDeferExpiry _ | .flashHousekeeping _ _ | .tapExtest _ | .tapIdcode | .tapSamplePreload _ | .tapBypass
  | .tapInternalScan _ | .mirrorGranuleSent | .shardBlockCoded | .imageLoadComplete | .firmwareWriteComplete _ | .commandLimitExpiry _
  | .activationHubReset | .tripLatchClear | .pllCalibration | .voltageCalibration => true
  | .vatToken vat _ | .replayComplete vat _ => decide (vat < 65536)
  | .suspectReplayJudged j => j.wf
  | .d2dUnitFrame j _ _ | .d2dCreditFrame j _ | .d2dRetrainComplete j _ | .d2dLinkUp j _ | .capabilityRecord j _
  | .negotiationTimeout j | .d2dLinkLoss j => j.wf
  | .storageWriteAck n | .storageWriteFailure n => decide (n < 8)
  | .flitData port f | .flitStreamCredit port f | .flitNull port f | .marker port f => decide (port < 6) && f.wf
  | .peerRecord port rec => decide (port < 6) && decide (rec.length = 232)
  | .torusAccept port | .torusRefuse port _ | .alignComplete port | .retrainTimeout port | .linkUpTimeout port => decide (port < 6)
  | .laneMap port map => decide (port < 6) && decide (map.length = 34)
  | .signalDetect port lanes => decide (port < 6) && decide (lanes < 2 ^ 34)
  | .equalizationComplete port trained => decide (port < 6) && trained.all (fun l => decide (l < 34))
  | .torusLaneFault port lane _ | .flapDecay port lane => decide (port < 6) && decide (lane < 34)
  | .lossOfSignal port lanesLost _ => decide (port < 6) && decide (lanesLost ≤ 34)
  | .d2dLaneFault j chan _ => j.wf && decide (chan < 12)
  | .dieWatchdogExpiry d | .diePllLoss d | .dieResetComplete d => decide (d < 4)
  | .thermalTripComparator sensor _ => sensor.wf
  | .sensorSample v => v.wf
  | .ethernetLinkUp port iface | .ethernetLinkDown port iface => decide (port < 5) && decide (iface < 2)

end Sys2Proof
end

