-- ==== Sys2Proof/Tests/Slice0.lean ====
section
/-! SUPPORT. Tests: a state that meets the hypotheses of each statement, clause by clause (theorems `wit_…`), ill-formed commands that
WellFormed refuses, and single steps with results worked out from the spec's text. -/

namespace Sys2Proof.Tests

open Sys2Proof Sys2Proof.Machine

-- One theorem at a time: each evaluates in the kernel, and a thread for each would exceed the memory limit.
set_option Elab.async false

/- A running module of one bound context on core 0. -/

def k0 : Ctx := { Ctx.empty with bound := true, running := true }
def c0 : Machine.Core := { Core.empty with ctxs := [k0, .empty, .empty, .empty] }
def s0 : State := { State.reset with mstate := .running, image := some default, cores := [(0, c0)] }
def onCore0 (c : Machine.Core) : State := { s0 with cores := [(0, c)] }
def onCtx0 (k : Ctx) : State := onCore0 { c0 with ctxs := [k, .empty, .empty, .empty] }

/-- An entry from (bit, value) pairs. -/
def fields (w : Nat) (l : List (Nat × Nat)) : BitVec w := l.foldl (fun a e => a ||| BitVec.ofNat w (e.2 * 2 ^ e.1)) 0

/- The control core. -/

theorem wit_coreUp : s0.coreUp 0 := ⟨by decide, by decide⟩
theorem wit_takesInstr : s0.takesInstr 0 0 := ⟨wit_coreUp, by decide⟩
theorem wit_takesInstr_last : { s0 with cores := [(575, c0)] }.takesInstr 575 0 := ⟨⟨by decide, by decide⟩, by decide⟩
theorem wit_registerFrame : (s0.core 0).ctxs.length = 4 := by decide

/-- The last word of a partition of four words. -/
def sMem : State := onCtx0 { k0 with bind := { k0.bind with dmemLen := 4 }, ranges := [{ start := 0, length := 64, kind := 0, initOffset := 0 }], g := [(1, 12)] }
theorem wit_loadStore : sMem.takesInstr 0 0 ∧ ((sMem.ctxAt 0 0).reg 1 + (0 : W16).signExtend 32).toNat = 12 ∧ 12 % 4 = 0 ∧
    4 * (sMem.ctxAt 0 0).bind.dmemBase ≤ 12 ∧ 12 + 4 ≤ 4 * ((sMem.ctxAt 0 0).bind.dmemBase + (sMem.ctxAt 0 0).bind.dmemLen) :=
  ⟨⟨⟨by decide, by decide⟩, by decide⟩, by decide⟩
/-- The same, its image having brought byte 12 with a parity hit. -/
def sMemHit : State := { sMem with cores := [(0, { (sMem.core 0) with dmemPoison := [12] })] }
theorem wit_loadHit : (sMem.core 0).dataHit 12 4 = false ∧ sMemHit.takesInstr 0 0 ∧ (sMemHit.core 0).dataHit 12 4 = true ∧
    (sMemHit.ctxAt 0 0).reg 1 = 12 := ⟨by decide, ⟨⟨by decide, by decide⟩, by decide⟩, by decide⟩
theorem wit_lcs : sMem.takesInstr 0 0 ∧ (sMem.scope (sMem.ctxAt 0 0)).reads 12 4 = true ∧ (sMem.core 0).csHit 12 4 = false :=
  ⟨⟨⟨by decide, by decide⟩, by decide⟩, by decide⟩

/-- A code range of two words: a branch to 4 stays in it, one to 8 does not. -/
def sCode : State := onCtx0 { k0 with bind := { k0.bind with codeLen := 2 } }
theorem wit_branch : sCode.takesInstr 0 0 ∧ (4 : W32).toNat < 4 * ((sCode.ctxAt 0 0).bind.codeBase + (sCode.ctxAt 0 0).bind.codeLen) ∧
    ¬ (8 : W32).toNat < 4 * ((sCode.ctxAt 0 0).bind.codeBase + (sCode.ctxAt 0 0).bind.codeLen) := ⟨⟨⟨by decide, by decide⟩, by decide⟩, by decide⟩

/-- A SEND of one unit on queue 3 with budget 1; the queue empty, at 256 entries, and stalled with room. -/
def eSend : Line := fields 512 [(32, 1), (128, 1), (160, 0xFFFFFFFF)]
def sPush : State := onCore0 { c0 with dmem := Memory.write [] 0 (leBytes 64 eSend.toNat) }
theorem wit_push_room : sPush.takesInstr 0 0 ∧ ((sPush.ctxAt 0 0).reg 0).toNat + 64 ≤ 32768 ∧ (sPush.core 0).dataHit 0 64 = false ∧
    ((sPush.ctxAt 0 0).queue 3).length < 256 ∧
    entryBad 3 (BitVec.ofNat 512 (ofLe (Memory.bytes (sPush.core 0).dmem 0 64))) = false :=
  ⟨⟨⟨by decide, by decide⟩, by decide⟩, by decide +kernel⟩
def sFull : State := onCtx0 { k0 with queues := [(3, List.replicate 256 eSend)] }
theorem wit_push_full : sFull.takesInstr 0 0 ∧ 256 ≤ ((sFull.ctxAt 0 0).queue 3).length := ⟨⟨⟨by decide, by decide⟩, by decide⟩, by decide +kernel⟩
def sStalled : State := onCtx0 { k0 with queues := [(3, List.replicate 255 eSend)], stall := .push 3 eSend }
theorem wit_push_resume : sStalled.coreUp 0 ∧ (sStalled.ctxAt 0 0).alive = true ∧ (sStalled.ctxAt 0 0).running = true ∧
    (sStalled.ctxAt 0 0).stall = .push 3 eSend ∧ ((sStalled.ctxAt 0 0).queue 3).length < 256 ∧ (sStalled.ctxAt 0 0).queue 3 ≠ [] :=
  ⟨⟨by decide, by decide⟩, by decide +kernel⟩

/-- Counter 0 reads 0: a wait for 0x8001 is satisfied and one for 0x8000 is not. -/
theorem wit_waitsc : ((0 : W16).toNat + 2 ^ 16 - (0x8001 : W16).toNat) % 2 ^ 16 < 2 ^ 15 ∧
    ¬ ((0 : W16).toNat + 2 ^ 16 - (0x8000 : W16).toNat) % 2 ^ 16 < 2 ^ 15 ∧ (s0.ctxAt 0 0).counter 0 = 0 := by decide
def sWaiting : State := onCtx0 { k0 with stall := .wait 0 0x8001 }
def sEnded : State := onCtx0 { k0 with stall := .stepend, queues := [(3, [])] }
theorem wit_releases : sWaiting.coreUp 0 ∧ sEnded.coreUp 0 ∧ (sWaiting.ctxAt 0 0).stall = .wait 0 0x8001 ∧
    (sEnded.ctxAt 0 0).stall = .stepend ∧ (sEnded.ctxAt 0 0).taken = [] ∧ (∀ e ∈ (sEnded.ctxAt 0 0).queues, e.2 = []) :=
  ⟨⟨by decide, by decide⟩, ⟨by decide, by decide⟩, by decide⟩

/- Bundles. -/

def g0 : Group := { (default : Group) with running := true, bundles := [0], descs := List.replicate 16 0, next := 1 }
def vAll (op : SlotOp) : State := onCore0 { c0 with group := some g0, issued := [op] }
def vFma : SlotOp := .vec 1 { vd := 31, va := 31, vb := 30, vc := 29, width := 0, rnd := 0, half := false }
theorem wit_nextSlot : (vAll vFma).nextSlot 0 g0 vFma := ⟨⟨by decide, by decide⟩, rfl, rfl⟩
theorem wit_notNext : s0.coreUp 0 ∧ (onCore0 { c0 with group := some g0 }).coreUp 0 ∧
    (onCore0 { c0 with group := some g0 } |>.core 0).issued.head? ≠ some vFma := ⟨⟨by decide, by decide⟩, ⟨by decide, by decide⟩, by decide⟩
theorem wit_four : 0 < c0.ctxs.length := by decide
theorem wit_banks : ∀ b ∈ c0.banks, b.poison = false := by decide
theorem wit_onlySlot (op : SlotOp) : (vAll op).onlySlot 0 g0 op :=
  ⟨⟨wit_coreUp.1, rfl⟩, rfl, rfl, rfl, rfl, wit_four, rfl, rfl, wit_banks⟩
theorem wit_slotCommands : (slotCommand 0 vFma).isSome = true ∧ (slotCommand 0 (.row 6 15 65536)).isSome = true ∧
    (10 : BitVec 4).toNat ≤ 10 := by decide


/-- An entry of one bundle at 0 with its descriptors at 512, signalling counter 15, and the bundle, all NOP and LAST. -/
def eGroup : Line := fields 512 [(6, 1), (7, 15), (32, 1), (128, 512)]
def nopLast : BitVec 128 := fields 128 [(119, 1)]
def gNop : Group := { (default : Group) with entry := eGroup, bundles := [nopLast], descs := List.replicate 16 0 }
def sFill : State := onCtx0 { k0 with queues := [(2, [eGroup])] }
theorem wit_fill : sFill.coreUp 0 ∧ (sFill.core 0).ctxs.length = 4 ∧ (sFill.core 0).nextGroup = none ∧ qBundle ∉ (sFill.core 0).halted ∧
    (sFill.core 0).fillFor = some 0 ∧ (sFill.core 0).group = none ∧ ((sFill.core 0).ctx 0).queue qBundle = [eGroup] ∧ (sFill.core 0).csPoison = [] :=
  ⟨⟨by decide, by decide⟩, by decide +kernel⟩
def sStart : State := onCore0 { c0 with ctxs := [{ k0 with queues := [(2, [eGroup])] }, .empty, .empty, .empty], nextGroup := some gNop, busy := [(0, 7)], cycle := 7 }
/-- The filled group's entry is no longer at the head of its queue. -/
def sStale : State := onCore0 { c0 with ctxs := [k0, .empty, .empty, .empty], nextGroup := some gNop }
theorem wit_start : sStart.coreUp 0 ∧ (sStart.core 0).nextGroup = some gNop ∧ (sStart.core 0).group = none ∧ (sStart.core 0).fillUsable gNop = true ∧ (sStale.core 0).nextGroup = some gNop ∧
    (sStale.core 0).fillUsable gNop = false ∧ (sStart.core 0).pend = [] ∧
    qBundle ∉ (sStart.core 0).halted ∧ gNop.ctx < 4 ∧ ((sStart.core 0).ctx gNop.ctx).alive = true ∧
    ((sStart.core 0).ctx gNop.ctx).queue qBundle = [gNop.entry] ∧ (∀ u ∈ gNop.units, SMap.get 0 u (sStart.core 0).busy ≤ (sStart.core 0).cycle) :=
  ⟨⟨by decide, by decide⟩, by decide +kernel⟩
def kGroup : Ctx := { k0 with taken := [(2, (eGroup, 0))] }
def sIssue : State := onCore0 { c0 with ctxs := [kGroup, .empty, .empty, .empty], group := some { gNop with running := true } }
theorem wit_issue : sIssue.coreUp 0 ∧ (sIssue.core 0).group = some { gNop with running := true } ∧ gNop.trapped = false ∧
    gNop.next < gNop.bundles.length ∧ gNop.due ≤ (sIssue.core 0).cycle ∧ (sIssue.core 0).issued = [] ∧ sIssue.groupLate 0 { gNop with running := true } = false ∧
    bundleTraps (sIssue.scope ((sIssue.core 0).ctx gNop.ctx)) gNop.bundles gNop.descs (entVbase gNop.entry) gNop.next = false :=
  ⟨⟨by decide, by decide⟩, by decide +kernel⟩
def sGroupEnd : State := onCore0 { c0 with ctxs := [kGroup, .empty, .empty, .empty], group := some { gNop with running := true, next := 1 } }
theorem wit_groupEnd : sGroupEnd.coreUp 0 ∧ (sGroupEnd.core 0).group = some { gNop with running := true, next := 1 } ∧
    gNop.bundles.length ≤ 1 ∧ (sGroupEnd.core 0).issued = [] ∧ (sGroupEnd.core 0).pend = [] ∧ (sGroupEnd.core 0).flight = [] ∧
    sGroupEnd.groupLate 0 { gNop with running := true, next := 1 } = false ∧
    ((sGroupEnd.core 0).ctx 0).alive = true ∧ ((sGroupEnd.core 0).ctx 0).current qBundle = some (eGroup, 0) :=
  ⟨⟨by decide, by decide⟩, by decide +kernel⟩

def wBank : PendWrite := { at_ := 3, order := 0, what := .bank 1 1 [(4095, 1)] false }
def sLand : State := onCore0 { c0 with pend := [wBank] }
theorem wit_arrayResult : sLand.coreUp 0 ∧ (sLand.core 0).pend = [wBank] ∧ (sLand.core 0).flight = [] ∧ (sLand.core 0).issued = [] ∧
    (sLand.core 0).banks.length = 4 ∧ (sLand.core 0).cycle < 3 ∧ (sLand.core 0).clearTo 3 = true := ⟨⟨by decide, by decide⟩, by decide⟩

/-- Two captured slices of one step; empty ones, which agree. -/
def sw0 : Swatch := { step := 1, ctx := 0, desc := 0, nslice := 1, slice := 0, left := [], right := [], leftBs := [], rightBs := [], sums := [] }
def sSwatch : State := onCore0 { c0 with swatches := [sw0, sw0] }
theorem wit_swatch : sSwatch.coreUp 0 ∧ (sSwatch.core 0).swatches = [sw0, sw0] ∧ (∃ v ∈ [sw0], v.step = sw0.step) :=
  ⟨⟨by decide, by decide⟩, by decide⟩

/-- Writes of cycles 1 and 2, and of one cycle. -/
def cLand (w1 w2 : PendWrite) : Machine.Core := { Core.empty with pend := [w1, w2] }
def wCs (at_ order : Nat) (b : Byte) : PendWrite := { at_ := at_, order := order, what := .cs 64 [b] false }
theorem wit_laterLanding : (cLand (wCs 2 0 1) (wCs 2 1 2)).flight = [] ∧ [(1 : Byte)].length = [(2 : Byte)].length ∧
    (cLand (wCs 2 0 1) (wCs 2 1 2)).cycle < 2 ∧ 2 ≤ (cLand (wCs 2 0 1) (wCs 2 1 2)).cycle + 2 := by decide

/- The engines. One work region of 1 MiB on die 0, one stash region after it; descriptors of 16 FP32 elements at 64 (HBM) and 128 (core
store), of one index at 192; data from 1,024 on. -/

def rWork : Region := { num := 0, kind := rkWork, baseCached := false, perm := 3, die := 0, sizeMib := 1, owner := 0, addr := 0 }
def rStash : Region := { num := 1, kind := rkStash, baseCached := false, perm := 3, die := 0, sizeMib := 1, owner := 0, addr := 1048576 }
def dScale : Scale := { tensor := 5, fmt := fE4M3, mode := smPresent, mx := false, sr := false, histLen := 0, margin := 0, fixedExp := 0 }
def imEng : Image := { (default : Image) with regions := [rWork, rStash], vats := [{ (default : Vat) with num := 0 }], scales := [dScale], cells := [{ tensor := 5, lcore := 0, cell := 2048 }], stashes := [{ num := 0, srcFmt := fFP32, mode := shLossless, region := 1 }] }
def desc (base space n0 idx : Nat) : Line := fields 512 [(0, base), (48, 1 - idx), (53, space), (59, idx), (64, n0 - 1)]
def csEng : SMap Byte :=
  Memory.write (Memory.write (Memory.write [] 64 (leBytes 64 (desc 0 spHbm 16 0).toNat)) 128 (leBytes 64 (desc 1024 spCore 16 0).toNat)) 192
    (leBytes 64 (desc 512 spCore 1 1).toNat)
/-- An entry of a kind with PERM 0-4, its memory, core and index descriptors and its declaration. -/
def eLs (kind m c i decl : Nat) : Line :=
  fields 512 [(32, 1), (128, m), (160, c), (192, decl), (224, i), (260, kind), (275, 1), (278, 2), (281, 3), (284, 4)]
def kEng : Ctx := { k0 with ranges := [{ start := 0, length := 4096, kind := rgStaging, initOffset := 0 }, { start := 0, length := 4096, kind := rgWork, initOffset := 0 }] }
def sEng (q : Nat) (l : Line) : State :=
  { onCore0 { c0 with cs := csEng, ctxs := [{ kEng with queues := [(q, [l])] }, .empty, .empty, .empty] } with image := some imEng }
/-- The command that the entry of sEng starts. -/
def cmdOf (q : Nat) (l : Line) : Option LsCmd := match (sEng q l).lsCmd ((sEng q l).eng 0 0 q) l with
  | .ok c => some c
  | .fault _ _ => none
def cmdOf! (q : Nat) (l : Line) : LsCmd := (cmdOf q l).getD ⟨0, ⟨0, 0, 0, 0, 0, 0, false, 0, false⟩, ⟨0, 0, none⟩, ⟨0, 0, none⟩, 0⟩
/-- The run of a command is one that the statement speaks of. -/
def goodRun (q : Nat) (l : Line) (r : Run) : Bool :=
  decide (r.fault = none) && decide (r.s.mem.overflow = []) && decide ((r.s.ctxAt 0 0).current q = some (l, 0))

def eLoadCopy : Line := eLs 0 64 128 0 0xFFFFFFFF
theorem wit_loadCopy : (sEng 0 eLoadCopy).startsCmd 0 0 0 lkCopy eLoadCopy (cmdOf! 0 eLoadCopy) State.copyBad (fun _ _ => []) := by
  refine ⟨⟨by decide, by decide⟩, ?_, ?_, ?_, ?_, ?_, ?_, ?_, ?_, ?_, by rw [show State.stateGranules _ _ = [] from by decide +kernel]; rfl⟩ <;> decide +kernel
def eLoadStash : Line := eLs 5 0 128 0 0
theorem wit_loadStash : (sEng 0 eLoadStash).startsCmd 0 0 0 lkStash eLoadStash (cmdOf! 0 eLoadStash) State.stashBad (fun _ _ => []) := by
  refine ⟨⟨by decide, by decide⟩, ?_, ?_, ?_, ?_, ?_, ?_, ?_, ?_, ?_, by rw [show State.stateGranules _ _ = [] from by decide +kernel]; rfl⟩ <;> decide +kernel
def eStoreCopy : Line := eLs 0 64 128 0 0xFFFFFFFF
theorem wit_storeCopy : (sEng 1 eStoreCopy).startsCmd 0 0 1 lkCopy eStoreCopy (cmdOf! 1 eStoreCopy) State.copyBad (fun _ c => c.dst.spans) := by
  refine ⟨⟨by decide, by decide⟩, ?_, ?_, ?_, ?_, ?_, ?_, ?_, ?_, ?_, by rw [show State.stateGranules _ _ = [] from by decide +kernel]; rfl⟩ <;> decide +kernel
def eScatter : Line := eLs 3 64 128 192 0xFFFFFFFF
theorem wit_scatter : (sEng 1 eScatter).startsCmd 0 0 1 lkScatter eScatter (cmdOf! 1 eScatter) State.indexBad State.unitSpans := by
  refine ⟨⟨by decide, by decide⟩, ?_, ?_, ?_, ?_, ?_, ?_, ?_, ?_, ?_, by rw [show State.stateGranules _ _ = [] from by decide +kernel]; rfl⟩ <;> decide +kernel
def eScatterAdd : Line := eLs 4 64 128 192 0xFFFFFFFF
theorem wit_scatterAdd : (sEng 1 eScatterAdd).startsCmd 0 0 1 lkScatterAdd eScatterAdd (cmdOf! 1 eScatterAdd) State.addBad State.unitSpans := by
  refine ⟨⟨by decide, by decide⟩, ?_, ?_, ?_, ?_, ?_, ?_, ?_, ?_, ?_, by rw [show State.stateGranules _ _ = [] from by decide +kernel]; rfl⟩ <;> decide +kernel
def eStoreStash : Line := eLs 5 0 128 0 0
theorem wit_storeStash : (sEng 1 eStoreStash).startsCmd 0 0 1 lkStash eStoreStash (cmdOf! 1 eStoreStash) State.stashBad State.stashSpans := by
  refine ⟨⟨by decide, by decide⟩, ?_, ?_, ?_, ?_, ?_, ?_, ?_, ?_, ?_, by rw [show State.stateGranules _ _ = [] from by decide +kernel]; rfl⟩ <;> decide +kernel
def eGather : Line := eLs 2 64 128 192 0xFFFFFFFF
theorem wit_gather : (sEng 0 eGather).startsCmd 0 0 0 lkGather eGather (cmdOf! 0 eGather) State.indexBad (fun _ _ => []) := by
  refine ⟨⟨by decide, by decide⟩, ?_, ?_, ?_, ?_, ?_, ?_, ?_, ?_, ?_, by rw [show State.stateGranules _ _ = [] from by decide +kernel]; rfl⟩ <;> decide +kernel
def eAmax : Line := eLs 1 64 0 0 5
theorem wit_amax : (sEng 0 eAmax).startsCmd 0 0 0 lkAmax eAmax (cmdOf! 0 eAmax) State.amaxBad (fun _ _ => []) := by
  refine ⟨⟨by decide, by decide⟩, ?_, ?_, ?_, ?_, ?_, ?_, ?_, ?_, ?_, by rw [show State.stateGranules _ _ = [] from by decide +kernel]; rfl⟩ <;> decide +kernel
/-- The state in which an indexed command's elements move: its lines have gone through the cache. -/
def runs! (q : Nat) (l : Line) : State :=
  let u := (sEng q l).engineTakes 0 0 q
  u.cacheSpans (cmdOf! q l).e (u.unitSpans (cmdOf! q l))
theorem wit_copyRuns : goodRun 0 eLoadCopy (((sEng 0 eLoadCopy).engineTakes 0 0 0).copyRun (cmdOf! 0 eLoadCopy) .rne) = true ∧
    ((sEng 0 eLoadCopy).engineTakes 0 0 0).casterOf (cmdOf! 0 eLoadCopy) = some .rne := by decide +kernel
theorem wit_storeCopyRuns : goodRun 1 eStoreCopy (((sEng 1 eStoreCopy).engineTakes 0 0 1).copyRun (cmdOf! 1 eStoreCopy) .rne) = true ∧
    ((sEng 1 eStoreCopy).engineTakes 0 0 1).casterOf (cmdOf! 1 eStoreCopy) = some .rne := by decide +kernel
theorem wit_stashRuns : goodRun 0 eLoadStash (((sEng 0 eLoadStash).engineTakes 0 0 0).stashRun (cmdOf! 0 eLoadStash)) = true ∧
    goodRun 1 eStoreStash (((sEng 1 eStoreStash).engineTakes 0 0 1).stashRun (cmdOf! 1 eStoreStash)) = true := by decide +kernel
theorem wit_scatterRuns : goodRun 1 eScatter (((sEng 1 eScatter).engineTakes 0 0 1).scatterGo (cmdOf! 1 eScatter) .rne 1 0) = true ∧
    ldCount (cmdOf! 1 eScatter).idx = 1 ∧ ((sEng 1 eScatter).engineTakes 0 0 1).casterOf (cmdOf! 1 eScatter) = some .rne := by decide +kernel
theorem wit_scatterAddRuns : goodRun 1 eScatterAdd ((runs! 1 eScatterAdd).addGo (cmdOf! 1 eScatterAdd) 1 0) = true ∧
    ldCount (cmdOf! 1 eScatterAdd).idx = 1 := by decide +kernel
theorem wit_gatherRuns : (cmdOf! 0 eGather).narrow = false ∧ (runs! 0 eGather).casterOf (cmdOf! 0 eGather) = some .rne ∧
    (((sEng 0 eGather).engineTakes 0 0 0).gatherUnits (cmdOf! 0 eGather) 1 0).2 = none ∧
    goodRun 0 eGather ((runs! 0 eGather).moveAll (cmdOf! 0 eGather).e (cmdOf! 0 eGather).dst .rne (lsIndexBase (cmdOf! 0 eGather).l)
      (fun _ n => gatherEl (cmdOf! 0 eGather).mem.d (((sEng 0 eGather).engineTakes 0 0 0).gatherUnits (cmdOf! 0 eGather) 1 0).1 (0, 4) n)) = true := by
  decide +kernel
theorem wit_amaxRuns : ((sEng 0 eAmax).core 0).runningKind 0 lkAmax = none ∧ ((sEng 0 eAmax).engineTakes 0 0 0).declOf eAmax = some dScale ∧
    ¬ (dScale.mode = smHistory ∧ ((sEng 0 eAmax).engineTakes 0 0 0).window dScale (cmdOf! 0 eAmax).e.n ≠ []) ∧
    (((sEng 0 eAmax).engineTakes 0 0 0).measure (cmdOf! 0 eAmax)).1.fault = none ∧
    (((sEng 0 eAmax).engineTakes 0 0 0).measure (cmdOf! 0 eAmax)).1.s.maxChain 5 = none ∧
    (let r := ((sEng 0 eAmax).engineTakes 0 0 0).measure (cmdOf! 0 eAmax)
     let q := r.1.s.scalePair dScale r.2
     goodRun 0 eAmax ⟨q.2.putPair (cmdOf! 0 eAmax).e 5 q.1, none⟩ = true) := by decide +kernel

/- Completion, timeout and the stream ports. Stream 1 goes from port 0 of logical core 0 to port 0 of logical core 1, stream 2 back. -/

def st1 : StreamD := { num := 1, src := 0, dst := 2, cls := 0, journal := false, credits := 4 }
def st2 : StreamD := { num := 2, src := 2, dst := 0, cls := 0, journal := false, credits := 4 }
def chMax : ChainD := { (default : ChainD) with op := coMax, mode := cmFp32 }
def imStr : Image := { (default : Image) with streams := [st1, st2], chains := [chMax] }
def bk1 : Stream := { (default : Stream) with num := 1, credits := 1, flying := [(7, true)], share := [(5, false)], returning := 2 }
def bk2 : Stream := { (default : Stream) with num := 2, credits := 4, share := [(6, false)] }
def kStr : Ctx := { k0 with ranges := [{ start := 0, length := 4096, kind := rgWork, initOffset := 0 }] }
def sStr (l : Line) : State :=
  { onCore0 { c0 with ctxs := [{ kStr with taken := [(3, (l, 0))] }, .empty, .empty, .empty] } with image := some imStr, streams := [bk1, bk2] }
/-- A stream entry: IN, OUT, OP (SEND 0, RECV 1, CHAIN 2), ROLE 0, one unit, signalling counter 3. -/
def eStr (in_ out op : Nat) : Line := fields 512 [(6, 1), (7, 3), (32, 1), (128, in_), (160, out), (292, op)]
def sSend : State := sStr (eStr noneField 1 0)
def sRecv : State := sStr (eStr 2 noneField 1)
def sChain : State := sStr (eStr noneField 1 2)
theorem wit_send : sSend.coreUp 0 ∧ (sSend.ctxAt 0 0).alive = true ∧ 3 ∉ (sSend.core 0).halted ∧
    (sSend.ctxAt 0 0).current 3 = some (eStr noneField 1 0, 0) ∧ 0 < stCount (eStr noneField 1 0) ∧ stOp (eStr noneField 1 0) = 0 ∧
    sSend.streamOut 0 0 0 (eStr noneField 1 0) = some st1 ∧ sSend.readUnit (sSend.eng 0 0 3) (stLocalAddr (eStr noneField 1 0) 0) = some (0, false) ∧
    (sSend.sendUnit 0 0 0 st1 (0, false) false).isSome = true := ⟨⟨by decide, by decide⟩, by decide +kernel⟩
theorem wit_recv : sRecv.coreUp 0 ∧ (sRecv.ctxAt 0 0).current 3 = some (eStr 2 noneField 1, 0) ∧ stOp (eStr 2 noneField 1) = 1 ∧
    stFwd (eStr 2 noneField 1) = false ∧ sRecv.streamIn 0 0 0 (eStr 2 noneField 1) = some st2 ∧
    (sRecv.takeUnit 0 st2).map (fun e => e.1) = some (6, false) ∧
    sRecv.mapped (sRecv.eng 0 0 3) spCore (stOutAt (eStr 2 noneField 1) 0) 64 true = true := ⟨⟨by decide, by decide⟩, by decide +kernel⟩
theorem wit_chain :
    let e := sChain.eng 0 0 3
    let m := sChain.setChainBuf e { ((sChain.ctxAt 0 0).chainBuf 3) with got := [], acc := [], toSend := [(0, false)] }
    sChain.coreUp 0 ∧ stOp (eStr noneField 1 2) = 2 ∧ stRole (eStr noneField 1 2) = roleFirst ∧ sChain.chainBad e (eStr noneField 1 2) = false ∧
    sChain.chainD? (stChain (eStr noneField 1 2)) = some chMax ∧ chMax.op ≠ coSum ∧ ((sChain.ctxAt 0 0).chainBuf 3).toSend = [] ∧
    ((sChain.ctxAt 0 0).chainBuf 3).got = [] ∧ sChain.readUnit e (stLocalAddr (eStr noneField 1 2) 0) = some (0, false) ∧
    ((m.core 0).ctx 0).alive = true ∧ m.streamOut 0 0 0 (eStr noneField 1 2) = some st1 ∧ (m.sendUnit 0 0 0 st1 (0, false) false).isSome = true :=
  ⟨⟨by decide, by decide⟩, by decide +kernel⟩
theorem wit_streamBook : sSend.streamD? st1.num = some st1 ∧ st1.num < 2 ^ 32 ∧ sSend.book? st1.num = some bk1 ∧ bk1.num = st1.num ∧
    epType st1.src = epCore ∧ epType st1.dst = epCore ∧ bk1.flying = [(7, true)] ∧ st1.journal = false ∧ sSend.mayArrive st1 = true ∧ 0 < bk1.returning ∧
    sSend.replayOf 0 = none ∧ (sSend.sendUnit 0 0 0 st1 (9, false) true).isSome = true ∧ bk1.again = [] ∧
    (sSend.takeUnit 1 st1).map (fun e => e.1) = some (5, false) := by decide +kernel

/-- A SEND whose one unit is gone, and one that waits for counter 0 to reach 1. -/
def sSent : State := onCtx0 { k0 with taken := [(4, (eStr noneField 1 0, 1))] }
theorem wit_complete : sSent.coreUp 0 ∧ (sSent.core 0).ctxs.length = 4 ∧ 4 ≠ qBundle ∧ (sSent.ctxAt 0 0).alive = true ∧
    (sSent.ctxAt 0 0).current 4 = some (eStr noneField 1 0, 1) ∧ cmdTotal 4 (eStr noneField 1 0) ≤ 1 := ⟨⟨by decide, by decide⟩, by decide +kernel⟩
def sLate : State := onCtx0 { k0 with queues := [(4, [fields 512 [(11, 1), (16, 1), (32, 1)]])] }
/-- A group whose next bundle is due in cycle 9, past its budget of 1. -/
def sLateGroup : State := onCore0 { c0 with ctxs := [kGroup, .empty, .empty, .empty], group := some { gNop with running := true }, cycle := 9 }
theorem wit_timeout : sLate.coreUp 0 ∧ sLateGroup.coreUp 0 ∧ (sLate.core 0).ctxs.length = 4 ∧ sLate.waitRuns 0 0 4 = true ∧ sSend.runRuns 0 0 3 = true ∧
    4 ∉ (sLate.core 0).halted ∧ sLateGroup.runRuns 0 0 qBundle = true ∧ (sLateGroup.core 0).halted = [] ∧
    (sLateGroup.core 0).group = some { gNop with running := true } :=
  ⟨⟨by decide, by decide⟩, ⟨by decide, by decide⟩, by decide +kernel⟩

/- The life of a step. Logical core 0 is on core 0; the root vat 0 is the only one, and a segment. -/

def vt0 : Vat := { (default : Vat) with num := 0, segment := true }
def bd0 : Bind := { (default : Bind) with vat := 0, codeBase := 2, codeLen := 2, entry := 1 }
def imOne : Image := { (default : Image) with lcores := 1, vats := [vt0], binds := [bd0] }
def kOne : Ctx := { k0 with bind := bd0 }
def rec (n : Nat) (st : StepSt) : StepRec := { newStep n 1 none with st := st, started := st ≠ .pending }
/-- A running job with its steps. -/
def sSteps (l : List StepRec) : State :=
  { onCore0 { c0 with ctxs := [{ kOne with running := false }, .empty, .empty, .empty] } with
      image := some imOne, logicalMap := [(0, 1)], steps := { Steps.empty with list := l, runEnd := some 2 } }
theorem wit_stepStart : (sSteps [rec 1 .pending]).nextPending = some (rec 1 .pending) ∧ (sSteps [rec 1 .pending]).step? 1 = some (rec 1 .pending) ∧
    (sSteps [rec 1 .pending]).mayStart (rec 1 .pending) = true ∧ (sSteps [rec 1 .pending]).journalSpace 1 = true ∧
    (sSteps [rec 1 .pending]).cleanWrites ∧ max 1 (sSteps [rec 1 .pending]).lastStarted < 2 ∧
    0 < (sSteps [rec 1 .pending]).imageLcores ∧ (sSteps [rec 1 .pending]).lcore? 0 = some 0 ∧ ((sSteps [rec 1 .pending]).ctxAt 0 0).bound = true ∧
    (sSteps [rec 1 .pending]).runReaches 1 ((sSteps [rec 1 .pending]).ctxAt 0 0).bind.vat := by
  unfold State.cleanWrites State.runReaches; decide +kernel
/-- A host input that nobody has written. -/
def sHeld : State := { sSteps [rec 1 .pending] with image := some { imOne with journal := [{ isInput := true, id := 0, target := 0, bytes := 64 }] } }
theorem wit_stepHeld : sHeld.nextPending = some (rec 1 .pending) ∧ sHeld.mayStart (rec 1 .pending) = true ∧ sHeld.journalSpace 1 = false ∧
    (rec 1 .pending).waited = false := by decide +kernel

/-- Two vats, the second a child of the first; neither has contexts of its own that still run. -/
def imTwo : Image := { imOne with vats := [{ vt0 with segment := false }, { vt0 with num := 1, parent := 0 }], binds := [{ bd0 with vat := 1 }] }
def sTwo : State := { sSteps [rec 1 .running] with image := some imTwo, cores := [] }
theorem wit_vatFirst : sTwo.hubUp = true ∧ sTwo.step? 1 = some (rec 1 .running) ∧ (sTwo.vat? 1).isSome = true ∧ (rec 1 .running).st = .running ∧
    (rec 1 .running).tokens.contains 1 = false ∧ sTwo.vatDone (rec 1 .running) 1 = true ∧
    (∃ w ∈ sTwo.vats, w.num ≠ 1 ∧ (rec 1 .running).tokens.contains w.num = false) := by decide +kernel
def sLast : State := { sSteps [rec 1 .running] with cores := [] }
/-- The module at (1, 0, 0) of a job of two. -/
def sLastChild : State := { sLast with obj := [(0x102101, 1), (0x700601, 2), (0xB00004, 1)] }
theorem wit_vatLastChild : sLastChild.step? 1 = some (rec 1 .running) ∧ sLastChild.vatDone (rec 1 .running) 0 = true ∧
    sLastChild.audited 1 = none ∧ sLastChild.o kDecisionMode = 0 ∧ sLastChild.isRoot = false ∧ sLastChild.o kLastGranted < 1 := by decide +kernel
theorem wit_vatLast : sLast.hubUp = true ∧ sLast.step? 1 = some (rec 1 .running) ∧ (sLast.vat? 0).isSome = true ∧
    sLast.vatDone (rec 1 .running) 0 = true ∧ (∀ w ∈ sLast.vats, w.num = 0 ∨ (rec 1 .running).tokens.contains w.num = true) ∧
    sLast.audited 1 = none ∧ (rec 1 .running).marks = [] ∧ sLast.steps.rollback = none ∧ sLast.o kDecisionMode = 0 ∧ sLast.isRoot = true ∧
    sLast.children = [] ∧ sLast.steps.list = [rec 1 .running] ∧ (∀ g ∈ sLast.historyGranules, sLast.pinWait g = .none) ∧ (rec 1 .running).n = sLast.lastFixed + 1 ∧ (rec 1 .running).swatchOwing = [] := by
  decide +kernel

/-- Granule 7 was written by step 1, granule 8 by none. -/
def sGran : State := { sSteps [rec 1 .provisional] with mem := { Mem.empty with gran := [(7, { (default : Gran) with writer := some 1 })] } }
theorem wit_slots : SMap.sorted sGran.mem.gran = true ∧ (∀ im, sGran.image = some im → 7 < sGran.historyBase ∨ sGran.historyBase + im.historyMib ≤ 7) ∧
    (sGran.gran 7).writer = some 1 ∧ (sGran.gran 8).writer ≠ some 1 := by
  refine ⟨by decide, ?_, by decide, by decide⟩
  intro im h
  have : im = imOne := (Option.some.inj h).symm
  subst this
  decide

/- Replays and recovery. Core 1 is a spare of die 0; or it serves the replay of segment 0 in step 1 and has returned its token. -/

def rp (w : Which) (run : Bool) : Replay := { newReplay 1 0 w with running := run, cores := if run then [(0, 1)] else [] }
def sSpare : State := sSteps [rec 1 .checking] |>.setCoreState 1 csSpare
def sQueued : State := { sSpare with ledger := { Ledger.empty with queue := [rp .first false] } }
theorem wit_replayStart : sQueued.hubUp = true ∧ sQueued.headReplay = some (rp .first false) ∧ sQueued.areaFree 0 = true ∧ sQueued.copyBusy 0 = false ∧
    assignCores (sQueued.freeSpares (sQueued.usedFirst (rp .first false))) [] (sQueued.coresOf 0) = some [(0, 1)] ∧ sQueued.cleanWrites := by
  unfold State.cleanWrites; decide +kernel
/-- The replay on core 1, its context having returned its token; segment 9 still waits. -/
def kDone : Ctx := { kOne with running := false, step := 1 }
def sReplay (w : Which) (verdicts : List (Nat × Nat × Verdict)) : State :=
  { (sSteps [rec 1 .checking]).setCoreState 1 csReplay with
      cores := [(0, { c0 with ctxs := [kDone, .empty, .empty, .empty] }), (1, { c0 with ctxs := [kDone, .empty, .empty, .empty] })],
      ledger := { Ledger.empty with queue := [rp w true], verdicts := verdicts } }
def sFirst : State := sReplay .first [(1, 0, .waiting), (1, 9, .waiting)]
theorem wit_replayComplete : sFirst.hubUp = true ∧ sFirst.running? 1 0 = some (rp .first true) ∧ sFirst.replayReturned (rp .first true) = true ∧
    (rp .first true).poisoned = false ∧ sFirst.step? 1 = some (rec 1 .checking) ∧ sFirst.verdict? 1 0 = some .waiting ∧
    sFirst.verdict? 1 9 = some .waiting ∧ (∀ e ∈ sFirst.ledger.verdicts, e.1 = 1 → e.2.2 ≠ .discard) := by decide +kernel
/-- No core of the die is a spare; segment 9 still waits. -/
def sNoSpare : State := { sSteps [rec 1 .checking] with ledger := { Ledger.empty with queue := [rp .first false], verdicts := [(1, 0, .waiting), (1, 9, .waiting)] } }
theorem wit_sparesGone : sQueued.sparesGone (rp .first false) = false ∧ sNoSpare.hubUp = true ∧ sNoSpare.headReplay = some (rp .first false) ∧
    sNoSpare.sparesGone (rp .first false) = true ∧ sNoSpare.step? 1 = some (rec 1 .checking) ∧ sNoSpare.verdict? 1 9 = some .waiting ∧
    (∀ e ∈ sNoSpare.ledger.verdicts, e.1 = 1 → e.2.2 ≠ .discard) ∧ sQueued.runningReplays = [] := by decide +kernel
theorem wit_checkOutcomes : (∀ e ∈ sFirst.ledger.verdicts, e.1 = 1 → sFirst.verdict? 1 e.2.1 = some e.2.2) ∧ sFirst.checkOutcome 1 = .open_ ∧
    (sReplay .first [(1, 0, .undecided)]).checkOutcome 1 = .unverified 0 ∧ (sReplay .first [(1, 0, .keep)]).checkOutcome 1 = .keep ∧
    (sReplay .first [(1, 0, .discard), (1, 9, .waiting)]).checkOutcome 1 = .discard := by decide +kernel

def inc0 : Incident := { kind := .timeout, p := 0, lcore := 0, ctx := 0, queue := 4, count := 0 }
def rcv (sus : List (Nat × Nat)) (q : Bool) : Recovery := { incident := some inc0, step := 1, suspects := sus, quiesced := q, proved := false }
def sRecover : State := { sSteps [rec 1 .pending] with mstate := .recovering, ledger := { Ledger.empty with recovery := some (rcv [(0, 0)] false) } }
theorem wit_quiesce : sRecover.hubUp = true ∧ sRecover.steps.rollback = none ∧ sRecover.ledger.recovery = some (rcv [(0, 0)] false) ∧
    sRecover.settleStopped.steps.rollback = none ∧ sRecover.settleStopped.ledger.recovery = some (rcv [(0, 0)] false) ∧
    ({ sRecover.settleStopped with ledger := { sRecover.settleStopped.ledger with recovery := some (rcv [(0, 0)] true) } } : State).suspectSegment (0, 0) = some 0 := by
  decide +kernel
def rb0 : Rollback := { quiesced := false, target := none, cannotReach := false, noResume := false, held := true, sent := none, cause := 1 }
def sRollback : State := { sLastChild with mstate := .stopped, steps := { Steps.empty with rollback := some rb0 } }
theorem wit_quiesceRollback : sRollback.hubUp = true ∧ sRollback.steps.rollback = some rb0 ∧ rb0.quiesced = false ∧
    sRollback.settleStopped.steps.rollback = some rb0 ∧ sRollback.isRoot = false := by decide +kernel
def sJudge (run : Bool) : State :=
  { sReplay .suspect [] with mstate := .recovering, ledger := { Ledger.empty with queue := [rp .suspect run], recovery := some (rcv [(0, 0)] true) } }
theorem wit_judged : (sJudge true).hubUp = true ∧ (sJudge true).ledger.recovery = some (rcv [(0, 0)] true) ∧ (rcv [(0, 0)] true).incident = some inc0 ∧
    (sJudge true).suspectReplay = some (rp .suspect true) ∧ (rp .suspect true).which = .suspect ∧ (rp .suspect true).running = true ∧
    (sJudge true).replayReturned (rp .suspect true) = true ∧ 1 ∈ (rp .suspect true).cores.map (fun c => c.2) := by decide +kernel
/-- After core 0 come a context that stands in no segment and core 0 again. -/
def sJudgeMore : State := { sJudge true with
  cores := (sJudge true).cores ++ [(5, { c0 with ctxs := [{ kDone with bind := { kDone.bind with vat := 99 } }, .empty, .empty, .empty] })]
  ledger := { (sJudge true).ledger with recovery := some (rcv [(0, 0), (5, 0), (0, 0)] true) } }
theorem wit_judgedMore : sJudgeMore.ledger.recovery = some (rcv [(0, 0), (5, 0), (0, 0)] true) ∧ sJudgeMore.suspectReplay = some (rp .suspect true) ∧
    (sJudgeMore.endReplay (rp .suspect true)).judgeable [(5, 0), (0, 0)] = [(0, 0)] ∧
    (sJudgeMore.endReplay (rp .suspect true)).suspectSegment (0, 0) = some 0 ∧ sJudgeMore.replayReturned (rp .suspect true) = true ∧
    ((sJudge true).endReplay (rp .suspect true)).judgeable [] = [] := by decide +kernel
/-- The replay on core 1 has met an incident; a RECV of it waits for input of another module that the journal no longer holds. -/
def rpMet (i : Incident) : Replay := { rp .suspect true with met := some i }
def sMet (i : Incident) : State := { sJudge true with ledger := { (sJudge true).ledger with queue := [rpMet i] } }
def stFar : StreamD := { num := 3, src := 0x10800000, dst := 0, cls := 0, journal := true, credits := 4 }
def sStarved : State :=
  let k := { kDone with taken := [(3, (eStr 3 noneField 1, 0))] }
  { sMet { inc0 with p := 1 } with image := some { imOne with streams := [stFar] }, cores := [(1, { c0 with ctxs := [k, .empty, .empty, .empty] })] }
theorem wit_judgedByIncident : (rpMet { inc0 with p := 1 }).running = true ∧ (sMet { inc0 with p := 1 }).suspectReplay = some (rpMet { inc0 with p := 1 }) ∧
    (sMet { inc0 with p := 1 }).ledger.recovery = some (rcv [(0, 0)] true) ∧ (sMet { inc0 with p := 1 }).starved (rpMet { inc0 with p := 1 }) = false ∧
    inc0.same { inc0 with p := 1 } = true ∧ inc0.same { inc0 with p := 1, queue := 0 } = false ∧ (rp .suspect true).met = none ∧
    inc0.kind = .timeout ∧ sStarved.starved (rpMet { inc0 with p := 1 }) = true ∧
    sStarved.suspectReplay = some (rpMet { inc0 with p := 1 }) := by decide +kernel
def sUnjudged : State := (sJudge false).setCoreState 1 csFenced
theorem wit_notJudged : sUnjudged.suspectReplay = some (rp .suspect false) ∧ (rp .suspect false).running = false ∧
    sUnjudged.hasSpares 0 [] = false := by decide +kernel

/- Proving and fencing. -/

/-- Core 1 in a CORE_STATE, under proving from another. -/
def sProve (st : Nat) (act : List (Nat × Nat)) : State := { s0.setCoreState 1 st with proving := { s0.proving with active := act } }
theorem wit_provingDue : (sProve csSpare []).hubUp = true ∧ (sProve csSpare []).calm ∧ 1 < (sProve csSpare []).grade.cores ∧
    (sProve csSpare []).coreState 1 = 1 ∧ (sProve csSpare []).obit kBgDefer 3 = false ∧
    (sProve csSpare []).proving.active.any (fun e => decide (coreDie e.1 = coreDie 1)) = false ∧
    (sProve csSpare [(0, 0)]).proving.active.any (fun e => decide (coreDie e.1 = coreDie 1)) = true := by unfold State.calm; decide +kernel
/-- A halt that arises while the hub is in reset waits for its return. -/
theorem test_haltWaitsForHub : (match exec (.hbmStackFailure 0) { sSteps [] with power := { s0.power with hubReset := 1 } } with
  | .next t => decide (t.steps.heldHalts = [0x0B] ∧ t.steps.rollback = none ∧ t.out.length = s0.out.length)
  | _ => false) = true := by decide +kernel
def sPutOff : State := { (sProve csSpare []).put kBgDefer 8 with proving := { s0.proving with due := [1] } }
theorem wit_putOff : sPutOff.hubUp = true ∧ sPutOff.obit kBgDefer 3 = true ∧ sPutOff.proving.due = [1] ∧ sPutOff.coreState 1 = 1 := by decide +kernel
theorem test_provingFallsDueAgain : (match exec (.bgDeferExpiry 3) sPutOff with
  | .next t => decide (t.coreState 1 = 2 ∧ t.proving.due = [])
  | _ => false) = true := by decide +kernel
theorem wit_provingComplete : (sProve csProving [(1, 1)]).proving.active.find? (fun e => decide (e.1 = 1)) = some (1, 1) ∧
    (sProve csProving [(1, 1)]).numberOf 1 = none ∧ (sProve csProving [(1, 1)]).o (kCore 1 0x0F) < (sProve csProving [(1, 1)]).o 0x504400 ∧
    (sProve csProving [(1, 1)]).coreState 1 = 2 ∧ (sProve csProving [(1, 4)]).proving.active.find? (fun e => decide (e.1 = 1)) = some (1, 4) := by
  decide +kernel
def sRemap (l : Nat) : State := { sSteps [] with proving := { s0.proving with remap := [(1, l)] } }
theorem wit_remap : (sRemap 0).calm ∧ (sRemap 0).proving.remap.find? (fun e => decide (e.1 = 1)) = some (1, 0) ∧
    ({ sRemap 0 with logicalMap := [] } : State).lcore? 0 = none ∧ (sRemap 0).image.isSome = true ∧ 0 < (sRemap 0).imageLcores := by
  unfold State.calm; decide +kernel

/- HBM and what stands before it. -/

/-- An entry that masks bytes 0 and 63 of line 3 of die 0. -/
def wcb3 : WcbEntry := { die := 0, line := 3, mask := 0x8000000000000001, data := 0xFF, hits := 0 }
def sWcb : State := { s0 with mem := { Mem.empty with wcb := [wcb3], hbm := [(192, 1), (193, 2)] } }
theorem wit_hbm : sWcb.entriesSound := by unfold State.entriesSound; decide
theorem wit_flush : sWcb.cleanWrites ∧ sWcb.linePc 0 3 < 128 ∧ 0 < sWcb.grade.dies ∧ wcb3 ∈ sWcb.mem.wcb ∧ sWcb.pcHeld 0 3 = false := by unfold State.cleanWrites; decide +kernel
/-- A gather with one request in an entry that has not read, and with one served from the entry that returns and one still waiting. -/
def nReq (u a : Nat) : NReq := { p := 0, ctx := 0, unit := u, part := 0, addr := a, size := 4, hit := false }
def nEnt (read : Option (Line × Bool)) : NEntry := { die := 0, line := 3, reqs := [nReq 0 192], read := read }
def sNarrow (read : Option (Line × Bool)) : State :=
  { sEng 0 eGather with cores := [(0, { c0 with ctxs := [{ kEng with taken := [(0, (eGather, 0))] }, .empty, .empty, .empty] })]
                        mem := { Mem.empty with narrow := [nEnt read, { nEnt none with line := 4, reqs := [nReq 1 256] }] } }
theorem wit_narrowTimeout : ((sNarrow none).nwin 0 ((sNarrow none).linePc 0 3)).find? (fun e => e.read.isNone) = some (nEnt none) ∧
    (sNarrow none).o (kStack ((sNarrow none).lineStack 0 3) 1) ≠ 1 := by decide +kernel
theorem wit_narrowReturn :
    let s := sNarrow (some (5, false))
    (s.nwin 0 (s.linePc 0 3)).find? (fun e => e.read.isSome) = some (nEnt (some (5, false))) ∧ s.mem.narrowWait = [] ∧
    (∀ r ∈ (nEnt none).reqs, ((s.core r.p).runningKind r.ctx lkGather).isSome = true ∧
      ∃ f ∈ s.mem.narrow, ¬ (f.die = 0 ∧ f.line = 3) ∧ ∃ w ∈ f.reqs, w.p = r.p ∧ w.ctx = r.ctx) := by decide +kernel
theorem wit_recalibration : 7 < s0.grade.stacks ∧ s0.live = true ∧ s0.o (kStack 7 1) = 0 ∧ s0.o (kStack (7 / 2 * 2 + (1 - 7 % 2)) 1) ≠ 1 ∧
    s0.obit kBgDefer 7 = false ∧ sWcb.lineStack 0 3 = 0 := by decide +kernel
theorem wit_patrol : s0.live = true ∧ s0.o (kStack 0 1) = 0 ∧ s0.obit kBgDefer 0 = false ∧ (s0.put kBgDefer 1).obit kBgDefer 0 = true ∧
    s0.hbmLineHit (s0.stackLine 0 (s0.scrubbed 0 % stackLines)) = false ∧ s0.hbmPlace (64 * s0.stackLine 0 (s0.scrubbed 0 % stackLines)) = .other ∧
    s0.poisonCount (s0.stackLine 0 (s0.scrubbed 0 % stackLines) / 2 ^ 31) < 16384 ∧ s0.mem.overflow = [] ∧ s0.dieUp 0 = true ∧
    s0.obit kBgDefer 1 = false ∧ s0.baseHit (baseKey 0 (s0.scrubbed 8 % baseLines * 256)) 256 = false ∧ s0.obit kBgDefer 2 = false ∧
    s0.dieUp (coreDie 575) = true := by decide +kernel

/- Messages between modules. -/

def msg (port coord step word value : Nat) : Msg :=
  { port := port, coord := BitVec.ofNat 15 coord, jobId := 0, msgId := 7, step := BitVec.ofNat 64 step, word := BitVec.ofNat 32 word
    value := BitVec.ofNat 64 value, data := [], poisoned := false }
/-- The module at (1, 0, 0) of a job of two with ports 0 and 3 ACTIVE; and the root of that job. -/
def sPorts (l : List StepRec) : State :=
  (({ sSteps l with obj := [(0x102101, 1), (0x700601, 2), (0xB00004, 1)] } : State).put (kLink 0 1) 5).put (kLink 3 1) 5
def sRoot (l : List StepRec) : State := { sSteps l with obj := [(0x700601, 2), (0xB00004, 1)] }
def readyStep (n : Nat) : StepRec := rec n .provisional
theorem wit_hears : (sPorts []).links.length = 6 ∧ (sPorts []).hears (msg 0 0 1 0 0) ∧ (sPorts []).hears (msg 6 0 1 0 0) ∧ (sPorts []).hears (msg 3 5 1 0 0) := by
  unfold State.hears; decide +kernel
theorem wit_halt : (sPorts [readyStep 1, rec 2 .running]).hearsFirst (msg 0 0 1 0x0B 0) 0xF001 ∧
    (sPorts [readyStep 1, rec 2 .running]).steps.rollback = none ∧ (sPorts [readyStep 1, rec 2 .running]).mstate = .running ∧
    (sPorts [readyStep 1, rec 2 .running]).image.isSome = true ∧ (sPorts [readyStep 1, rec 2 .running]).o kDecisionMode = 0 ∧
    (sPorts [readyStep 1, rec 2 .running]).floodPorts 0 = [3] ∧ (sPorts [readyStep 1, rec 2 .running]).readyTo < 2 := by
  unfold State.hearsFirst State.hears; decide +kernel
def sRootReady : State :=
  { sRoot [readyStep 1, readyStep 2] with steps := { (sRoot [readyStep 1, readyStep 2]).steps with ownReady := 2 } }
theorem wit_ready : sRootReady.hears (msg 6 1024 2 0 0) ∧ (1024 : BitVec 15).toNat ∈ sRootReady.children ∧ sRootReady.isRoot = true ∧
    sRootReady.steps.rollback = none ∧ 2 ≤ sRootReady.steps.ownReady ∧ (∀ c ∈ sRootReady.children, c = 1024) := by
  unfold State.hears; decide +kernel
theorem wit_grant : (sPorts [readyStep 1]).hearsFirst (msg 0 0 1 0 0) 0xF003 ∧ (msg 0 0 1 0 0).coord = 0 ∧
    (msg 0 0 1 0 0).word.getLsbD 0 = false ∧ (sPorts [readyStep 1]).step? ((sPorts [readyStep 1]).lastFixed + 1) = some (readyStep 1) ∧
    (readyStep 1).ready = true ∧ (∀ r, (sPorts [rec 1 .running]).step? ((sPorts [rec 1 .running]).lastFixed + 1) = some r → r.ready = false) := by
  refine ⟨by unfold State.hearsFirst State.hears; decide +kernel, by decide, by decide, by decide +kernel, rfl, fun r h => ?_⟩
  rw [show (sPorts [rec 1 .running]).step? ((sPorts [rec 1 .running]).lastFixed + 1) = some (rec 1 .running) from by decide +kernel] at h
  exact (Option.some.inj h) ▸ rfl
/-- A module in a rollback, STOPPED, with the target not known and known. -/
def sBack (obj : SMap Nat) (target : Option Nat) : State :=
  { sSteps [readyStep 1, rec 2 .discarded] with obj := obj, mstate := .stopped
                                                steps := { (sSteps [readyStep 1, rec 2 .discarded]).steps with rollback := some { rb0 with quiesced := true, target := target } } }
/-- A middle module of a ring of four: its child is (2, 0, 0). -/
def objMid : SMap Nat := [(0x102101, 1), (0x700601, 4), (0xB00004, 1)]
theorem wit_stopReport : (sBack objMid none).hears (msg 6 2048 1 1 0) ∧ (2048 : BitVec 15).toNat ∈ (sBack objMid none).children ∧
    (sBack objMid none).steps.rollback.isSome = true ∧ (sBack objMid none).isRoot = false := by unfold State.hears; decide +kernel
theorem wit_target : (sBack objMid none).hearsFirst (msg 6 0 1 0 0) 0xF007 ∧
    (sBack objMid none).steps.rollback = some { rb0 with quiesced := true } := by
  unfold State.hearsFirst State.hears; decide +kernel
theorem wit_resume : (sBack objMid (some 1)).hearsFirst (msg 6 0 1 0 0) 0xF005 ∧ (sBack objMid (some 1)).mstate = .stopped ∧
    (sBack objMid (some 1)).steps.rollback = some { rb0 with quiesced := true, target := some (msg 6 0 1 0 0).step.toNat } := by
  unfold State.hearsFirst State.hears; decide +kernel
theorem wit_external : ((sPorts []).put kDecisionMode 1).hears (msg 0 0 1 0 0) ∧ ((sPorts []).put kDecisionMode 1).o kDecisionMode = 1 := by
  unfold State.hears; decide +kernel

/- The partner mirror, with one STATE region of two granules; the partner on port 0 is (1, 0, 0). -/

def rState : Region := { num := 0, kind := rkState, baseCached := false, perm := 3, die := 0, sizeMib := 2, owner := 0, addr := 0 }
def imState : Image := { imOne with regions := [rState] }
def sMir (mr : Mirror) : State :=
  { (sRoot []).put (kLink 0 1) 5 with image := some imState, mirror := mr, mem := { Mem.empty with gran := [(1, { Gran.empty with dirty := true })] } } |>.put kMirrorEnable 1 |>.put kPartnerPort 0
def mr0 : Mirror := { s0.mirror with opened := true }
def dl0 (ended : Bool) : Delta := { m := 4, all := [(1, 0)], unsent := if ended then [] else [1], ended := ended }
theorem wit_deltaStart : (sMir mr0).hubUp = true ∧ (sMir mr0).links.length = 6 ∧ (sMir mr0).image.isSome = true ∧ (sMir mr0).o kMirrorEnable = 1 ∧ (sMir mr0).mirror.opened = true ∧
    (sMir mr0).mirror.openWait = false ∧ (sMir mr0).mirror.delta = none ∧ (sMir mr0).partnerUp = true ∧ (sMir mr0).dirtyGranules = [1] := by
  decide +kernel
theorem wit_granuleSent : (sMir { mr0 with delta := some (dl0 false) }).partnerUp = true ∧
    (sMir { mr0 with delta := some (dl0 false) }).mirror.delta = some (dl0 false) ∧ (dl0 false).unsent = [1] ∧
    (dl0 false).all.find? (fun e => decide (e.1 = 1)) = some (1, 0) := by decide +kernel
/-- With no poison anywhere no byte of HBM is a hit. -/
theorem hbmHit_clean (s : State) (h : s.mem.poison = []) (h2 : s.mem.wcb = []) (a n : Nat) : s.hbmHit a n = false := by
  simp [State.hbmHit, h, h2]
theorem wit_granuleSound : (sMir { mr0 with delta := some (dl0 false) }).hbmHit ((sMir { mr0 with delta := some (dl0 false) }).slotAddr 1 0) mib = false :=
  hbmHit_clean _ (by decide) (by decide) _ _
theorem wit_mirrorAck : (sMir { mr0 with delta := some (dl0 true) }).hears (msg 0 1024 4 0 0) ∧
    (msg 0 1024 4 0 0).coord.toNat = (sMir { mr0 with delta := some (dl0 true) }).partner ∧ (dl0 true).ended = true ∧ (dl0 true).m = 4 := by
  unfold State.hears; decide +kernel
theorem wit_mirrorInvalid : (sMir mr0).granules[(msg 0 1024 0 1 0).word.toNat]? = some 1 ∧ (msg 0 1024 0 1 0).coord.toNat = (sMir mr0).partner := by
  decide +kernel
/-- A granule of zeros, coded (R368): 256 page records of one byte. -/
def zeros (m : Msg) : Msg := { m with data := List.replicate 256 1, value := 256 }
theorem wit_zeros : (decodeGranule ((zeros (msg 0 1024 0 0 0)).data.take (zeros (msg 0 1024 0 0 0)).value.toNat)).isSome = true := by decide +kernel
/-- Slot k of granule 0 is under repair, and the partner holds the granule. -/
def mrRepair (k : Nat) : Mirror := { mr0 with base := some 4, asked := [some true], repairs := [(0, k)] }
theorem wit_mirrorData : (sMir (mrRepair 0)).hears (zeros (msg 0 1024 4 0 0)) ∧ (sMir (mrRepair 0)).links.length = 6 ∧
    (sMir (mrRepair 0)).mirror.asked = [some true] ∧ (sMir (mrRepair 0)).mirror.repairs = [(0, 0)] ∧ (sMir (mrRepair 0)).mem.wcb = [] ∧
    ((sMir (mrRepair 0)).gran 0).fixedSlot = 0 ∧ (sMir (mrRepair 0)).mirrorHolds 0 = true ∧ ((sMir (mrRepair 1)).gran 0).fixedSlot ≠ 1 := by
  unfold State.hears; decide +kernel
/-- The receiver of (1, 0, 0), with a share of 2 MiB a die. -/
def mrIn (p : Option Partial) : Mirror :=
  { s0.mirror with inSource := some 1024, inNeed := 4, inMap := [(0, 1), (1, 2)], inPartial := p, share := 2 }
def part0 (got : List Nat) : Partial := { m := 4, count := 1, got := got, good := true }
theorem wit_mirrorOpen : (sMir mr0).mirror.inSource = none ∧ (sMir (mrIn none)).hears (msg 0 1024 0 0 4) ∧
    (sMir (mrIn none)).mirror.inSource = some (msg 0 1024 0 0 4).coord.toNat ∧ (sMir (mrIn none)).mirror.inSource = some 1024 ∧
    (1024 : Nat) ≠ (msg 0 1 0 0 4).coord.toNat ∧ (sMir (mrIn none)).hears (msg 0 1 0 0 4) := by unfold State.hears; decide +kernel
theorem wit_mirrorGranule : (sMir (mrIn (some (part0 [])))).hears (zeros (msg 0 1024 4 1 0)) ∧
    (sMir (mrIn (some (part0 [])))).mirror.inPartial = some (part0 []) ∧ (part0 []).m = (zeros (msg 0 1024 4 1 0)).step.toNat ∧
    ((sMir (mrIn (some (part0 [])))).reserveAddr (2 * 1 + (sMir (mrIn (some (part0 [])))).inOther 1)).isSome = true := by
  unfold State.hears; decide +kernel
theorem wit_mirrorEnd : (sMir (mrIn (some (part0 [1])))).mirror.inPartial = some (part0 [1]) ∧ (part0 [1]).good = true ∧
    (part0 [1]).got.length = (msg 0 1024 4 0 1).value.toNat ∧ (part0 [1]).m = (msg 0 1024 4 0 1).step.toNat := by decide +kernel
theorem wit_mirrorRead : ((sMir (mrIn none)).put 0x503506 4).inStep = (msg 0 1024 4 1 0).step.toNat ∧
    (((sMir (mrIn none)).put 0x503506 4).heldGranule 1).isSome = true := by
  refine ⟨by decide +kernel, ?_⟩
  unfold State.heldGranule
  rw [show ((sMir (mrIn none)).put 0x503506 4).mirror.inInvalid.contains 1 = false from by decide +kernel,
    show ((sMir (mrIn none)).put 0x503506 4).inSlotOf 1 = some 1 from by decide +kernel]
  obtain ⟨a, ha⟩ := Option.isSome_iff_exists.mp
    (show (((sMir (mrIn none)).put 0x503506 4).reserveAddr (2 * 1 + 1)).isSome = true from by decide +kernel)
  simp [ha, hbmHit_clean _ (show ((sMir (mrIn none)).put 0x503506 4).mem.poison = [] from by decide +kernel)
    (show ((sMir (mrIn none)).put 0x503506 4).mem.wcb = [] from by decide +kernel)]

/- A checkpoint at the root of a job of two, with granule 1 fixed in slot 0 and pinned by cut 4. -/

def hnd0 : Hnd := { session := 0, handle := 0, via := none }
def shard0 (blocks : List (Nat × Nat)) (phase : Nat) : Shard :=
  { step := 4, slot := 1, records := [0], blocks := blocks, raw := [], written := [(4096, 64)], phase := phase, offset := 4160
    stored := 8192, content := 2 * mib, addr := 0, old := false }
/-- A cut in a state with a shard or none and one write out; record 0 is connected. -/
def sCut (h : Option Shard) (state : Nat) (what : StoreFor) : State :=
  { (sRoot []).put 0x506201 state with
      image := some imState, mem := { Mem.empty with gran := [(1, { Gran.empty with cutPin := [(4, 0)] })] }
      storage := s0.storage.set 0 { state := 1, qpn := 4, rateNum := 8, rateDen := 8, retries := 0 }
      ckpt := { s0.ckpt with shard := h, writes := [{ record := 0, what := what, live := true }], cutHnd := some hnd0 } } |>.put 0x506202 4
theorem wit_blockCoded : (sCut (some (shard0 [(1, 0)] 0)) 2 .shard).ckpt.shard = some (shard0 [(1, 0)] 0) ∧
    (sCut (some (shard0 [(1, 0)] 0)) 2 .shard).hbmHit ((sCut (some (shard0 [(1, 0)] 0)) 2 .shard).slotAddr 1 0) mib = false ∧
    (sCut (some (shard0 [(1, 0)] 0)) 2 .shard).blockNumber (1, 0) = (shard0 [(1, 0)] 0).written.length ∧
    SMap.has 2 (shard0 [(1, 0)] 0).raw = false ∧ (sCut (some (shard0 [(1, 0)] 0)) 2 .shard).mirror.repairs.contains (1, 0) = false ∧
    (sCut (some (shard0 [(1, 0)] 0)) 2 .shard).connected 0 = true :=
  ⟨by decide +kernel, hbmHit_clean _ (by decide) (by decide) _ _, by decide +kernel, by decide, by decide, by decide +kernel⟩
/-- The answer of the one write that is out, in each phase of a shard; a shard whose block is still to come. -/
theorem wit_writeAck :
    let k := fun (blocks : List (Nat × Nat)) (phase : Nat) => (sCut (some (shard0 blocks phase)) 2 .shard).ckpt
    takeWrite (fun w => decide (w.record = 0 ∧ w.what ≠ .invalidation)) (k [] 0).writes = some ({ record := 0, what := .shard, live := true }, []) ∧
    takeWrite (fun w => decide (w.record = 0)) (k [] 0).writes = some ({ record := 0, what := .shard, live := true }, []) ∧
    ({ k [] 0 with writes := [] } : Ckpt).unacked = 0 ∧ (k [] 0).queued = [] ∧ (shard0 [(1, 0)] 0).phase ≠ 2 ∧ (shard0 [(1, 0)] 0).blocks ≠ [] ∧
    (shard0 [] 0).records.headD 0 = 0 ∧ (sCut (some (shard0 [] 1)) 2 .shard).connected 0 = true := by decide +kernel
theorem wit_manifestAck :
    takeWrite (fun w => decide (w.record = 0 ∧ w.what ≠ .invalidation)) (sCut none 4 .entries).ckpt.writes = some ({ record := 0, what := .entries, live := true }, []) ∧
    takeWrite (fun w => decide (w.record = 0 ∧ w.what ≠ .invalidation)) (sCut none 4 .header).ckpt.writes = some ({ record := 0, what := .header, live := true }, []) ∧
    takeWrite (fun w => decide (w.record = 0)) (sCut none 4 .entries).ckpt.writes = some ({ record := 0, what := .entries, live := true }, []) ∧
    (sCut none 4 .header).ckpt.waitHnd = none ∧ (sCut none 4 .header).ckpt.cutHnd.isSome = true ∧ (sCut none 4 .header).ckpt.anyOpen = false ∧
    ((sCut none 4 .entries).put 0x506001 0).targets = [0] := by decide +kernel
theorem wit_shardReport : (sCut none 3 .entries).hears (msg 6 1024 4 0 8192) ∧ (sCut none 3 .entries).isRoot = true ∧
    (sCut none 3 .entries).o 0x506201 = 3 ∧ (sCut none 3 .entries).o 0x506202 = 4 ∧ bits (msg 6 1024 4 2 0).word.toNat 0 8 ≠ 0 ∧
    (sCut none 3 .entries).ckpt.reports.length + 1 < (sCut none 3 .entries).jobModules := by unfold State.hears; decide +kernel
theorem wit_invalidated :
    takeWrite (fun w => decide (w.what = .invalidation)) (sCut none 1 .invalidation).ckpt.writes =
      some ({ record := 0, what := .invalidation, live := true }, []) ∧ (sCut none 1 .invalidation).mstate ≠ .stopped := by decide

/- A restore of step 4 from storage on a module that is not the root, and on the root. -/

def rst (phase : Nat) : Restore :=
  { step := 4, slot := 1, hnd := some hnd0, source := 3, records := [0], phase := phase, next := 0, hdr := [], index := [], status := 0 }
def sRestore (root : Bool) (phase : Nat) : State :=
  { (if root then sRoot [] else sBack objMid none) with
      image := some imState, mstate := .recovering, steps := Steps.empty, ckpt := { s0.ckpt with restore := some (rst phase) }
      mem := { Mem.empty with gran := [(0, { Gran.empty with restored := true }), (1, { Gran.empty with fixedSlot := 1 })] } }
/-- The header of a shard of this module (R380). -/
def hdr4 : List Byte :=
  let s := sRestore false 1
  bytesAt (leBytes 4 0x44535854 ++ leBytes 3 1 ++ leBytes 1 s.grade.code ++ leBytes 8 0 ++ leBytes 8 4 ++ s.dimsBytes ++ [0] ++
    leBytes 2 (s.o 0x201004) ++ leBytes 18 0 ++ leBytes 4 s.contentBlocks.length) 0 4096
theorem wit_restoreRead : (sRestore false 1).ckpt.restore = some (rst 1) ∧ (sRestore false 1).isRoot = false ∧ (rst 1).phase = 1 ∧
    fieldAt hdr4 0 4 = 0x44535854 ∧ fieldAt hdr4 16 8 = (rst 1).step ∧ (sRestore false 1).shardShape hdr4 = true ∧
    fieldAt hdr4 48 4 = (sRestore false 1).contentBlocks.length := by decide +kernel
theorem wit_restoreReport : (sRestore true 4).hears (msg 6 1024 4 0 0) ∧ (sRestore true 4).isRoot = true ∧
    (sRestore true 4).ckpt.restoreReports.length + 1 < (sRestore true 4).jobModules := by unfold State.hears; decide +kernel
theorem wit_restoreEnd : (sRestore false 4).hearsFirst (msg 6 0 4 0 0) 0xF006 ∧ (msg 6 0 4 0 0).coord = 0 ∧ (msg 6 0 4 0 0).word = 0 ∧
    (msg 6 0 4 8 0).word ≠ 0 ∧ (sRestore false 4).mstate = .recovering ∧ (sRestore false 4).steps.rollback = none ∧
    SMap.sorted (sRestore false 4).mem.gran = true := by unfold State.hearsFirst State.hears; decide +kernel

/- Torus links: port 0 of the root of a job of two, toward (1, 0, 0). -/

def epT1 : W32 := 0x10800000
def stIn : StreamD := { num := 3, src := epT1, dst := 0, cls := 0, journal := false, credits := 4 }
def stOut : StreamD := { num := 4, src := 0, dst := epT1, cls := 0, journal := false, credits := 4 }
def sLink (st : Nat) (l : Link) : State :=
  { (sRoot []).put (kLink 0 1) st with
      links := l :: s0.links.tail, image := some { imOne with streams := [stIn, stOut] }
      streams := [{ (default : Stream) with num := 3 }, { (default : Stream) with num := 4 }] }
def flit0 : Flit := sealFlit 0 []
def lk0 : Link := { Link.empty with rxSeq := 9, retry := [(4, flit0), (6, flit0)], credits := [1, 1, 1, 1] }
def flit (ty tag len : Nat) : Flit := sealFlit (flitHeader ty 2 0 1024 tag len 0 1 ||| BitVec.ofNat 128 (9 * 2 ^ 110 + 5 * 2 ^ 98 + 2 ^ 97 + 2 ^ 94 + 3 * 2 ^ 86)) [4]
theorem wit_flitLink : (sLink 5 lk0).links.length = 6 ∧ (sLink 5 lk0).hubUp = true ∧ (sLink 5 lk0).linkState 0 = 5 ∧ lk0.queue = [] := by decide +kernel
/-- A sealed flit passes its CRC. -/
theorem flitGood_seal (h : BitVec 128) (p : List Byte) (hp : bytesAt (bytesAt p 0 232) 0 232 = bytesAt p 0 232) :
    flitGood (sealFlit h p) = true := by simp [flitGood, sealFlit, Flit.body, hp]
theorem wit_flitGood (ty tag len : Nat) : flitGood (flit ty tag len) = true := flitGood_seal _ _ (by decide +kernel)
theorem wit_flitBad : flitGood { flit 1 3 100 with fecOk := false } = false := by simp [flitGood]
theorem wit_flitNull : flitMalformed (flit 0 0 0) = false ∧ flNak (flit 0 0 0) = false ∧ flType (flit 0 0 0) = 0 ∧
    flAckValid (flit 0 0 0) = true ∧ covered (flAckSeq (flit 0 0 0)) 4 = true ∧ covered (flAckSeq (flit 0 0 0)) 6 = false ∧
    flitMalformed (flit 3 0 1) = false ∧ flType (flit 3 0 1) = 3 := by decide +kernel
theorem wit_flitData : flitMalformed (flit 1 3 232) = false ∧ flSeq (flit 1 3 232) = lk0.rxSeq ∧
    flDst (flit 1 3 232) = (sLink 5 lk0).coord ∧ flTag (flit 1 3 232) < 0xF000 ∧ flDst (flit 1 3 232) ≠ dstFlood ∧
    (sLink 5 lk0).streamD? 3 = some stIn ∧ (sLink 5 lk0).book? 3 = some { (default : Stream) with num := 3 } ∧ flType (flit 1 3 232) = 1 ∧
    epType stIn.src = epTorus ∧ epCoord stIn.src = flSrc (flit 1 3 232) := by decide +kernel
theorem wit_flitCredit : flitMalformed (flit 2 4 2) = false ∧ flType (flit 2 4 2) = 2 ∧ flTag (flit 2 4 2) = 4 ∧
    (sLink 5 lk0).streamD? 4 = some stOut ∧ (sLink 5 lk0).book? 4 = some { (default : Stream) with num := 4 } ∧
    epType stOut.dst = epTorus ∧ epCoord stOut.dst = flSrc (flit 2 4 2) := by decide +kernel

/- Link-up and faults, at the boundary of 16 lanes. -/

def lkSeen (n : Nat) : Link := { Link.empty with detected := List.range n }
def lkMap (good : List Nat) : Link := { Link.empty with detected := good, map := freshMap good, flap := [(3, 1)] }
theorem wit_signal : ((List.range 34).filter (fun i => Nat.testBit 0xFFFF i && !((sLink 1 Link.empty).link 0).retired.contains i)).length = 16 ∧
    (sLink 1 Link.empty).linkState 0 = 1 := by decide +kernel
theorem wit_equalize : (sLink 2 (lkSeen 34)).linkState 0 = 2 ∧ (sLink 3 (lkMap (List.range 34))).linkState 0 = 3 ∧
    mapLegal ((freshMap (List.range 24)).map (BitVec.ofNat 8) |>.map (fun b => b.toNat)) = true ∧
    mapWidth (lkMap (List.range 16)).map = 16 ∧ mapWidth (lkMap (List.range 15)).map = 0 := by decide +kernel
/-- The peer record of (1, 0, 0) on its port 1, under a job number. -/
def peer (job : Nat) : List Byte :=
  bytesAt ([2, 1, 1, 32] ++ leBytes 2 1024 ++ leBytes 2 1024 ++ leBytes 4 job ++ leBytes 2 64 ++ leBytes 2 512 ++ leBytes 2 2048 ++ leBytes 2 64) 0 232
theorem wit_peer : (sLink 4 (lkMap (List.range 34))).refuseReason 0 (peer 0) = 0 ∧ (sLink 4 (lkMap (List.range 34))).refuseReason 0 (peer 1) = 5 ∧
    (peer 0).length = 232 ∧ (peer 0).getD 0 0 = 2 ∧ (sLink 4 (lkMap (List.range 34))).linkState 0 = 4 ∧ (lkMap []).acceptGot = false := by
  decide +kernel
theorem wit_accept : (sLink 4 { lkMap (List.range 34) with acceptSent := true }).linkState 0 = 4 ∧ (lkMap (List.range 34)).queue = [] ∧
    (sLink 6 { lkMap (List.range 34) with acceptSent := true }).linkState 0 = 6 ∧ (lkMap (List.range 34)).retry = [] := by decide +kernel
theorem coordFits_two (s : State) (h : s.coord = 0 ∧ s.dimX = 2 ∧ s.dimY = 1 ∧ s.dimZ = 1) : s.coordFits := by
  refine ⟨by rw [h.1]; decide, fun p => ?_⟩
  simp only [State.neighbour, h.1, h.2.1, h.2.2.1, h.2.2.2]
  split <;> (try split) <;> (try split) <;> (try split) <;> (try split) <;> decide
theorem wit_coordFits : (sLink 1 Link.empty).coordFits ∧ (sLink 2 (lkSeen 34)).coordFits ∧ (sLink 4 (lkMap (List.range 34))).coordFits :=
  ⟨coordFits_two _ (by decide +kernel), coordFits_two _ (by decide +kernel), coordFits_two _ (by decide +kernel)⟩
theorem wit_noMirror : (sLink 4 { lkMap (List.range 34) with acceptSent := true }).mirror.opened = false ∧
    (lkMap (List.range 34)).latestMap = (lkMap (List.range 34)).map := by decide +kernel
theorem wit_laneFault : (sLink 5 (lkMap (List.range 34))).linkState 0 = 5 ∧ (lkMap (List.range 34)).map.getD 3 laneRetired ≠ laneRetired ∧
    (lkMap (List.range 34)).score 3 + 1 < (sLink 5 (lkMap (List.range 34))).o 0x700605 ∧
    mapWidth (repairMap (lkMap (List.range 34)).map 3) = 32 ∧ mapWidth (repairMap (lkMap (List.range 32)).map 3) = 24 ∧
    mapWidth (repairMap (lkMap (List.range 16)).map 3) = 0 := by decide +kernel
theorem wit_lossOfSignal : (sLink 5 lk0 |>.put (kLink 0 2) 32).o (kLink 0 2) < 2 * 17 ∧ ¬ (sLink 5 lk0 |>.put (kLink 0 2) 32).o (kLink 0 2) < 2 * 16 := by
  decide +kernel

/- Die-to-die joins: the expansion stream 3 (tag 1 of join 8), and stream 4 from die 0 to die 1 (tag 1 of bridge 0). -/

def stExp : StreamD := { num := 3, src := 0x20000001, dst := 0, cls := 2, journal := false, credits := 4 }
def stDies : StreamD := { num := 4, src := 0, dst := 256, cls := 1, journal := false, credits := 4 }
def bkExp : Stream := { (default : Stream) with num := 3, credits := 1 }
def bkDies : Stream := { (default : Stream) with num := 4, credits := 1, returning := 3 }
/-- A book with 3 credits of class 0 on their way back. -/
def book3 : JoinBook := { JoinBook.fresh joinBuffers with back := [3, 0, 0, 0] }
def js0 : JoinSt := { (default : JoinSt) with fwd := book3, rev := .fresh joinBuffers, tags := [3] }
/-- A running module whose join of a key is in a state. -/
def sJoin (key st : Nat) (q : JoinSt) : State :=
  { (sRoot []).put (kJoin key 1) st with image := some { imOne with streams := [stExp, stDies] }, streams := [bkExp, bkDies], joins := [(key, q)] }
theorem wit_unitFrame : (sJoin 8 0 js0).hasJoin .expansion = true ∧ (sJoin 8 0 js0).live = true ∧ (sJoin 8 0 js0).joinState (joinKey .expansion) = 0 ∧
    frType (frameHeader 2 false 1) = 0 ∧ (sJoin 8 0 js0).frameBroken 8 true (frameHeader 2 false 1) = false ∧ frCreditTag (frameHeader 2 false 1) = 0 ∧
    (sJoin 8 0 js0).tagged 8 (frTag (frameHeader 2 false 1)) = some stExp ∧ (sJoin 8 0 js0).book? 3 = some bkExp ∧ epType stExp.src = epExpansion ∧
    js0.wait = [] ∧ js0.owed = [] ∧
    stExp.cls = frClass (frameHeader 2 false 1) ∧ 0 < bkExp.credits := by decide +kernel
/-- A credit frame for tag 1, with 5 credits. -/
def hCredit : W64 := BitVec.ofNat 64 (2 ^ 62 + 2 ^ 16 + 5 * 2 ^ 8)
/-- One for class 0 of the join itself, with 5 credits. -/
def hJoinCredit : W64 := BitVec.ofNat 64 (2 ^ 62 + 0xFFF0 * 2 ^ 16 + 5 * 2 ^ 8)
theorem wit_joinCredit : frType hJoinCredit = 1 ∧ (sJoin 0 0 js0).frameBroken 0 false hJoinCredit = false ∧ frCreditTag hJoinCredit = 0xFFF0 ∧
    frCreditCount hJoinCredit = 5 ∧ ((sJoin 0 0 js0).join 0).fwd.back.getD 0 0 = 3 := by decide +kernel
def jsDies : JoinSt := { js0 with tags := [4] }
theorem wit_creditFrame : (sJoin 0 0 js0).hasJoin (.bridge 0) = true ∧ (sJoin 0 0 js0).joinState 0 = 0 ∧ frType hCredit = 1 ∧
    (sJoin 0 0 jsDies).frameBroken 0 false hCredit = false ∧ frCreditTag hCredit = 1 ∧ (sJoin 0 0 jsDies).tagged 0 1 = some stDies ∧
    (sJoin 0 0 jsDies).book? 4 = some bkDies ∧ frType (frameHeader 1 false 99) ≠ 1 ∧ (sJoin 0 0 js0).frameBroken 0 true (frameHeader 1 false 99) = true := by
  decide +kernel
theorem wit_chan : (sJoin 0 0 js0).inService 0 = true ∧ 11 < joinChannels 0 ∧ 7 < joinChannels 8 ∧ ((sJoin 0 0 js0).chan 0 11).up = true ∧
    ((sJoin 0 0 js0).chan 0 11).times = [] ∧ ((sJoin 0 0 js0).chan 0 11).width = 64 ∧ (sJoin 0 0 js0).spareModule 0 = some 12 ∧ (sJoin 8 0 js0).spareModule 8 = none ∧
    (sJoin 8 0 js0).inService 8 = true ∧ ((sJoin 8 0 js0).chan 8 7).width = 64 ∧ (sJoin 0 1 js0).joinState 0 = 1 ∧ ((sJoin 0 1 js0).join 0).phase = 0 := by
  decide +kernel
/-- A record of a die, of a partner with two endpoints, and one of another version. -/
def recOf (kind version endpoints : Nat) : BitVec 256 :=
  BitVec.ofNat 256 (kind + version * 2 ^ 72 + endpoints * 2 ^ 80 + 2 ^ 96 + 64 * 2 ^ 128 + 128 * 2 ^ 144 + 1024 * 2 ^ 160 + 32 * 2 ^ 176)
def js1 (phase : Nat) : JoinSt := { js0 with phase := phase, record := recOf 0x10 1 2, endpoints := [1] }
theorem wit_linkUp : rateOk 0 32 = true ∧ (sJoin 0 2 js0).mayTrain 0 = true ∧ rateOk 8 4 = true ∧ (sJoin 8 4 js0).mayTrain 8 = true := by decide +kernel
theorem wit_record : ((sJoin 0 1 (js1 1)).join 0).phase = 1 ∧ refusal 0 (recOf 1 1 0) = 0 ∧ refusal 8 (recOf 0x10 1 1) = 0 ∧
    refusal 8 (recOf 0x10 1 256) = 0 ∧ refusal 8 (recOf 0x10 1 257) = 4 ∧ refusal 0 (recOf 1 2 0) = 1 := by decide +kernel
theorem wit_endpoint : ((sJoin 8 1 (js1 2)).join 8).phase = 2 ∧ endpointOk ((sJoin 8 1 (js1 2)).join 8).endpoints.getLast? 2 = true ∧
    ((sJoin 8 1 (js1 2)).join 8).endpoints.length + 1 = recEndpoints ((sJoin 8 1 (js1 2)).join 8).record ∧
    endpointOk ((sJoin 8 1 (js1 2)).join 8).endpoints.getLast? 1 = false := by decide +kernel
theorem wit_expansion : (sJoin 8 2 js0).joinState 8 = 2 ∧ (sJoin 8 0 js0).joinState 8 = 0 := by decide +kernel

/- Dies, hub and power. -/

theorem wit_die : 3 < s0.grade.dies ∧ s0.live = true ∧ SMap.get 0 3 s0.power.dieReset = 0 ∧ 7 / 2 = 3 ∧ s0.o (kStack 7 1) ≠ 5 ∧
    s0.image.isSome = true ∧ s0.steps.rollback = none ∧ s0.o kDecisionMode = 0 := by decide +kernel
def sDieReset : State := { s0 with power := { s0.power with dieReset := [(3, 2)] } }
theorem wit_dieReset : SMap.has 3 sDieReset.power.dieReset = true ∧ sDieReset.dieJoined 3 = true := by decide +kernel
theorem wit_hub : s0.hubUp = true ∧ s0.mstate ≠ .boot ∧ s0.areaValid s0.bootFirst = true := by decide +kernel
def sHubReset : State := { s0 with power := { s0.power with hubReset := 1 } }
theorem wit_hubReturn : sHubReset.live = true ∧ sHubReset.power.hubReset ≠ 0 ∧ sHubReset.fw.started < 2 ∧ State.reset.mstate = .boot ∧
    State.reset.hubUp = true ∧ State.reset.fw.started < 2 ∧ State.reset.live = true ∧ State.reset.fw.failsRow < 2 ∧
    (State.reset.put 0xB00005 1).areaValid (1 - (State.reset.put 0xB00005 1).fw.started) = true := by decide +kernel
theorem wit_activation : ({ s0 with fw := { s0.fw with activate := some (0, true, false) } } : State).fw.activate = some (0, true, false) ∧
    s0.areaValid 0 = true := by decide +kernel
def sJobs : State :=
  { s0 with fw := { s0.fw with updateHnd := some hnd0, updateImg := some (1, 7, 3, 0) }, jobs := { s0.jobs with repair := [(hnd0, 7)], reset := [(hnd0, 1, 3)] } }
theorem wit_jobs : sJobs.hubUp = true ∧ sJobs.fw.updateHnd = some hnd0 ∧ sJobs.fw.updateImg = some (1, 7, 3, 0) ∧
    sJobs.jobs.repair.find? (fun e => decide (e.2 = 7)) = some (hnd0, 7) ∧
    sJobs.jobs.reset.find? (fun e => decide (e.1.handle = hnd0.handle)) = some (hnd0, 1, 3) ∧ 575 < sJobs.grade.cores := by
  refine ⟨by decide +kernel, rfl, rfl, by decide +kernel, by decide +kernel, by decide +kernel⟩
def sPower (p : Power) : State := { State.reset with power := p }
def pw0 : Power := State.reset.power
theorem wit_power : (sPower { pw0 with input := false }).power.input = false ∧ pw0.rstAsserted = false ∧ pw0.refclkGood = true ∧ pw0.input = true ∧
    pw0.railsOn = true ∧ pw0.tripLatch = false ∧ State.reset.areaValid State.reset.bootFirst = true ∧
    (sPower { pw0 with rstAsserted := true }).power.rstAsserted = true ∧ (sPower { pw0 with refclkGood := false }).power.refclkGood = false ∧
    State.reset.grade.hasSensor (.stack 7) = true ∧ tripLimit (.stack 7) ≤ 100000 ∧ State.reset.grade.hasSensor (.die 3) = true := by decide +kernel
theorem wit_periodic : s0.hubUp = true ∧ s0.answering = true ∧ s0.obit kBgDefer 5 = false ∧ s0.obit kBgDefer 4 = false ∧
    (s0.put kBgDefer 128).obit kBgDefer (7 : Fin 8).val = true := by decide +kernel
theorem wit_tap : State.reset.power.input = true ∧ State.reset.testState = 0 ∧ (State.reset.put 0xB03000 1).testState = 1 ∧
    (State.reset.put 0xB03000 2).testState = 2 ∧ 0x10 ≤ (0x1F : Byte).toNat ∧ (0x1F : Byte).toNat ≤ 0x1F := by decide +kernel

/- The host. Session 0 of a MAINTAINER over 10BASE-T1S, its next request, and window 0 of each kind. -/

def ses0 : Session :=
  { slot := 0, tag := 0, level := 3, key := 0, src := .t1s 0, opened := true, nonceC := 0, nonceM := 0, highSeq := 0, replies := [], modSeq := 0
    usedHseq := [], outstanding := [], ringK := 0, ringC := 0, reading := false, held := [], log := [], snaps := [], eventsSec := 0, eventsAt := 0 }
def req0 : Req := { src := .t1s 0, session := 0, seq := 1, hseq := 5, via := none }
def win0 (kind region : Nat) : Window :=
  { num := 0, kind := kind, canRead := true, canWrite := true, port := 0, iface := 0, region := region, hostQpn := 9, gid := 0, qpn := 8, rkey := 7
    session := 0, rateNum := 8, rateDen := 8, retries := 0, closing := none }
/-- A module in a state with an image or none, the session and windows; port 0 of Ethernet has an IPv4 address. -/
def sHost (m : MState) (im : Option Image) (ws : List Window) : State :=
  { State.reset with mstate := m, image := im, sessions := [ses0], windows := ws, obj := [(okey 0x7100 4, 0x0A000001), (0xB00004, 1)] }
theorem wit_takes (m : MState) (hm : m ≠ .off) (hb : m ≠ .boot) (im : Option Image) (ws : List Window) :
    (sHost m im ws).takesCommand req0 ses0 3 ∧ (sHost m im ws).takesCommand req0 ses0 2 := by
  have h : (sHost m im ws).takeAs req0 = .take ses0 := by
    simp [State.takeAs, State.answering, State.hubUp, sHost, State.reset, hm, hb, req0, State.objectPath, State.session?, ses0, Session.word,
      sessionWord, State.bound]
  exact ⟨⟨h, by decide, by decide, by decide, by decide⟩, ⟨h, by decide, by decide, by decide, by decide⟩⟩
theorem wit_load : (sHost .standby none [win0 0 0]).mstate = .standby ∧ (sHost .standby none [win0 0 0]).imageWindow (0 : W16).toNat = true ∧
    (sHost .standby none [win0 0 0]).jobs.load = none ∧ (sHost .standby none [win0 0 0]).cutBusy = false := by decide +kernel
theorem wit_runSteps : (sHost .ready (some imOne) []).cutBusy = false ∧ (sHost .ready (some imOne) []).image.isSome = true ∧
    (∀ x ∈ (sHost .ready (some imOne) []).steps.list, x.st = .discarded ∨ x.n ≤ (sHost .ready (some imOne) []).lastFixed) ∧
    (1 : Byte).toNat ≤ 1 := by decide +kernel
/-- Running with step 1 pending; and with step 1 running. -/
def sRun (st : StepSt) : State := { sHost .running (some imOne) [] with steps := { Steps.empty with list := [rec 1 st] } }
theorem wit_stop : (sRun .pending).mstate = .running ∧ (sRun .pending).steps.rollback = none ∧
    (∀ x ∈ (sRun .pending).steps.list, x.open_ = true → x.st = .pending ∧ x.started = false) ∧
    (∃ x ∈ (sRun .running).steps.list, x.open_ = true ∧ (x.st = .pending → x.started = true)) := by decide +kernel
/-- Storage record 3 on port 1, ready. -/
def sTarget (m : MState) : State :=
  { sHost m (some imOne) [] with storage := (List.replicate 8 StorageQp.unused).set 3 { state := 1, qpn := 4, rateNum := 8, rateDen := 8, retries := 0 } } |>.put 0x506004 1
theorem wit_checkpoint : (sTarget .stopped).mstate = .stopped ∧ (sTarget .stopped).isRoot = true ∧ (sTarget .stopped).ckpt.cutHnd = none ∧
    (sTarget .stopped).ckpt.waitHnd = none ∧ (sTarget .stopped).targets = [3] := by decide +kernel
theorem wit_mark : (sRun .running).step? (1 : W64).toNat = some (rec 1 .running) ∧ (rec 1 .running).st = .running ∧
    (0 : W16).toNat ∈ (sRun .running).segments ∧ (0 : W16) ≠ 0xFFFF := by decide +kernel
def judged0 : Judged := { image := imOne, notices := 0, ledger := 8, mirror := 0 }
def sLoaded (good : Bool) : State :=
  { sHost .standby none [win0 0 0] with
      jobs := { s0.jobs with load := some (hnd0, 0), loadImage := if good then some judged0 else none, loadResult := if good then none else some [0x20, 1, 0, 0] } }
theorem wit_loadComplete : (sLoaded true).hubUp = true ∧ (sLoaded true).mstate = .standby ∧ (sLoaded true).jobs.load = some (hnd0, 0) ∧
    (sLoaded true).jobs.loadImage = some judged0 ∧ (sLoaded false).jobs.loadImage = none ∧
    (sLoaded false).jobs.loadResult = some (0x20 :: [1, 0, 0]) := by refine ⟨by decide +kernel, rfl, rfl, rfl, rfl, rfl⟩

theorem wit_resetDomain : resetStates .standby = true ∧ resetStates .faulted = true ∧ (575 : W16).toNat < State.reset.grade.cores ∧
    (sHost .standby none []).image = none ∧ (3 : W16).toNat < State.reset.grade.dies ∧ SMap.get 0 3 (sHost .standby none []).power.dieReset = 0 ∧
    (sHost .standby none []).areaValid (sHost .standby none []).bootFirst = true := by decide +kernel
theorem wit_fence : coreStatesLegal .maintenance = true ∧ (sHost .maintenance none []).coreState 575 ≠ 5 ∧
    (sHost .maintenance none []).numberOf 575 = none ∧ (∀ e ∈ (sHost .maintenance none []).proving.remap, e.1 ≠ 575) ∧
    ({ sHost .maintenance none [] with logicalMap := [(511, 576)] } : State).numberOf 575 = some 511 := by decide +kernel
theorem wit_fence_calm : (sHost .maintenance none []).calm := by unfold State.calm; decide +kernel
theorem wit_proveCore : (sHost .maintenance none []).proveStates 575 .maintenance = true ∧ (sHost .maintenance none []).coreState 575 ∈ [0, 1, 4] ∧
    (7 : Byte).toNat < State.reset.grade.stacks ∧ ((sHost .standby none []).put (kLink 5 1) 8).linkState (5 : Byte).toNat = 8 := by decide +kernel
theorem wit_keys : slotNamed 3 0 = true ∧ slotNamed 1 7 = true ∧ (sHost .standby none []).enrolled 3 1 = false ∧
    ((sHost .standby none []).put (kKeySlot 2 1) 1).enrolled 2 1 = true ∧ ((sHost .standby none []).put (kKeySlot 2 1) 1).lastMaintainer 2 1 = false ∧
    (sHost .standby none []).areaValid (0 : Byte).toNat = true ∧ (sHost .standby none []).fw.updateHnd = none := by decide +kernel

/- Sessions. -/

theorem wit_open : (sHost .standby none []).answering = true ∧ (sHost .standby none []).objectPath (.t1s 3) = true ∧
    (sHost .standby none []).mayOpen = true ∧ (sHost .standby none []).freeSlot = some 1 ∧
    ({ sHost .standby none [] with sessions := (List.range 16).map (fun n => { ses0 with slot := n }) } : State).freeSlot = none := by decide +kernel
def sProof : State := { sHost .standby none [] with sessions := [{ ses0 with opened := false }] }
theorem wit_proof : sProof.answering = true ∧ sProof.objectPath (.t1s 3) = true ∧
    sProof.sessions.find? (fun x => decide (x.word = 0)) = some { ses0 with opened := false } ∧
    sProof.session? 0 = some { ses0 with opened := false } := by decide +kernel
/-- 0x1021:01 COORD_X, written below DIM_X and at it; in STANDBY and in RUNNING. -/
theorem wit_readWrite : (entryRow (0x1021 : W16).toNat (1 : Byte).toNat).isSome = true ∧
    entryPresent State.reset.grade (0x1021 : W16).toNat (1 : Byte).toNat = true ∧
    (entryRow 0x1021 1).map (fun row => (row.acc, (((sHost .standby none []).taken req0 ses0).valueBytes row 0x1021 1).length)) = some (.rws, 1) ∧
    writeCheck ((sHost .standby none []).taken req0 ses0) { ses0 with highSeq := 1 } 0x1021 1 0 0 [1] = some 0x13 ∧
    writeCheck ((sHost .running none []).taken req0 ses0) { ses0 with highSeq := 1 } 0x1021 1 0 0 [0] = some 0x10 ∧
    writeCheck ((sHost .standby none []).taken req0 ses0) { ses0 with highSeq := 1 } 0xA010 0 0 0 [1, 0, 0, 0] = none ∧
    entryInFlash 0xA010 0 = false := by decide +kernel
def mClose (seq : Nat) : List Byte := leBytes 2 0x4F54 ++ [1, 5] ++ leBytes 4 0 ++ leBytes 4 seq ++ leBytes 4 0
def mRead : List Byte := leBytes 2 0x4F54 ++ [1, 0x10] ++ leBytes 8 0x100000000 ++ leBytes 4 8 ++ leBytes 8 0x1001
def mWrite : List Byte := leBytes 2 0x4F54 ++ [1, 0x11] ++ leBytes 8 0x100000000 ++ leBytes 4 9 ++ leBytes 9 0x1021
def mRun : List Byte := leBytes 2 0x4F54 ++ [1, 0x12] ++ leBytes 8 0x100000000 ++ leBytes 4 16 ++ leBytes 16 0x9003
theorem wit_windowSend : (sHost .standby none [win0 0 0]).answering = true ∧ (sHost .standby none [win0 0 0]).sendPath 0 = true ∧ messageSound [] = false ∧
    messageSound (mClose 1) = true ∧ fieldAt (mClose 1) 3 1 = 5 ∧ (mClose 1).length = 16 ∧ messageSound mRead = true ∧ fieldAt mRead 3 1 = 0x10 ∧
    mRead.length = 24 ∧ messageSound mWrite = true ∧ fieldAt mWrite 3 1 = 0x11 ∧ 24 ≤ mWrite.length ∧ messageSound mRun = true ∧
    fieldAt mRun 3 1 = 0x12 ∧ fieldAt mRun 16 4 = 0x9003 ∧ mRun.length = 32 := by decide +kernel
def rec0 : Rec := { handle := 0, status := 0, kind := 0, stepState := 0, step := 0, r0 := 0, r1 := 0, r2 := 0, r3 := 0 }
/-- A session with two records held for a full ring of 16 entries. -/
def sRing : State :=
  { sHost .standby none [win0 1 0] with sessions := [{ ses0 with ringK := 16, reading := true, held := [rec0, rec0] }] } |>.put 0x910001 (1 + 4 * 2 ^ 32)
theorem wit_ring : sRing.session? 0 = some { ses0 with ringK := 16, reading := true, held := [rec0, rec0] } ∧
    16 + [rec0, rec0].length - (2 : W64).toNat ≤ routeEntries (sRing.route 0) ∧ ¬ 16 + [rec0, rec0].length - (1 : W64).toNat ≤ routeEntries (sRing.route 0) ∧
    ses0.opened = true ∧ ses0.outstanding = [] := by decide +kernel

/- Writes. -/

theorem wit_clears : 575 < (sHost .standby none []).grade.cores ∧ 2 ≤ ses0.level ∧ (7 : W32).toNat < 2 ^ 3 ∧ 2 ^ 3 ≤ (8 : W32).toNat ∧
    (31 : Byte).toNat < 2 ^ 5 ∧ 2 ^ 5 ≤ (32 : Byte).toNat ∧ (255 : W32).toNat < 2 ^ 8 ∧ 2 ^ 8 ≤ (256 : W32).toNat := by decide
/-- Each entry takes a value at an end of its range. -/
theorem wit_entries :
    let s := (sHost .standby none []).taken req0 ses0
    let ok := fun (key n v : Nat) => writeCheck s { ses0 with highSeq := 1 } (key / 256) (key % 256) 0 0 (leBytes n v)
    ok 0xA01100 4 0xFF = none ∧ ok 0xA01100 4 0x100 = some 0x13 ∧ ok 0xA30000 2 0xFF = none ∧ ok 0x502000 2 50 = none ∧ ok 0x502000 2 49 = some 0x13 ∧
    ok 0x201100 1 1 = none ∧ ok 0xA10000 4 100 = none ∧ ok 0x503200 4 4 = none ∧ ok 0x503200 4 5 = some 0x13 ∧ ok 0x700604 4 0xFFFFFFFF = none ∧
    ok 0x506008 64 0xFF = none ∧ ok 0x506001 64 3 = none ∧ ok 0x910001 32 0 = none ∧ ok 0x910002 32 0 = some 0x12 ∧ ok 0x70050C 1 0 = none ∧
    ok 0x70000C 1 1 = none ∧ ok 0x700601 1 32 = none ∧ ok 0x700603 1 20 = none ∧ ok 0x700603 1 21 = some 0x13 := by decide +kernel
theorem wit_entryState : (sHost .standby none []).session? ses0.slot = some ses0 ∧ (sHost .standby none []).storage[7]? = some .unused ∧
    (sTarget .standby).storage[3]? = some { state := 1, qpn := 4, rateNum := 8, rateDen := 8, retries := 0 } ∧
    1 < ((sHost .standby none []).put 0x700601 32).dimOf 1 := by decide +kernel

/- Windows. -/

/-- An IMAGE window in STANDBY, a region window of region 0 of imState in READY, the right of access 4 in neither. -/
theorem wit_openWindow :
    openWindowCheck ((sHost .ready (some imState) []).taken req0 ses0) { ses0 with highSeq := 1 } req0 1 3 0 0 0 9 = none ∧
    openWindowCheck ((sHost .ready (some imState) []).taken req0 ses0) { ses0 with highSeq := 1 } req0 1 4 0 0 0 9 = some 0x13 ∧
    openWindowCheck ((sHost .standby none []).taken req0 ses0) { ses0 with highSeq := 1 } req0 0 3 0 0 0xFFFFFFFF (2 ^ 24 - 1) = none := by decide +kernel
/-- A reserved field of OPEN_REQUEST that is not zero. -/
theorem wit_openReserved : (1 : W16) ≠ 0 := by decide
theorem wit_closeWindow : (sHost .standby none [win0 0 0]).window? (0 : W16).toNat = some (win0 0 0) ∧ (win0 0 0).session = ses0.word ∧ (win0 0 0).closing = none ∧
    (sHost .standby none [win0 0 0]).mem.waiting = [] := by decide +kernel
/-- A window on region 0 of an image with one region, and granule 0 with a pin on its fixed slot, on both, or on neither. -/
def sWin (g : Region) (gr : Gran) : State :=
  { sHost .ready (some { imOne with regions := [g] }) [win0 1 0] with mem := { s0.mem with gran := [(0, gr)] } }
def gran0 (mirror cut : Option Nat) : Gran :=
  { fixedSlot := 0, writer := none, dirty := false, mirrorPin := mirror, cutPin := cut.toList.map (fun c => (4, c)), restored := false, segs := [] }
theorem wit_window : (sWin rWork (gran0 none none)).answering = true ∧ (sWin rWork (gran0 none none)).window? 0 = some (win0 1 0) ∧
    (sWin rWork (gran0 none none)).ipUp (win0 1 0).port (win0 1 0).iface = true ∧ (sWin rWork (gran0 none none)).mem.waiting = [] ∧
    (sWin rWork (gran0 none none)).cleanWrites ∧ (sWin rWork (gran0 none none)).entriesSound := by
  unfold State.cleanWrites State.entriesSound; decide +kernel
theorem wit_region : (sWin rWork (gran0 none none)).windowRegion (win0 1 0) = some rWork ∧ rWork.kind ≠ rkState ∧
    (mib - 1) + [1].length ≤ rWork.sizeMib * mib ∧ rWork.sizeMib * mib < mib + [1].length ∧
    (sWin rState (gran0 none none)).windowRegion (win0 1 0) = some rState ∧ (mib - 1) % mib + [1].length ≤ mib ∧
    (sWin rState (gran0 (some 0) (some 1))).hostWaits 0 = true ∧ (sWin rState (gran0 (some 0) none)).hostWaits 0 = false ∧
    ((sWin rState (gran0 none (some 1))).gran 0).pinned ((sWin rState (gran0 none (some 1))).gran 0).fixedSlot = false := by decide +kernel
theorem wit_regionRead : (sWin rWork (gran0 none none)).hbmHit (rWork.addr + 0) 64 = false ∧
    ({ sWin rWork (gran0 none none) with mem := { s0.mem with poison := [0] } } : State).hbmHit (rWork.addr + 0) 64 = true :=
  ⟨hbmHit_clean _ (by decide) (by decide) _ _, by decide +kernel⟩
def dIn : JournalD := { isInput := true, id := 3, target := 0, bytes := 64 }
def sInput : State := sHost .running (some { imOne with regions := [rWork], journal := [dIn] }) [win0 2 0]
/-- VA names input 3 and step 1 or step 8; step 9 is past the last. -/
theorem wit_stepInput : sInput.window? 0 = some (win0 2 0) ∧ sInput.inputD? (bits (BitVec.ofNat 64 (2 ^ 48 + 3 * 2 ^ 32 + 60)).toNat 32 16) = some dIn ∧
    sInput.inputStep (bits (BitVec.ofNat 64 (2 ^ 48 + 3 * 2 ^ 32 + 60)).toNat 48 16) = some 1 ∧ sInput.inputStep 8 = some 8 ∧ sInput.inputStep 9 = none ∧
    bits (BitVec.ofNat 64 (2 ^ 48 + 3 * 2 ^ 32 + 60)).toNat 0 32 + [1, 2, 3, 4].length ≤ dIn.bytes := by decide +kernel
theorem wit_imageWindow : (sHost .standby none [win0 0 0]).image = none ∧ (sHost .standby none [win0 0 0]).jobs.load = none ∧
    (2 ^ 30 - 1) + [1].length ≤ 2 ^ 30 ∧ (sHost .standby none [win0 0 0]).hbmHit ((sHost .standby none [win0 0 0]).imageArea + 0) 64 = false ∧
    (sHost .ready (some imOne) [win0 0 0]).image.isSome = true :=
  ⟨by decide, by decide, by decide, hbmHit_clean _ (by decide) (by decide) _ _, by decide⟩

/- Queue pairs and Ethernet. -/

theorem wit_queuePairs : ({ sHost .standby none [{ win0 0 0 with retries := 7 }] with mstate := .standby } : State).window? 0 = some { win0 0 0 with retries := 7 } ∧
    (win0 0 0).retries < 7 ∧ (sTarget .standby).storage[3]? = some { state := 1, qpn := 4, rateNum := 8, rateDen := 8, retries := 0 } ∧
    (sTarget .standby).storage[7]? = some .unused ∧ (8 : Nat) ≤ 8 + 8 / 8 := by decide +kernel
/-- Port 0 answers; at reset its second interface is not there, nor is a fifth port. -/
theorem wit_ethernet : (sHost .standby none []).ifaceHere 0 0 = true ∧ (sHost .standby none []).ifaceHere 0 1 = false ∧
    (sHost .standby none []).ifaceHere 4 0 = false ∧ ((sHost .standby none []).put (okey 0x7100 2) 1).ifaceHere 0 1 = true ∧
    (sHost .standby none []).o (kEth 0 0 4) = (0x0A000001 : W32).toNat ∧ (0x0A000001 : W32) ≠ 0 ∧
    (sTarget .standby).storagePort 3 = 1 ∧ (sHost .standby none []).o 0x710009 ≠ 8 := by decide +kernel

/- Swatches. The bounds of the buckets, as codes of binary32: 2^-149, the code below 1, 1, 2^14, the code below 2^15, 2^15, infinity. -/

theorem wit_buckets :
    (val32 0).less (val32 1) = true ∧ (val32 1).less (val32 0x3F800000) = true ∧ (val32 0x3F7FFFFF).less (val32 0x3F800000) = true ∧
    (val32 0x3F800000).less (val32 0x3F800000) = false ∧ (val32 0x3F800000).less (val32 0x40000000) = true ∧
    (val32 0x46FFFFFF).less (val32 0x47000000) = true ∧ (val32 0x46800000).less (val32 0x46800000) = false ∧
    (val32 0x47000000).less (val32 0x47000000) = false ∧ (val32 0x7F800000).less (val32 0x47000000) = false ∧
    BitVec.ofNat 32 ((127 + 15) * 2 ^ 23) = (0x47000000 : W32) := by decide +kernel

/- The whole machine. -/

def answersNext (o : Out) : Bool := match o with
  | .next _ => true
  | _ => false
theorem answersNext_exists (o : Out) (h : answersNext o = true) : ∃ t, o = .next t := by
  cases o with
  | next t => exact ⟨t, rfl⟩
  | fault f => cases h
  | refused f => cases h
theorem wit_step : ({ State.reset with pending := [.stepend 0 0] } : State).pending = .stepend 0 0 :: [] ∧
    State.reset.objWf = true ∧ State.reset.memWf = true ∧ (∃ t, Machine.step State.reset = .next t) ∧
    ∃ t, exec .imageLoadComplete (sLoaded true) = .next t :=
  ⟨rfl, by decide +kernel, by decide +kernel, answersNext_exists _ (by decide +kernel), answersNext_exists _ (by decide +kernel)⟩

/- Single steps with results worked out from the spec's text. -/

def regAfter (i : Instr) (g : SMap W32) (r : Fin 32) : Option W32 := match exec i (onCtx0 { k0 with g := g }) with
  | .next t => some ((t.ctxAt 0 0).reg r)
  | _ => none
/-- R48: SRA shifts in the sign, by GB[4:0]. -/
theorem test_sra_sign : regAfter (.aluSra 0 0 3 1 2) [(1, 0x80000000), (2, 33)] 3 = some 0xC0000000 := by decide +kernel
/-- R48: the high word of the unsigned product, the destination also a source. -/
theorem test_mulhu_top : regAfter (.aluMulhu 0 0 1 1 1) [(1, 0xFFFFFFFF)] 1 = some 0xFFFFFFFE := by decide +kernel
/-- R48: SLT is signed, SLTU is not. -/
theorem test_slt_signed : regAfter (.aluSlt 0 0 3 1 2) [(1, 0xFFFFFFFF), (2, 1)] 3 = some 1 ∧
    regAfter (.aluSltu 0 0 3 1 2) [(1, 0xFFFFFFFF), (2, 1)] 3 = some 0 := by decide +kernel
/-- R48: ADDI extends its sign, ORI does not, and g0 stays 0 (R45). -/
theorem test_immediates : regAfter (.addi 0 0 3 1 0xFFFF) [(1, 1)] 3 = some 0 ∧ regAfter (.ori 0 0 3 0 0xFFFF) [] 3 = some 0xFFFF ∧
    regAfter (.addi 0 0 0 1 0) [(1, 7)] 0 = some 0 := by decide +kernel

/-- R105's example: 13.0 and 13.3 in E4M3 are 0x55; 5.0 in E2M1 is the tie that goes to 4, code 6. -/
theorem test_cast_examples : (castNum 4 .rne (val32 0x41500000)).code = 0x55 ∧ (castNum 4 .rne (val32 0x4154CCCD)).code = 0x55 ∧
    (castNum 8 .rne (val32 0x40A00000)).code = 6 := by decide +kernel
/-- The example of the block scales: a block whose largest magnitude is 0.7 has scale byte 0x76 and element 0x7B. -/
theorem test_block_example : (blockCast 4 (fun _ => .rne) [val32 0x3F333333]).1 = 0x76 ∧
    (blockCast 4 (fun _ => .rne) [val32 0x3F333333]).2.map (fun r => r.code) = [0x7B] := by decide +kernel
/-- The example of history scaling: 3.2 and margin 2 give 6 in E4M3, 3.6 gives 5. -/
theorem test_history_example : (chooseExponent 0x404CCCCD 0x40000000 4).1 = 6 ∧ (chooseExponent 0x40666666 0x40000000 4).1 = 5 := by decide +kernel
/-- The three splits of the table of the remainder, and their joins. -/
theorem test_split_examples : splitRem 0x3F80C000 = (0x3F81, 0xC000) ∧ splitRem 0x3FFFC000 = (0x4000, 0xC000) ∧
    splitRem 0x3FFF8000 = (0x4000, 0x8000) ∧ joinRem 0x3F81 0xC000 = 0x3F80C000 ∧ joinRem 0x4000 0xC000 = 0x3FFFC000 ∧
    joinRem 0x4000 0x8000 = 0x3FFF8000 := by decide +kernel
/-- The example of R184: die 2, A = 0x12_3456_7840 is pseudo-channel 97, module HBM address 0x52_3456_7840. -/
theorem test_hbm_example : State.reset.linePc 2 (0x1234567840 / 64) = 97 ∧ hbmAddr 2 0x1234567840 = 0x5234567840 := by decide +kernel
/- Forms. One command for each check of WellFormed, with an operand one past its range. -/

theorem test_ill_formed : ([.unload { req0 with via := some 64 }, .openProof (.udp 0 0 4 0) 0 0, .openProof (.udp 0 0 0 2) 0 0,
    .write req0 0 0 0 0 (List.replicate 1377 0), .windowSend 64 [], .windowSend 0 (List.replicate 1401 0), .statusWrite req0 576 0,
    .storageTargetWrite req0 8 0, .completionRouteWrite req0 16 0, .portEnableWrite req0 6 0, .regionWindowRead 64 0 0, .qpError (.window 64),
    .qpError (.storage 8), .pfcFrameReceived 0 0 8 0, .arpRequest 4 0 0, .arpRequest 0 2 0, .challengeExpiry 16, .groupStart 576,
    .mma 0 { arr := 0, bank := 0, desc := 0, nslice := 2049, acc := .whole }, .mma 0 { arr := 0, bank := 0, desc := 0, nslice := 0, acc := .whole },
    .softmaxF 0 0 65537, .softmaxF 0 0 0, .wcbIdleFlush 4 0 0, .wcbIdleFlush 0 128 0, .patrolScrubRead (.hbm 8) false,
    .patrolScrubRead (.baseStore 4) false, .patrolScrubRead (.coreStore 576) false, .halt (msg 7 0 0 0 0), .hbmRecalibration 8,
    .vatToken 65536 0, .suspectReplayJudged (.spareFault 576), .d2dLinkLoss (.bridge 4), .d2dLinkLoss (.hub 4), .storageWriteAck 8,
    .flitNull 6 (flit 0 0 232), .flitNull 0 { (flit 0 0 0) with payload := [] }, .peerRecord 0 [], .torusAccept 6, .laneMap 0 [],
    .signalDetect 0 (2 ^ 34), .equalizationComplete 0 [34], .flapDecay 0 34, .lossOfSignal 0 35 false, .d2dLaneFault .expansion 12 false,
    .diePllLoss 4, .thermalTripComparator (.die 4) 0, .thermalTripComparator (.stack 8) 0,
    .sensorSample { inputMv := 0, inputMa := 0, inputW := 0, inletMc := 0, outletMc := 0, dieMc := [], hubMc := 0, hbmMc := [] },
    .ethernetLinkUp 5 0, .ethernetLinkUp 0 2] : List Instr).all (fun i => !i.wf) = true := by decide +kernel
/-- No row of the table has bits. -/
theorem test_no_word : decodeTableWord 32 0xFFFFFFFF = none := rfl

end Sys2Proof.Tests
end

