-- ==== Sys2Proof/Proofs/ExecKeeps.lean ====
section
/-! PROOF of O59. `Keeps s₀ s`: the state s that a command has come to has the grade and the waiting commands of the state s₀ in which
it began, as many torus ports, and what s₀ had sent at the front of what it has sent. It is reflexive, and each operation of the model
that answers a state keeps it: one lemma per operation, in the model's order, each assembled from the lemmas of the operations it calls.
Only three kinds of operation touch the four parts at all: `State.emit` and `State.emits` (they append), `State.setLink` (it replaces
one entry), and `State.wipe` (it renews every entry). All others change further fields, by `Keeps.withPower` and its like. -/

namespace Sys2Proof.Machine

section
variable {s₀ s : State}

/-! ### The relation, and the forms in which an operation answers -/

/-- What no command takes back: t has the grade and the waiting commands of s, as many torus ports, and has sent what s had sent, and
perhaps more. -/
structure Keeps (s t : State) : Prop where
  grade : t.grade = s.grade
  pending : t.pending = s.pending
  sent : s.out <+: t.out
  ports : t.links.length = s.links.length

/-- `Keeps` of the next state, where there is one. -/
def OutKeeps (s : State) : Out → Prop
  | .next t => Keeps s t
  | _ => True

/-- `Keeps` of the state that an operation may answer. -/
def OptKeeps (s : State) : Option State → Prop
  | some t => Keeps s t
  | none => True

/-- A plan's effect keeps, whatever state it is run on. -/
def PlanKeeps (p : Plan) : Prop := ∀ s t : State, Keeps s t → Keeps s (p.effect t)

theorem PlanKeeps.cmd {status : Nat} {r : List Nat} {effect : State → State} (he : ∀ s t, Keeps s t → Keeps s (effect t)) :
    PlanKeeps (Plan.cmd status r effect) := he

theorem Keeps.refl (s : State) : Keeps s s := ⟨rfl, rfl, List.prefix_rfl, rfl⟩

/-- A state that differs only in other fields. -/
theorem Keeps.congr {t : State} (hs : Keeps s₀ s) (hg : t.grade = s.grade) (hp : t.pending = s.pending) (ho : t.out = s.out)
    (hl : t.links.length = s.links.length) : Keeps s₀ t :=
  ⟨hg.trans hs.grade, hp.trans hs.pending, ho ▸ hs.sent, hl.trans hs.ports⟩

theorem Keeps.ite {c : Prop} [Decidable c] {t u : State} (ht : Keeps s₀ t) (hu : Keeps s₀ u) : Keeps s₀ (if c then t else u) := by
  split <;> assumption

theorem OutKeeps.ite {c : Prop} [Decidable c] {t u : Out} (ht : OutKeeps s₀ t) (hu : OutKeeps s₀ u) :
    OutKeeps s₀ (if c then t else u) := by
  split <;> assumption

theorem Keeps.foldl {α : Type} {l : List α} {f : State → α → State} (hs : Keeps s₀ s)
    (hf : ∀ t x, Keeps s₀ t → Keeps s₀ (f t x)) : Keeps s₀ (l.foldl f s) := by
  induction l generalizing s with
  | nil => exact hs
  | cons x l ih => exact ih (hf s x hs)

theorem PlanKeeps.ite {c : Prop} [Decidable c] {p q : Plan} (hp : PlanKeeps p) (hq : PlanKeeps q) :
    PlanKeeps (if c then p else q) := by
  split <;> assumption

theorem OptKeeps.ite {c : Prop} [Decidable c] {t u : Option State} (ht : OptKeeps s₀ t) (hu : OptKeeps s₀ u) :
    OptKeeps s₀ (if c then t else u) := by
  split <;> assumption

theorem OptKeeps.some {o : Option State} (ho : OptKeeps s₀ o) (he : o = some s) : Keeps s₀ s := by
  subst he
  exact ho

theorem OptKeeps.of_map {α : Type} {f : α → State} {o : Option α} {a : α} (ho : OptKeeps s₀ (o.map f)) (he : o = Option.some a) :
    Keeps s₀ (f a) := by
  subst he
  exact ho

theorem OptKeeps.map_of_map {α : Type} {f g : α → State} {o : Option α} (ho : OptKeeps s₀ (o.map f))
    (hg : ∀ a, Keeps s₀ (f a) → Keeps s₀ (g a)) : OptKeeps s₀ (o.map g) := by
  cases o with
  | none => exact trivial
  | some a => exact hg a ho

theorem OptKeeps.map {f : State → State} {o : Option State} (ho : OptKeeps s₀ o) (hf : ∀ t, Keeps s₀ t → Keeps s₀ (f t)) :
    OptKeeps s₀ (o.map f) := by
  cases o with
  | none => exact trivial
  | some t => exact hf t ho

theorem Keeps.foldl_fst {α β : Type} {l : List α} {f : State × β → α → State × β} {r : State × β} (hr : Keeps s₀ r.1)
    (hf : ∀ r x, Keeps s₀ r.1 → Keeps s₀ (f r x).1) : Keeps s₀ (l.foldl f r).1 := by
  induction l generalizing r with
  | nil => exact hr
  | cons x l ih => exact ih (hf r x hr)

/-! ### One field changed -/

theorem Keeps.withPower {v : Power} (hs : Keeps s₀ s) : Keeps s₀ { s with power := v } := hs.congr rfl rfl rfl rfl
theorem Keeps.withMstate {v : MState} (hs : Keeps s₀ s) : Keeps s₀ { s with mstate := v } := hs.congr rfl rfl rfl rfl
theorem Keeps.withObj {v : SMap Nat} (hs : Keeps s₀ s) : Keeps s₀ { s with obj := v } := hs.congr rfl rfl rfl rfl
theorem Keeps.withUptimeMs {v : Nat} (hs : Keeps s₀ s) : Keeps s₀ { s with uptimeMs := v } := hs.congr rfl rfl rfl rfl
theorem Keeps.withLogicalMap {v : SMap Nat} (hs : Keeps s₀ s) : Keeps s₀ { s with logicalMap := v } := hs.congr rfl rfl rfl rfl
theorem Keeps.withCores {v : SMap Core} (hs : Keeps s₀ s) : Keeps s₀ { s with cores := v } := hs.congr rfl rfl rfl rfl
theorem Keeps.withMem {v : Mem} (hs : Keeps s₀ s) : Keeps s₀ { s with mem := v } := hs.congr rfl rfl rfl rfl
theorem Keeps.withImage {v : Option Image} (hs : Keeps s₀ s) : Keeps s₀ { s with image := v } := hs.congr rfl rfl rfl rfl
theorem Keeps.withStreams {v : List Stream} (hs : Keeps s₀ s) : Keeps s₀ { s with streams := v } := hs.congr rfl rfl rfl rfl
theorem Keeps.withSteps {v : Steps} (hs : Keeps s₀ s) : Keeps s₀ { s with steps := v } := hs.congr rfl rfl rfl rfl
theorem Keeps.withLedger {v : Ledger} (hs : Keeps s₀ s) : Keeps s₀ { s with ledger := v } := hs.congr rfl rfl rfl rfl
theorem Keeps.withMirror {v : Mirror} (hs : Keeps s₀ s) : Keeps s₀ { s with mirror := v } := hs.congr rfl rfl rfl rfl
theorem Keeps.withCkpt {v : Ckpt} (hs : Keeps s₀ s) : Keeps s₀ { s with ckpt := v } := hs.congr rfl rfl rfl rfl
theorem Keeps.withSessions {v : List Session} (hs : Keeps s₀ s) : Keeps s₀ { s with sessions := v } := hs.congr rfl rfl rfl rfl
theorem Keeps.withWindows {v : List Window} (hs : Keeps s₀ s) : Keeps s₀ { s with windows := v } := hs.congr rfl rfl rfl rfl
theorem Keeps.withStorage {v : List StorageQp} (hs : Keeps s₀ s) : Keeps s₀ { s with storage := v } := hs.congr rfl rfl rfl rfl
theorem Keeps.withPfc {v : SMap Nat} (hs : Keeps s₀ s) : Keeps s₀ { s with pfc := v } := hs.congr rfl rfl rfl rfl
theorem Keeps.withJoins {v : SMap JoinSt} (hs : Keeps s₀ s) : Keeps s₀ { s with joins := v } := hs.congr rfl rfl rfl rfl
theorem Keeps.withFw {v : Firmware} (hs : Keeps s₀ s) : Keeps s₀ { s with fw := v } := hs.congr rfl rfl rfl rfl
theorem Keeps.withLogBuf {v : List EventRec} (hs : Keeps s₀ s) : Keeps s₀ { s with logBuf := v } := hs.congr rfl rfl rfl rfl
theorem Keeps.withArmed {v : SMap Nat} (hs : Keeps s₀ s) : Keeps s₀ { s with armed := v } := hs.congr rfl rfl rfl rfl
theorem Keeps.withProving {v : Proving} (hs : Keeps s₀ s) : Keeps s₀ { s with proving := v } := hs.congr rfl rfl rfl rfl
theorem Keeps.withJobs {v : Jobs} (hs : Keeps s₀ s) : Keeps s₀ { s with jobs := v } := hs.congr rfl rfl rfl rfl
theorem Keeps.withTap {v : Tap} (hs : Keeps s₀ s) : Keeps s₀ { s with tap := v } := hs.congr rfl rfl rfl rfl
theorem Keeps.withRecalAt {v : SMap Int} (hs : Keeps s₀ s) : Keeps s₀ { s with recalAt := v } := hs.congr rfl rfl rfl rfl
theorem Keeps.withLoadReport {v : List Byte} (hs : Keeps s₀ s) : Keeps s₀ { s with loadReport := v } := hs.congr rfl rfl rfl rfl
theorem Keeps.withAttestReport {v : List Byte} (hs : Keeps s₀ s) : Keeps s₀ { s with attestReport := v } := hs.congr rfl rfl rfl rfl
theorem Keeps.withCauseLog {v : List Nat} (hs : Keeps s₀ s) : Keeps s₀ { s with causeLog := v } := hs.congr rfl rfl rfl rfl
theorem Keeps.withFrozenStale {v : Bool} (hs : Keeps s₀ s) : Keeps s₀ { s with frozenStale := v } := hs.congr rfl rfl rfl rfl
theorem Keeps.withHistogram {v : SMap Nat} (hs : Keeps s₀ s) : Keeps s₀ { s with histogram := v } := hs.congr rfl rfl rfl rfl
theorem Keeps.withFresh {v : Nat} (hs : Keeps s₀ s) : Keeps s₀ { s with fresh := v } := hs.congr rfl rfl rfl rfl

/-! ### Sys2Proof/Machine/Ops.lean -/

theorem Keeps.put {key v : Nat} (hs : Keeps s₀ s) : Keeps s₀ (s.put key v) := hs.withObj

theorem Keeps.bump64 {key n : Nat} (hs : Keeps s₀ s) : Keeps s₀ (s.bump64 key n) := hs.put

theorem Keeps.bump32 {key n : Nat} (hs : Keeps s₀ s) : Keeps s₀ (s.bump32 key n) := hs.put

theorem Keeps.setCore {p : Nat} {c : Core} (hs : Keeps s₀ s) : Keeps s₀ (s.setCore p c) := hs.withCores

theorem Keeps.draw (hs : Keeps s₀ s) : Keeps s₀ s.draw.2 := hs.withFresh

/-- Sending adds at the end of what has been sent. -/
theorem Keeps.emit {m : OutMsg} (hs : Keeps s₀ s) : Keeps s₀ (s.emit m) :=
  ⟨hs.grade, hs.pending, hs.sent.trans (List.prefix_append _ _), hs.ports⟩

theorem Keeps.emits {l : List OutMsg} (hs : Keeps s₀ s) : Keeps s₀ (s.emits l) :=
  ⟨hs.grade, hs.pending, hs.sent.trans (List.prefix_append _ _), hs.ports⟩

theorem Keeps.setSession {e : Session} (hs : Keeps s₀ s) : Keeps s₀ (s.setSession e) := hs.withSessions

theorem Keeps.alert {b : Nat} (hs : Keeps s₀ s) : Keeps s₀ (s.alert b) := hs.put.bump32

theorem Keeps.eventTo {e : EventRec} {q : Session} (hs : Keeps s₀ s) : Keeps s₀ (s.eventTo e q) :=
  .ite (.ite hs.setSession.emit hs.bump64.alert) hs

theorem Keeps.flushLog (hs : Keeps s₀ s) : Keeps s₀ s.flushLog := by
  unfold State.flushLog
  exact hs.congr rfl rfl rfl rfl

theorem Keeps.logEvent {e : EventRec} (hs : Keeps s₀ s) : Keeps s₀ (s.logEvent e) := .ite hs.withLogBuf.flushLog hs.withLogBuf

theorem Keeps.raiseAt {code step arg0 arg1 : Nat} (hs : Keeps s₀ s) : Keeps s₀ (s.raiseAt code step arg0 arg1) := by
  unfold State.raiseAt
  refine .ite hs ?_
  extract_lets e s1 s2
  have h2 : Keeps s₀ s2 := by
    unfold s2
    split
    · exact hs.bump64.logEvent.alert
    · exact hs.bump64.logEvent
  exact h2.foldl fun _ _ ht => ht.eventTo

theorem Keeps.raise {code arg0 arg1 : Nat} (hs : Keeps s₀ s) : Keeps s₀ (s.raise code arg0 arg1) := hs.raiseAt

theorem Keeps.setM {m : MState} (hs : Keeps s₀ s) : Keeps s₀ (s.setM m) := .ite hs (.ite hs.withMstate.raise.raise hs.withMstate.raise)

theorem Keeps.toRing {q : Session} {via : Option Nat} {r : Rec} (hs : Keeps s₀ s) : Keeps s₀ (s.toRing q via r) := by
  unfold State.toRing
  extract_lets route s1 s2
  refine .ite hs.setSession.emits ?_
  refine .ite (.ite hs.setSession hs.setSession.emit) ?_
  exact .ite hs.bump64 hs.bump64.setSession.emit

theorem Keeps.record {h : Hnd} {r : Rec} (hs : Keeps s₀ s) : Keeps s₀ (s.record h r) := by
  unfold State.record
  split
  · exact hs.bump64
  · extract_lets q1 mode s1 s2
    have h2 : Keeps s₀ s2 := .ite hs.setSession.toRing hs.setSession
    split
    · exact h2
    · exact .ite h2 h2.setSession.emit

theorem Keeps.complete {h : Hnd} {status : Nat} {r : List Nat} (hs : Keeps s₀ s) : Keeps s₀ (s.complete h status r) := hs.record

theorem Keeps.complete? {h : Option Hnd} {status : Nat} {r : List Nat} (hs : Keeps s₀ s) : Keeps s₀ (s.complete? h status r) := by
  unfold State.complete?
  split
  · exact hs
  · exact hs.complete

/-! ### Sys2Proof/Machine/Memory.lean -/

theorem Keeps.poisonLine {la : Nat} (hs : Keeps s₀ s) : Keeps s₀ (s.poisonLine la) := .ite hs (.ite hs.withMem hs.withMem)

theorem Keeps.cleanLine {la : Nat} (hs : Keeps s₀ s) : Keeps s₀ (s.cleanLine la) := hs.withMem

theorem Keeps.flushEntry {e : WcbEntry} (hs : Keeps s₀ s) : Keeps s₀ (s.flushEntry e) :=
  .ite hs.withMem.bump64.poisonLine (.ite hs.withMem.bump64.cleanLine hs.withMem.bump64)

theorem Keeps.flushWhere {p : WcbEntry → Bool} (hs : Keeps s₀ s) : Keeps s₀ (s.flushWhere p) := hs.foldl fun _ _ ht => ht.flushEntry

theorem Keeps.flushDue {die pc : Nat} {due : WcbEntry → Bool} (hs : Keeps s₀ s) : Keeps s₀ (s.flushDue die pc due) :=
  hs.foldl fun _ _ ht => ht.flushEntry

theorem Keeps.wcbEnter {die line : Nat} {mask : BitVec 64} {data : Line} {poison : Bool} (hs : Keeps s₀ s) :
    Keeps s₀ (s.wcbEnter die line mask data poison) := by
  unfold State.wcbEnter
  refine .ite hs.withMem ?_
  extract_lets s1 src
  have h1 : Keeps s₀ s1 := by
    unfold s1
    split
    · exact hs
    · exact .ite hs.flushEntry hs
  exact h1.withMem

theorem Keeps.wcbWrite {die line : Nat} {mask : BitVec 64} {data : Line} {poison : Bool} (hs : Keeps s₀ s) :
    Keeps s₀ (s.wcbWrite die line mask data poison) :=
  .ite hs.wcbEnter hs.wcbEnter.flushDue

theorem Keeps.hbmWriteGo {a : Nat} {bytes : List Byte} {poison : Bool} {k : Nat} (hs : Keeps s₀ s) :
    Keeps s₀ (s.hbmWriteGo a bytes poison k) := by
  induction k generalizing s a bytes with
  | zero => exact hs
  | succ k ih => exact .ite hs (ih hs.wcbWrite)

theorem Keeps.hbmWrite {a : Nat} {bytes : List Byte} {poison : Bool} (hs : Keeps s₀ s) : Keeps s₀ (s.hbmWrite a bytes poison) :=
  hs.hbmWriteGo

theorem Keeps.makeWay {b n : Nat} (hs : Keeps s₀ s) : Keeps s₀ (s.makeWay b n) :=
  .ite hs (hs.foldl fun _ _ ht => (ht.foldl fun _ _ hu => hu.flushEntry).withMem)

theorem Keeps.hbmCopy {a b n : Nat} (hs : Keeps s₀ s) : Keeps s₀ (s.hbmCopy a b n) :=
  hs.makeWay.withMem.bump64.foldl fun _ _ ht => ht.poisonLine

theorem Keeps.hbmZero {a n : Nat} (hs : Keeps s₀ s) : Keeps s₀ (s.hbmZero a n) := hs.makeWay.withMem.bump64

theorem Keeps.baseWrite {key : Nat} {bytes : List Byte} {poison : Bool} (hs : Keeps s₀ s) : Keeps s₀ (s.baseWrite key bytes poison) :=
  hs.withMem

theorem Keeps.cacheRead {la : Nat} (hs : Keeps s₀ s) : Keeps s₀ (s.cacheRead la) :=
  .ite hs.bump64 (.ite hs.bump64 (.ite hs.bump64.withMem hs.bump64.withMem))

theorem Keeps.setGran {g : Nat} {r : Gran} (hs : Keeps s₀ s) : Keeps s₀ (s.setGran g r) := hs.withMem

theorem Keeps.onWritten {n : Nat} {f : Gran → Gran} (hs : Keeps s₀ s) : Keeps s₀ (s.onWritten n f) := hs.withMem

/-! ### Sys2Proof/Machine/Coord.lean -/

theorem Keeps.setCoreState {p v : Nat} (hs : Keeps s₀ s) : Keeps s₀ (s.setCoreState p v) := hs.put

theorem Keeps.setLcore {l : Nat} {p : Option Nat} (hs : Keeps s₀ s) : Keeps s₀ (s.setLcore l p) := hs.withLogicalMap

theorem Keeps.updStep {n : Nat} {f : StepRec → StepRec} (hs : Keeps s₀ s) : Keeps s₀ (s.updStep n f) := hs.withSteps

theorem Keeps.setStepSt {n : Nat} {st : StepSt} (hs : Keeps s₀ s) : Keeps s₀ (s.setStepSt n st) := hs.updStep

/-! ### Sys2Proof/Machine/TorusOps.lean -/

/-- One of the two ways a torus port changes (the other: `State.wipe`): its entry of the list is replaced. -/
theorem Keeps.setLink {p : Nat} {l : Link} (hs : Keeps s₀ s) : Keeps s₀ (s.setLink p l) := hs.congr rfl rfl rfl List.length_set

theorem Keeps.controlFlit {p : Nat} {record : List Byte} (hs : Keeps s₀ s) : Keeps s₀ (s.controlFlit p record) :=
  .ite hs.setLink.emit hs.emit

theorem Keeps.putFlit {p header : Nat} {payload : List Byte} (hs : Keeps s₀ s) : Keeps s₀ (s.putFlit p header payload) :=
  .ite hs.setLink.emit.controlFlit hs.setLink.emit

theorem Keeps.sendNull {p : Nat} {nak : Bool} (hs : Keeps s₀ s) : Keeps s₀ (s.sendNull p nak) := .ite hs hs.setLink.putFlit

theorem Keeps.returnOwed {p k : Nat} (hs : Keeps s₀ s) : Keeps s₀ (s.returnOwed p k) := by
  induction k generalizing s with
  | zero => exact hs
  | succ k ih => exact .ite hs (ih hs.sendNull)

theorem Keeps.leaveBuffer {p cls : Nat} (hs : Keeps s₀ s) : Keeps s₀ (s.leaveBuffer p cls) := hs.setLink.returnOwed

theorem Keeps.sendOne {p : Nat} {e : Nat × Flit} (hs : Keeps s₀ s) : Keeps s₀ (s.sendOne p e) :=
  .ite hs.setLink.putFlit.leaveBuffer hs.setLink.putFlit

theorem Keeps.drainPort {p k : Nat} (hs : Keeps s₀ s) : Keeps s₀ (s.drainPort p k) := by
  induction k generalizing s with
  | zero => exact hs
  | succ k ih =>
    unfold State.drainPort
    refine .ite hs ?_
    split
    · exact hs
    · exact ih hs.sendOne

theorem Keeps.queueFlit {p from_ : Nat} {f : Flit} (hs : Keeps s₀ s) : Keeps s₀ (s.queueFlit p from_ f) := hs.setLink.drainPort

theorem Keeps.sendFlit {ftype cls dst tag : Nat} {payload : List Byte} {offset poison : Nat} (hs : Keeps s₀ s) :
    Keeps s₀ (s.sendFlit ftype cls dst tag payload offset poison) := by
  unfold State.sendFlit
  split
  · exact hs
  · exact hs.queueFlit

theorem Keeps.sendUnitBytes {cls dst tag : Nat} {bytes : List Byte} {poison : Bool} (hs : Keeps s₀ s) :
    Keeps s₀ (s.sendUnitBytes cls dst tag bytes poison) := by
  unfold State.sendUnitBytes
  split
  · exact hs
  · split
    · exact hs.queueFlit
    · exact .ite hs.setLink hs.setLink.queueFlit

theorem Keeps.nextMsg (hs : Keeps s₀ s) : Keeps s₀ s.nextMsg := hs.withSteps

theorem Keeps.sendOn {ports : List Nat} {f : Flit} (hs : Keeps s₀ s) : Keeps s₀ (s.sendOn ports f) :=
  hs.foldl fun _ _ ht => ht.queueFlit

theorem Keeps.flood {tag step word value : Nat} (hs : Keeps s₀ s) : Keeps s₀ (s.flood tag step word value) := .ite hs hs.nextMsg.sendOn

theorem Keeps.sendParent {tag step word value : Nat} (hs : Keeps s₀ s) : Keeps s₀ (s.sendParent tag step word value) :=
  hs.nextMsg.sendOn

theorem Keeps.sendClass1 {dst tag step word value : Nat} {data : List Byte} (hs : Keeps s₀ s) :
    Keeps s₀ (s.sendClass1 dst tag step word value data) :=
  hs.nextMsg.foldl fun _ _ ht => ht.sendFlit

/-! ### Sys2Proof/Machine/Cut.lean -/

theorem Keeps.pinBlock {c : Nat} {b : Nat × Nat} (hs : Keeps s₀ s) : Keeps s₀ (State.pinBlock c s b) := .ite hs hs.setGran

theorem Keeps.unpinBlock {c : Nat} {b : Nat × Nat} (hs : Keeps s₀ s) : Keeps s₀ (State.unpinBlock c s b) := .ite hs hs.setGran

theorem Keeps.storeWrite {what : StoreFor} {record addr : Nat} {data : List Byte} (hs : Keeps s₀ s) :
    Keeps s₀ (s.storeWrite what record addr data) :=
  hs.withCkpt.emit

theorem Keeps.orphan {p : StoreFor → Bool} (hs : Keeps s₀ s) : Keeps s₀ (s.orphan p) := hs.withCkpt

theorem Keeps.settleCut (hs : Keeps s₀ s) : Keeps s₀ s.settleCut := .ite hs hs.put

theorem Keeps.endCut {status : Nat} {r : List Nat} (hs : Keeps s₀ s) : Keeps s₀ (s.endCut status r) :=
  hs.withCkpt.orphan.settleCut.complete?

theorem Keeps.invalidateManifest {h : Hnd} (hs : Keeps s₀ s) : Keeps s₀ (s.invalidateManifest h) := by
  unfold State.invalidateManifest
  extract_lets slot src s1 s2
  split
  · exact hs.withCkpt.put.put.put.raise.endCut
  · exact hs.withCkpt.put.put.storeWrite

theorem Keeps.nextCheckpoint (hs : Keeps s₀ s) : Keeps s₀ s.nextCheckpoint := by
  unfold State.nextCheckpoint
  split
  · exact hs.withCkpt.invalidateManifest
  · exact hs

theorem Keeps.failCut {cause : Nat} (hs : Keeps s₀ s) : Keeps s₀ (s.failCut cause) := .ite hs hs.put.raise.endCut.nextCheckpoint

theorem Keeps.writeManifest (hs : Keeps s₀ s) : Keeps s₀ s.writeManifest := by
  unfold State.writeManifest
  extract_lets c slot
  split
  · exact hs.failCut
  · exact hs.put.storeWrite

theorem Keeps.gather (hs : Keeps s₀ s) : Keeps s₀ s.gather := .ite hs.writeManifest hs

theorem Keeps.shardReport {r : ShardRep} (hs : Keeps s₀ s) : Keeps s₀ (s.shardReport r) :=
  .ite hs (.ite hs.failCut (.ite hs.failCut hs.withCkpt.gather))

theorem Keeps.reportShard {old : Bool} {r : ShardRep} (hs : Keeps s₀ s) : Keeps s₀ (s.reportShard old r) :=
  .ite (.ite hs hs.shardReport) hs.sendClass1

theorem Keeps.shardFailed {h : Shard} {cause : Nat} (hs : Keeps s₀ s) : Keeps s₀ (s.shardFailed h cause) := by
  unfold State.shardFailed
  extract_lets s1 s2
  have h1 : Keeps s₀ s1 := hs.foldl fun _ _ ht => ht.unpinBlock
  have h2 : Keeps s₀ s2 := h1.bump32.put.raise.settleCut
  exact .ite h2 h2.reportShard

theorem Keeps.failShard {cause : Nat} (hs : Keeps s₀ s) : Keeps s₀ (s.failShard cause) := by
  unfold State.failShard
  split
  · exact hs
  · exact hs.withCkpt.orphan.shardFailed

theorem Keeps.advanceShard (hs : Keeps s₀ s) : Keeps s₀ s.advanceShard := by
  unfold State.advanceShard
  split
  · exact hs
  · exact .ite hs (.ite hs.failShard (.ite hs.withCkpt.storeWrite hs.withCkpt.storeWrite))

theorem Keeps.nextShard (hs : Keeps s₀ s) : Keeps s₀ s.nextShard := by
  unfold State.nextShard
  split
  · exact .ite hs hs.withCkpt.advanceShard
  · exact hs

theorem Keeps.failShards {p : Shard → Bool} {cause : Nat} (hs : Keeps s₀ s) : Keeps s₀ (s.failShards p cause) :=
  ((Keeps.ite hs.failShard hs).withCkpt.foldl fun _ _ ht => ht.shardFailed).nextShard

theorem Keeps.actOnCut {c slot : Nat} {old : Bool} (hs : Keeps s₀ s) : Keeps s₀ (s.actOnCut c slot old) := by
  unfold State.actOnCut
  extract_lets h s1 src
  have h1 : Keeps s₀ s1 := hs.foldl fun _ _ ht => ht.pinBlock
  split
  · exact h1.shardFailed
  · exact h1.withCkpt.nextShard

theorem Keeps.cutsGo {k : Nat} (hs : Keeps s₀ s) : Keeps s₀ (s.cutsGo k) := by
  induction k generalizing s with
  | zero => exact hs
  | succ k ih =>
    unfold State.cutsGo
    split
    · exact hs
    · exact .ite (ih hs.withCkpt.actOnCut) (.ite (ih hs.withCkpt.shardFailed) hs)

theorem Keeps.settleCuts (hs : Keeps s₀ s) : Keeps s₀ s.settleCuts := hs.cutsGo

theorem Keeps.takeCut {c slot : Nat} (hs : Keeps s₀ s) : Keeps s₀ (s.takeCut c slot) := hs.withCkpt.put.put.put

theorem Keeps.declareStopped (hs : Keeps s₀ s) : Keeps s₀ s.declareStopped := .ite hs.flood.takeCut.settleCuts hs

theorem Keeps.cutOnHalt (hs : Keeps s₀ s) : Keeps s₀ s.cutOnHalt := .ite hs.failCut hs

theorem Keeps.storageLost {n : Nat} (hs : Keeps s₀ s) : Keeps s₀ (s.storageLost n) := by
  unfold State.storageLost
  extract_lets gone src s1 s2
  have h2 : Keeps s₀ s2 := .ite hs.withCkpt.failShard hs.withCkpt
  exact (Keeps.ite h2.failCut h2).nextShard

/-! ### Sys2Proof/Machine/MirrorOps.lean -/

theorem Keeps.sendPartner {tag step word value : Nat} {data : List Byte} (hs : Keeps s₀ s) :
    Keeps s₀ (s.sendPartner tag step word value data) :=
  hs.sendClass1

theorem Keeps.mapGrans {f : Nat → Gran → Gran} (hs : Keeps s₀ s) : Keeps s₀ (s.mapGrans f) := hs.withMem

theorem Keeps.markDirty {gs : List Nat} (hs : Keeps s₀ s) : Keeps s₀ (s.markDirty gs) := hs.foldl fun _ _ ht => ht.setGran

theorem Keeps.unpinMirror (hs : Keeps s₀ s) : Keeps s₀ s.unpinMirror := hs.mapGrans

theorem Keeps.abandonDelta (hs : Keeps s₀ s) : Keeps s₀ s.abandonDelta := by
  unfold State.abandonDelta
  split
  · exact hs
  · extract_lets row s1 src s2
    have h1 : Keeps s₀ s1 := hs.unpinMirror.markDirty.bump64
    exact .ite h1.withMirror.raise h1.withMirror

theorem Keeps.yieldDelta (hs : Keeps s₀ s) : Keeps s₀ s.yieldDelta := by
  unfold State.yieldDelta
  split
  · exact hs
  · exact hs.sendPartner.abandonDelta

theorem Keeps.countHeld {h : Held} {counter : Nat} (hs : Keeps s₀ s) : Keeps s₀ (s.countHeld h counter) := .ite hs hs.withMem.bump64

theorem Keeps.dropHeld {who : Option (Nat × Nat × Nat)} (hs : Keeps s₀ s) : Keeps s₀ (s.dropHeld who) := hs.withMem

theorem Keeps.paceGranule {who : Option (Nat × Nat × Nat)} {g : Nat} (hs : Keeps s₀ s) : Keeps s₀ (s.paceGranule who g) := by
  unfold State.paceGranule
  split
  · exact hs
  · exact hs.withMirror.countHeld

theorem Keeps.cutStall {who : Option (Nat × Nat × Nat)} {b : Nat × Nat} (hs : Keeps s₀ s) : Keeps s₀ (s.cutStall who b) :=
  hs.withCkpt.countHeld

theorem Keeps.holdWrites {wait : State → Nat → Wait} {who : Option (Nat × Nat × Nat)} {gs : List Nat} (hs : Keeps s₀ s) :
    Keeps s₀ (s.holdWrites wait who gs).2 := by
  induction gs generalizing s with
  | nil => exact hs
  | cons g gs ih =>
    unfold State.holdWrites
    split
    · exact ih hs
    · exact hs
    · exact hs.paceGranule
    · exact ih hs.yieldDelta
    · exact hs.cutStall

/-! ### Sys2Proof/Machine/Vats.lean -/

theorem Keeps.toVat {v : Nat} {e : VatEntry} (hs : Keeps s₀ s) : Keeps s₀ (s.toVat v e) := .ite hs hs.withSteps

theorem Keeps.popVat {v : Nat} (hs : Keeps s₀ s) : Keeps s₀ (s.popVat v) := hs.withSteps

theorem Keeps.passDown (hs : Keeps s₀ s) : Keeps s₀ s.passDown := by
  unfold State.passDown
  refine hs.foldl fun _ _ ht => ?_
  split
  · exact ht.popVat.foldl fun _ _ hu => hu.toVat
  · exact ht

theorem Keeps.driveVat {v : Nat} {e : VatEntry} {act : State → State} (hs : Keeps s₀ s)
    (ha : ∀ t, Keeps s₀ t → Keeps s₀ (act t)) : Keeps s₀ (s.driveVat v e act) :=
  (ha _ hs.toVat.passDown).foldl fun _ _ ht => ht.popVat

/-! ### Sys2Proof/Machine/Steps.lean -/

theorem Keeps.issueStep {n : Nat} (hs : Keeps s₀ s) : Keeps s₀ (s.issueStep n) := hs.withSteps

theorem Keeps.issue (hs : Keeps s₀ s) : Keeps s₀ s.issue := hs.foldl fun _ _ ht => .ite ht.issueStep ht

theorem Keeps.stepRecord {r : StepRec} {status st r0 r1 : Nat} (hs : Keeps s₀ s) : Keeps s₀ (s.stepRecord r status st r0 r1) := by
  unfold State.stepRecord
  split
  · exact hs
  · exact hs.record

theorem Keeps.finalRecord (hs : Keeps s₀ s) : Keeps s₀ s.finalRecord := by
  unfold State.finalRecord
  split
  · exact hs
  · exact hs.withSteps.record

theorem Keeps.withdraw (hs : Keeps s₀ s) : Keeps s₀ s.withdraw := hs.withSteps

theorem Keeps.pendStop (hs : Keeps s₀ s) : Keeps s₀ s.pendStop := hs.withSteps.withdraw

theorem Keeps.enterStopped (hs : Keeps s₀ s) : Keeps s₀ s.enterStopped := by
  unfold State.enterStopped
  extract_lets h s1 src s2 s3 s4
  have h3 : Keeps s₀ s3 := hs.setM.withSteps.foldl fun _ _ ht => ht.complete
  have h4 : Keeps s₀ s4 := .ite h3 h3.finalRecord
  exact h4.declareStopped

theorem Keeps.checkStop (hs : Keeps s₀ s) : Keeps s₀ s.checkStop := .ite hs.enterStopped hs

theorem Keeps.releaseJournal {n : Nat} (hs : Keeps s₀ s) : Keeps s₀ (s.releaseJournal n) := hs.withLedger

theorem Keeps.readyHistory {n g : Nat} (hs : Keeps s₀ s) : Keeps s₀ (s.readyHistory n g) := hs.hbmCopy.setGran

theorem Keeps.writeHistory {im : Image} {r : StepRec} (hs : Keeps s₀ s) : Keeps s₀ (s.writeHistory im r) :=
  (hs.foldl fun _ _ ht => ht.readyHistory).foldl fun _ _ ht => ht.hbmWrite

theorem Keeps.addHistory {r : StepRec} (hs : Keeps s₀ s) : Keeps s₀ (s.addHistory r) := by
  unfold State.addHistory
  extract_lets s1 src
  have h1 : Keeps s₀ s1 := by
    unfold s1
    split
    · exact hs
    · exact .ite hs hs.writeHistory
  exact h1.withLedger

theorem Keeps.fixStep {r : StepRec} (hs : Keeps s₀ s) : Keeps s₀ (s.fixStep r) := by
  unfold State.fixStep
  extract_lets s1 src s2 s3 s4 s5 src1 s6
  have h1 : Keeps s₀ s1 := hs.addHistory.onWritten.releaseJournal
  have h4 : Keeps s₀ s4 := .ite h1.withLedger.put.put h1.withLedger.put
  split
  · exact h4.setStepSt.withLedger.stepRecord
  · exact h4.setStepSt.withLedger.bump64.raiseAt.stepRecord

theorem Keeps.fixGo {g k : Nat} (hs : Keeps s₀ s) : Keeps s₀ (s.fixGo g k) := by
  induction k generalizing s with
  | zero => exact hs
  | succ k ih =>
    unfold State.fixGo
    split
    · exact hs
    · exact .ite (.ite hs.holdWrites (ih hs.holdWrites.dropHeld.fixStep.settleCuts)) hs

theorem Keeps.dropSwatches {p : Nat → Bool} (hs : Keeps s₀ s) : Keeps s₀ (s.dropSwatches p) := hs.withCores

theorem Keeps.discardStep {r : StepRec} {cause : Nat} (hs : Keeps s₀ s) : Keeps s₀ (s.discardStep r cause) :=
  hs.onWritten.releaseJournal.dropSwatches.setStepSt.bump64.withLedger.stepRecord

theorem Keeps.discardWhere {p : StepRec → Bool} {cause : Nat} (hs : Keeps s₀ s) : Keeps s₀ (s.discardWhere p cause) :=
  (hs.foldl fun _ _ ht => ht.discardStep).settleCuts

theorem Keeps.discardAll (hs : Keeps s₀ s) : Keeps s₀ s.discardAll := hs.discardWhere

theorem Keeps.leaveRollback (hs : Keeps s₀ s) : Keeps s₀ s.leaveRollback := hs.withSteps.finalRecord

theorem Keeps.stopContexts {q p : Nat → Bool} (hs : Keeps s₀ s) : Keeps s₀ (s.stopContexts q p) := hs.congr rfl rfl rfl rfl

theorem Keeps.abandon {p : Nat → Bool} (hs : Keeps s₀ s) : Keeps s₀ (s.abandon p) :=
  hs.foldl fun _ _ ht => ht.driveVat fun _ hu => hu.stopContexts

theorem Keeps.resetStreams (hs : Keeps s₀ s) : Keeps s₀ s.resetStreams := by
  unfold State.resetStreams
  split
  · exact hs
  · exact hs.withStreams

theorem Keeps.dropBooks {r : Replay} (hs : Keeps s₀ s) : Keeps s₀ (s.dropBooks r) := by
  unfold State.dropBooks
  extract_lets a src
  exact hs.congr rfl rfl rfl rfl

theorem Keeps.dropReplays {p : Replay → Bool} (hs : Keeps s₀ s) : Keeps s₀ (s.dropReplays p) :=
  (hs.withLedger.foldl fun _ _ ht => ht.dropBooks).foldl fun _ _ ht => ht.setCore.setCoreState.put.put

theorem Keeps.resume (hs : Keeps s₀ s) : Keeps s₀ s.resume := by
  unfold State.resume
  split
  · exact hs
  · exact .ite hs.withSteps.setM.issue hs.withSteps

theorem Keeps.beginProving {p : Nat} (hs : Keeps s₀ s) : Keeps s₀ (s.beginProving p) := hs.setCoreState.setCore.put.withProving

theorem Keeps.proveMarked (hs : Keeps s₀ s) : Keeps s₀ s.proveMarked := by
  unfold State.proveMarked
  extract_lets mine src s'
  have h' : Keeps s₀ s' := hs.withProving.foldl fun _ _ ht => ht.beginProving
  exact .ite h' h'.setM

theorem Keeps.onTarget {t bad : Nat} (hs : Keeps s₀ s) : Keeps s₀ (s.onTarget t bad) := by
  unfold State.onTarget
  split
  · exact hs
  · refine .ite hs ?_
    extract_lets s1 s2 held src s3 s4
    have h2 : Keeps s₀ s2 := hs.put.fixGo.discardWhere
    have h4 : Keeps s₀ s4 := .ite h2.withSteps.checkStop (.ite h2.withSteps.finalRecord.declareStopped h2.withSteps)
    exact .ite h4.proveMarked h4

theorem Keeps.reportGo {k : Nat} (hs : Keeps s₀ s) : Keeps s₀ (s.reportGo k) := by
  induction k generalizing s with
  | zero => exact hs
  | succ k ih =>
    unfold State.reportGo
    split
    · exact hs
    · refine .ite hs ?_
      split
      · exact hs
      · refine .ite (.ite hs hs.withSteps.sendParent) ?_
        split
        · exact ih hs.draw.put.flood.onTarget
        · exact .ite hs.withSteps.flood.resume hs

theorem Keeps.report (hs : Keeps s₀ s) : Keeps s₀ s.report := hs.reportGo

theorem Keeps.logCause {cause origin msgId : Nat} (hs : Keeps s₀ s) : Keeps s₀ (s.logCause cause origin msgId) :=
  .ite hs.withCauseLog hs

theorem Keeps.markCores {ps : List Nat} (hs : Keeps s₀ s) : Keeps s₀ (s.markCores ps) := hs.withProving

theorem Keeps.leaveRecovery (hs : Keeps s₀ s) : Keeps s₀ s.leaveRecovery := by
  unfold State.leaveRecovery
  split
  · exact hs
  · exact hs.markCores.withLedger

theorem Keeps.haltSteps {cause : Nat} (hs : Keeps s₀ s) : Keeps s₀ (s.haltSteps cause) := by
  unfold State.haltSteps
  extract_lets s1 s2 keep s3
  have h1 : Keeps s₀ s1 := hs.abandon.stopContexts
  have h3 : Keeps s₀ s3 := h1.dropReplays.discardWhere
  exact h3.leaveRecovery.resetStreams

theorem Keeps.setRollback {b : Rollback} (hs : Keeps s₀ s) : Keeps s₀ (s.setRollback b) := hs.withSteps

theorem Keeps.mergeHalt {b : Rollback} (hs : Keeps s₀ s) : Keeps s₀ (s.mergeHalt b) := hs.withSteps.cutOnHalt.report

theorem Keeps.haltState (hs : Keeps s₀ s) : Keeps s₀ s.haltState := .ite hs.setM hs

theorem Keeps.firstHalt {cause : Nat} (hs : Keeps s₀ s) : Keeps s₀ (s.firstHalt cause) :=
  hs.cutOnHalt.haltSteps.setRollback.haltState.checkStop

theorem Keeps.haltActs {cause origin msgId : Nat} (hs : Keeps s₀ s) : Keeps s₀ (s.haltActs cause origin msgId) := by
  unfold State.haltActs
  extract_lets s1
  have h1 : Keeps s₀ s1 := hs.put.put.logCause.raise
  split
  · exact h1.mergeHalt
  · exact h1.firstHalt

theorem Keeps.stopAlone {cause : Nat} (hs : Keeps s₀ s) : Keeps s₀ (s.stopAlone cause) :=
  (Keeps.ite hs.cutOnHalt.haltSteps.fixGo.setM.checkStop hs.cutOnHalt.haltSteps.fixGo).raise

theorem Keeps.haltWave {cause : Nat} (hs : Keeps s₀ s) : Keeps s₀ (s.haltWave cause) :=
  .ite hs.withSteps (.ite hs.stopAlone hs.flood.bump64.haltActs)

theorem Keeps.granted {g : Nat} (hs : Keeps s₀ s) : Keeps s₀ (s.granted g) := .ite hs.put hs

theorem Keeps.checkEnd (hs : Keeps s₀ s) : Keeps s₀ s.checkEnd := by
  unfold State.checkEnd
  split
  · exact hs
  · exact .ite hs.pendStop.setM hs

theorem Keeps.settleFix (hs : Keeps s₀ s) : Keeps s₀ s.settleFix := hs.fixGo.issue.checkEnd.checkStop

theorem Keeps.settleHeld (hs : Keeps s₀ s) : Keeps s₀ s.settleHeld := .ite hs hs.settleFix.report

theorem Keeps.onGrant {n word value : Nat} (hs : Keeps s₀ s) : Keeps s₀ (s.onGrant n word value) :=
  (Keeps.ite (.ite hs.takeCut hs) (Keeps.ite hs.takeCut hs).granted.settleFix).settleCuts

theorem Keeps.sendReady (hs : Keeps s₀ s) : Keeps s₀ s.sendReady := by
  unfold State.sendReady
  refine .ite hs.settleFix ?_
  extract_lets src s1 a word value src1 s2
  have h2 : Keeps s₀ s2 := .ite hs.withSteps.withSteps.sendParent hs.withSteps
  exact .ite (.ite hs.withSteps.put.flood.onGrant hs.withSteps.settleFix) h2.settleFix

/-! ### Sys2Proof/Machine/Bind.lean -/

theorem Keeps.bindCore {p l : Nat} {q : Bind → Bool} (hs : Keeps s₀ s) : Keeps s₀ (s.bindCore p l q) := by
  unfold State.bindCore
  split
  · exact hs
  · exact hs.setCore.put.put

theorem Keeps.clearCore {p : Nat} (hs : Keeps s₀ s) : Keeps s₀ (s.clearCore p) := hs.setCore.put.put

theorem Keeps.runVat {v n : Nat} {k : Option Nat} {cores : List (Nat × Nat)} (hs : Keeps s₀ s) : Keeps s₀ (s.runVat v n k cores) :=
  hs.driveVat fun _ ht => ht.foldl fun _ _ hu => hu.setCore

theorem Keeps.runAll {n : Nat} (hs : Keeps s₀ s) : Keeps s₀ (s.runAll n) := hs.runVat

/-! ### Sys2Proof/Machine/Bundles.lean -/

theorem Keeps.vecFlags {p f : Nat} (hs : Keeps s₀ s) : Keeps s₀ (s.vecFlags p f) := .ite hs.put hs.put.bump32

/-! ### Sys2Proof/Machine/Endpoints.lean -/

theorem Keeps.setJournaled {n num : Nat} {l : List SUnit} (hs : Keeps s₀ s) : Keeps s₀ (s.setJournaled n num l) := hs.withLedger

theorem Keeps.returnShare {d : StreamD} {b : Stream} (hs : Keeps s₀ s) : Keeps s₀ (s.returnShare d b) := .ite hs.sendFlit hs

theorem Keeps.rerunStreams {n : Nat} (hs : Keeps s₀ s) : Keeps s₀ (s.rerunStreams n) := by
  unfold State.rerunStreams
  split
  · exact hs
  · refine hs.foldl fun _ _ ht => ?_
    split
    · exact ht
    · exact (Keeps.ite ht.returnShare.setJournaled ht.returnShare).withStreams

/-! ### Sys2Proof/Machine/Recovery.lean -/

theorem Keeps.setVerdict {n vat : Nat} {v : Verdict} (hs : Keeps s₀ s) : Keeps s₀ (s.setVerdict n vat v) := hs.withLedger

theorem Keeps.undecided {n vat : Nat} (hs : Keeps s₀ s) : Keeps s₀ (s.undecided n vat) := hs.setVerdict.bump64

theorem Keeps.checkSegment {n vat : Nat} (hs : Keeps s₀ s) : Keeps s₀ (s.checkSegment n vat) :=
  .ite hs (.ite hs.setVerdict.withLedger hs.setVerdict)

theorem Keeps.keepStep {n : Nat} {un : Option Nat} (hs : Keeps s₀ s) : Keeps s₀ (s.keepStep n un) := hs.updStep.withLedger.sendReady

theorem Keeps.failCheck {n cause : Nat} (hs : Keeps s₀ s) : Keeps s₀ (s.failCheck n cause) :=
  hs.dropReplays.bump64.discardWhere.haltWave

theorem Keeps.settleCheck {n : Nat} (hs : Keeps s₀ s) : Keeps s₀ (s.settleCheck n) := by
  unfold State.settleCheck
  split
  · exact hs
  · refine .ite hs ?_
    split
    · exact hs
    · exact hs.failCheck
    · exact .ite hs.failCheck hs.keepStep
    · exact hs.keepStep

theorem Keeps.enterCheck {n : Nat} (hs : Keeps s₀ s) : Keeps s₀ (s.enterCheck n) := by
  unfold State.enterCheck
  split
  · exact hs
  · exact .ite hs (hs.setStepSt.foldl fun _ _ ht => ht.checkSegment).settleCheck

theorem Keeps.mark {n : Nat} {segs : List Nat} {cause : MarkCause} (hs : Keeps s₀ s) : Keeps s₀ (s.mark n segs cause) := by
  unfold State.mark
  split
  · exact hs
  · exact .ite hs hs.bump64.updStep.enterCheck

theorem Keeps.consumePoison {p x : Nat} (hs : Keeps s₀ s) : Keeps s₀ (s.consumePoison p x) := by
  unfold State.consumePoison
  extract_lets s1 c src
  refine .ite hs.put.bump32.withLedger ?_
  split
  · exact hs.put.bump32
  · exact hs.put.bump32.mark

theorem Keeps.suspectCore {p : Nat} (hs : Keeps s₀ s) : Keeps s₀ (s.suspectCore p) := hs.put

theorem Keeps.isolate {p : Nat} (hs : Keeps s₀ s) : Keeps s₀ (s.isolate p) := by
  unfold State.isolate
  extract_lets former s1 n s2 src s3 s4
  have h2 : Keeps s₀ s2 := hs.clearCore.put.put.setCoreState
  exact .ite h2.withProving.raise.setCoreState.raise h2.withProving.raise

theorem Keeps.remap {p l : Nat} (hs : Keeps s₀ s) : Keeps s₀ (s.remap p l) := by
  unfold State.remap
  extract_lets spare s1 s2 src s3
  have h2 : Keeps s₀ s2 := .ite hs.setLcore.bump32 hs.setLcore
  have h3 : Keeps s₀ s3 := h2.withProving
  clear_value spare s3
  cases spare with
  | none => exact h3
  | some q => exact h3.setCoreState

theorem Keeps.fence {p : Nat} (hs : Keeps s₀ s) : Keeps s₀ (s.fence p) := by
  unfold State.fence
  refine .ite hs ?_
  split
  · exact hs.isolate
  · exact hs.isolate.remap

theorem Keeps.resetShown {p : Nat} (hs : Keeps s₀ s) : Keeps s₀ (s.resetShown p) := by
  unfold State.resetShown
  extract_lets s1
  split
  · exact hs.clearCore
  · exact hs.clearCore.put

theorem Keeps.prove {p : Nat} (hs : Keeps s₀ s) : Keeps s₀ (s.prove p) := hs.resetShown.beginProving

theorem Keeps.proveIfDue {p : Nat} (hs : Keeps s₀ s) : Keeps s₀ (s.proveIfDue p) :=
  .ite (.ite hs hs.withProving.prove) (.ite hs hs.withProving)

theorem Keeps.proveDue (hs : Keeps s₀ s) : Keeps s₀ s.proveDue := hs.foldl fun _ _ ht => ht.proveIfDue

theorem Keeps.releaseCores {ps : List Nat} (hs : Keeps s₀ s) : Keeps s₀ (s.releaseCores ps) := by
  unfold State.releaseCores
  refine Keeps.proveDue ?_
  refine hs.foldl fun _ _ ht => ?_
  exact .ite ht (.ite ht.clearCore.setCoreState.prove ht.clearCore.setCoreState)

theorem Keeps.suspectCores {ps : List Nat} (hs : Keeps s₀ s) : Keeps s₀ (s.suspectCores ps) := by
  unfold State.suspectCores
  refine hs.foldl fun _ _ ht => ?_
  extract_lets t src
  refine .ite ht.suspectCore.prove ?_
  exact .ite ht.suspectCore.withProving (.ite ht.suspectCore.withProving ht.suspectCore)

theorem Keeps.streamReset (hs : Keeps s₀ s) : Keeps s₀ s.streamReset := .ite hs.bump32.emit hs

theorem Keeps.recovered (hs : Keeps s₀ s) : Keeps s₀ s.recovered :=
  .ite hs.withLedger (.ite hs.withLedger.setM.checkStop hs.withLedger.setM.issue)

theorem Keeps.rerunSteps {i : Option (Incident × Nat)} (hs : Keeps s₀ s) : Keeps s₀ (s.rerunSteps i) := by
  unfold State.rerunSteps
  exact ((hs.abandon.foldl fun _ _ ht => ht.onWritten.updStep.bump64).foldl fun _ _ ht => ht.rerunStreams).dropSwatches.setM

theorem Keeps.rerunLocal (hs : Keeps s₀ s) : Keeps s₀ s.rerunLocal := by
  unfold State.rerunLocal
  extract_lets s1 src
  split
  · exact hs.rerunSteps
  · exact hs.rerunSteps.withLedger

theorem Keeps.programFault {i : Incident} (hs : Keeps s₀ s) : Keeps s₀ (s.programFault i) := hs.put.bump32.raise.haltWave

theorem Keeps.stepIncident {i : Incident} {n : Nat} {suspects : List (Nat × Nat)} (hs : Keeps s₀ s) :
    Keeps s₀ (s.stepIncident i n suspects) := by
  unfold State.stepIncident
  extract_lets segs s1 s2 s3 src
  have h2 : Keeps s₀ s2 := hs.bump64.mark.bump64.suspectCore.rerunSteps
  split
  · exact hs
  · refine .ite hs.bump64.mark.markCores ?_
    refine .ite hs.bump64.mark.markCores.programFault ?_
    refine .ite hs.bump64.mark.markCores.haltWave ?_
    exact .ite hs.bump64.mark.markCores.haltWave h2.streamReset.withLedger

theorem Keeps.settleSpares {r : Replay} (hs : Keeps s₀ s) : Keeps s₀ (s.settleSpares r) :=
  .ite hs (Keeps.ite hs.withLedger.undecided hs.withLedger.setVerdict).settleCheck

theorem Keeps.voidReplay {p : Nat} (hs : Keeps s₀ s) : Keeps s₀ (s.voidReplay p) := by
  unfold State.voidReplay
  split
  · exact hs.fence
  · exact hs.withLedger.dropBooks.releaseCores.fence.settleSpares

theorem Keeps.incident {i : Incident} {suspects : List (Nat × Nat)} (hs : Keeps s₀ s) : Keeps s₀ (s.incident i suspects) := by
  unfold State.incident
  refine .ite ?_ hs.stepIncident
  split
  · exact hs
  · exact .ite hs.withLedger (.ite hs.voidReplay hs.markCores)

theorem Keeps.trap {p x queue count : Nat} (hs : Keeps s₀ s) : Keeps s₀ (s.trap p x queue count) := hs.setCore.put.bump32.incident

theorem Keeps.controlHit {p x : Nat} (hs : Keeps s₀ s) : Keeps s₀ (s.controlHit p x) := hs.setCore.put.bump32.incident

/-! ### Sys2Proof/Machine/CoreRun.lean -/

theorem Keeps.eff {p : Nat} {e : Eff} (hs : Keeps s₀ s) : Keeps s₀ (State.eff p s e) := by
  unfold State.eff
  split
  · exact hs.consumePoison
  · exact .ite hs hs.bump64
  · exact hs.vecFlags
  · exact hs.trap
  · exact hs.updStep

theorem Keeps.effs {p : Nat} {es : List Eff} (hs : Keeps s₀ s) : Keeps s₀ (s.effs p es) := hs.foldl fun _ _ ht => ht.eff

theorem Keeps.tick {p : Nat} (hs : Keeps s₀ s) : Keeps s₀ (s.tick p) := hs.setCore.effs

theorem Keeps.ticks {p k : Nat} (hs : Keeps s₀ s) : Keeps s₀ (s.ticks p k) := by
  induction k generalizing s with
  | zero => exact hs
  | succ k ih => exact ih hs.tick

theorem Keeps.advance {p n : Nat} (hs : Keeps s₀ s) : Keeps s₀ (s.advance p n) := hs.setCore.ticks

theorem Keeps.settle {p : Nat} {all : Bool} (hs : Keeps s₀ s) : Keeps s₀ (s.settle p all) := hs.setCore.ticks

theorem Keeps.onCore {p : Nat} {f : Core → Out} (hs : Keeps s₀ s) (hf : ∀ c, OutKeeps s₀ (f c)) : OutKeeps s₀ (s.onCore p f) :=
  .ite trivial (.ite (hf _) hs)

theorem Keeps.setCtx {p x : Nat} {k : Ctx} (hs : Keeps s₀ s) : Keeps s₀ (s.setCtx p x k) := hs.setCore

theorem Keeps.headCheck {p x q : Nat} (hs : Keeps s₀ s) : Keeps s₀ (s.headCheck p x q) := by
  unfold State.headCheck
  extract_lets k
  split
  · exact hs
  · exact .ite hs.trap hs

theorem Keeps.takeHead {p x q : Nat} (hs : Keeps s₀ s) : Keeps s₀ (s.takeHead p x q) := by
  unfold State.takeHead
  extract_lets c k
  split
  · exact hs
  · exact hs.setCore.headCheck

theorem Keeps.progress {p x q n : Nat} (hs : Keeps s₀ s) : Keeps s₀ (s.progress p x q n) := by
  unfold State.progress
  extract_lets k
  split
  · exact hs
  · exact hs.setCtx

theorem Keeps.finishCmd {p x q : Nat} (hs : Keeps s₀ s) : Keeps s₀ (s.finishCmd p x q) := by
  unfold State.finishCmd
  extract_lets k k1
  split
  · exact hs
  · exact hs.setCtx

theorem Keeps.accessFault {p x q : Nat} {addr : Int} {cause : Nat} (hs : Keeps s₀ s) : Keeps s₀ (s.accessFault p x q addr cause) :=
  hs.put.put.trap

/-! ### Sys2Proof/Machine/Messages.lean -/

/-- A message runs what it asks for, or is dropped and counted. -/
theorem Keeps.onMsg {m : Msg} {f : State → State} (hs : Keeps s₀ s) (hf : ∀ t, Keeps s₀ t → Keeps s₀ (f t)) :
    OutKeeps s₀ (s.onMsg m f) :=
  .ite trivial (.ite hs (.ite hs.bump32 (.ite hs.bump32 (hf _ hs))))

theorem Keeps.onFlood {m : Msg} {tag : Nat} {f : State → State} (hs : Keeps s₀ s) (hf : ∀ t, Keeps s₀ t → Keeps s₀ (f t)) :
    OutKeeps s₀ (s.onFlood m tag f) :=
  hs.onMsg fun _ ht => .ite ht (hf _ ht.withSteps.sendOn)

/-! ### Sys2Proof/Machine/Mirror.lean -/

theorem Keeps.sendOpen (hs : Keeps s₀ s) : Keeps s₀ s.sendOpen := hs.withMirror.sendPartner

theorem Keeps.firstOpen (hs : Keeps s₀ s) : Keeps s₀ s.firstOpen := .ite (.ite hs.sendOpen hs.withMirror) hs

theorem Keeps.mirrored {m : Nat} (hs : Keeps s₀ s) : Keeps s₀ (s.mirrored m) := hs.withSteps.put

theorem Keeps.pinMirror {gs : List Nat} (hs : Keeps s₀ s) : Keeps s₀ (s.pinMirror gs) := hs.foldl fun _ _ ht => ht.setGran

theorem Keeps.startDelta (hs : Keeps s₀ s) : Keeps s₀ s.startDelta := .ite hs hs.pinMirror.withMirror.sendPartner

theorem Keeps.execMirrorDeltaStart (hs : Keeps s₀ s) : OutKeeps s₀ (execMirrorDeltaStart s) := .ite hs.startDelta hs

theorem Keeps.parityHalt {e : Nat × Nat} (hs : Keeps s₀ s) : Keeps s₀ (s.parityHalt e) := hs.haltWave.failShards

theorem Keeps.sendRead (hs : Keeps s₀ s) : Keeps s₀ s.sendRead := by
  unfold State.sendRead
  split
  · exact hs.withMirror.sendPartner
  · exact hs

theorem Keeps.parityFixed {g : Nat} (hs : Keeps s₀ s) : Keeps s₀ (s.parityFixed g) :=
  .ite hs (.ite (.ite hs.withMirror.sendRead hs.withMirror) hs.parityHalt)

theorem Keeps.repair {e : Nat × Nat} {bytes : Option (List Byte)} (hs : Keeps s₀ s) : Keeps s₀ (s.repair e bytes) := by
  unfold State.repair
  refine .ite hs ?_
  split
  · exact hs.parityHalt
  · exact .ite hs.hbmWrite.bump64 hs.parityHalt

theorem Keeps.repairAnswer {bytes : Option (List Byte)} (hs : Keeps s₀ s) : Keeps s₀ (s.repairAnswer bytes) := by
  unfold State.repairAnswer
  split
  · exact hs
  · exact hs.withMirror.repair.sendRead

theorem Keeps.sendGranule {d : Delta} {g : Nat} {rest : List Nat} (hs : Keeps s₀ s) : Keeps s₀ (s.sendGranule d g rest) := by
  unfold State.sendGranule
  extract_lets slot a code src s1 s2 src1 s3
  have h2 : Keeps s₀ s2 := hs.setGran.bump64.bump64.sendPartner
  exact .ite hs.abandonDelta.parityFixed (.ite h2.withMirror.sendPartner h2.withMirror)

theorem Keeps.execMirrorGranuleSent (hs : Keeps s₀ s) : OutKeeps s₀ (execMirrorGranuleSent s) := by
  unfold Machine.execMirrorGranuleSent
  refine .ite hs ?_
  split
  · exact hs
  · split
    · exact hs
    · exact hs.sendGranule.settleHeld

theorem Keeps.ackDelta {d : Delta} (hs : Keeps s₀ s) : Keeps s₀ (s.ackDelta d) := hs.withMirror.bump64.mirrored

theorem Keeps.allDirty (hs : Keeps s₀ s) : Keeps s₀ s.allDirty := hs.markDirty

theorem Keeps.openAnswer {step : Nat} {refused : Bool} (hs : Keeps s₀ s) : Keeps s₀ (s.openAnswer step refused) := by
  unfold State.openAnswer
  extract_lets src s1
  split
  · exact hs.withMirror.allDirty
  · exact .ite hs.withMirror.mirrored hs.withMirror.allDirty

theorem Keeps.execMirrorAck {m : Msg} (hs : Keeps s₀ s) : OutKeeps s₀ (execMirrorAck m s) := by
  unfold Machine.execMirrorAck
  refine hs.onMsg fun t ht => ?_
  refine .ite ht ?_
  refine .ite ht.openAnswer ?_
  split
  · exact ht
  · exact Keeps.ite ht (Keeps.ite ht.abandonDelta.settleHeld (Keeps.ite ht.ackDelta ht))

theorem Keeps.execMirrorInvalid {m : Msg} (hs : Keeps s₀ s) : OutKeeps s₀ (execMirrorInvalid m s) := by
  unfold Machine.execMirrorInvalid
  refine hs.onMsg fun t ht => ?_
  split
  · exact ht
  · exact Keeps.ite ht ht.withMirror.markDirty

theorem Keeps.countInvalid (hs : Keeps s₀ s) : Keeps s₀ s.countInvalid := hs.put

theorem Keeps.clearInbound (hs : Keeps s₀ s) : Keeps s₀ s.clearInbound := hs.withMirror.countInvalid.put

theorem Keeps.dropSource (hs : Keeps s₀ s) : Keeps s₀ s.dropSource := hs.clearInbound.withMirror

theorem Keeps.ackTo {dest step word : Nat} (hs : Keeps s₀ s) : Keeps s₀ (s.ackTo dest step word) := hs.sendClass1

theorem Keeps.takeSource {c need : Nat} (hs : Keeps s₀ s) : Keeps s₀ (s.takeSource c need) := (Keeps.ite hs.clearInbound hs).withMirror

theorem Keeps.execMirrorOpen {m : Msg} (hs : Keeps s₀ s) : OutKeeps s₀ (execMirrorOpen m s) :=
  hs.onMsg fun _ ht => Keeps.ite ht.raise.ackTo ht.takeSource.ackTo

theorem Keeps.fromSource {m : Msg} {f : State → State} (hs : Keeps s₀ s) (hf : ∀ t, Keeps s₀ t → Keeps s₀ (f t)) :
    OutKeeps s₀ (s.fromSource m f) :=
  hs.onMsg fun _ ht => .ite (hf _ ht) ht

theorem Keeps.execMirrorBegin {m : Msg} (hs : Keeps s₀ s) : OutKeeps s₀ (execMirrorBegin m s) := hs.fromSource fun _ ht => ht.withMirror

theorem Keeps.takeGranule {d : Partial} {g : Nat} {code : List Byte} (hs : Keeps s₀ s) : Keeps s₀ (s.takeGranule d g code) := by
  unfold State.takeGranule
  split
  · exact hs.withMirror.hbmWrite
  · exact hs.withMirror

theorem Keeps.execMirrorGranule {m : Msg} (hs : Keeps s₀ s) : OutKeeps s₀ (execMirrorGranule m s) := by
  unfold Machine.execMirrorGranule
  refine hs.fromSource fun t ht => ?_
  split
  · exact ht
  · exact Keeps.ite ht.takeGranule ht

theorem Keeps.adopt {d : Partial} (hs : Keeps s₀ s) : Keeps s₀ (s.adopt d) := hs.withMirror.countInvalid.put

theorem Keeps.execMirrorEnd {m : Msg} (hs : Keeps s₀ s) : OutKeeps s₀ (execMirrorEnd m s) := by
  unfold Machine.execMirrorEnd
  refine hs.fromSource fun t ht => ?_
  split
  · exact ht.ackTo
  · exact Keeps.ite ht.adopt.ackTo ht.withMirror.ackTo

theorem Keeps.execMirrorAbort {m : Msg} (hs : Keeps s₀ s) : OutKeeps s₀ (execMirrorAbort m s) := hs.fromSource fun _ ht => ht.withMirror

theorem Keeps.invalidGranule {g : Nat} (hs : Keeps s₀ s) : Keeps s₀ (s.invalidGranule g) := by
  unfold State.invalidGranule
  refine .ite hs ?_
  extract_lets src s1
  have h1 : Keeps s₀ s1 := hs.withMirror.countInvalid
  split
  · exact h1
  · exact h1.sendClass1

theorem Keeps.execMirrorRead {m : Msg} (hs : Keeps s₀ s) : OutKeeps s₀ (execMirrorRead m s) := by
  refine hs.onMsg fun t ht => ?_
  extract_lets c held
  clear_value held
  cases held with
  | none => exact ht.sendClass1
  | some b => exact ht.sendClass1

theorem Keeps.mirrorLinkDown {port : Nat} (hs : Keeps s₀ s) : Keeps s₀ (s.mirrorLinkDown port) := by
  unfold State.mirrorLinkDown
  extract_lets src s1 s2 src1
  have h1 : Keeps s₀ s1 := .ite hs.withMirror hs
  have h2 : Keeps s₀ s2 := by
    unfold s2
    split
    · exact h1
    · exact h1.abandonDelta.raise.settleHeld
  exact .ite h1 (h2.withMirror.foldl fun _ _ ht => ht.repair)

theorem Keeps.mirrorLinkUp {port : Nat} (hs : Keeps s₀ s) : Keeps s₀ (s.mirrorLinkUp port) := .ite hs.sendOpen hs

/-! ### Sys2Proof/Machine/Access.lean -/

theorem Keeps.placeWrite {e : Eng} {pl : Place} {bytes : List Byte} {poison : Bool} (hs : Keeps s₀ s) :
    Keeps s₀ (s.placeWrite e pl bytes poison) := by
  unfold State.placeWrite
  split
  · exact hs.setCore
  · exact hs.baseWrite
  · exact hs.hbmWrite

theorem Keeps.copyFixed {g : Nat} (hs : Keeps s₀ s) : Keeps s₀ (s.copyFixed g) := .ite hs.hbmCopy.parityFixed hs.hbmCopy

theorem Keeps.cowGranule {e : Eng} {g : Nat} {covers : Bool} (hs : Keeps s₀ s) : Keeps s₀ (s.cowGranule e g covers) :=
  (Keeps.ite hs hs.copyFixed).setGran.updStep

theorem Keeps.cowReplay {e : Eng} {g : Nat} {covers : Bool} (hs : Keeps s₀ s) : Keeps s₀ (s.cowReplay e g covers) := by
  unfold State.cowReplay
  split
  · exact hs
  · exact (Keeps.ite hs hs.hbmCopy).withMem

theorem Keeps.cow {e : Eng} {space a n : Nat} (hs : Keeps s₀ s) : Keeps s₀ (s.cow e space a n) := by
  refine .ite hs (hs.foldl fun _ _ ht => ?_)
  split
  · exact ht.cowReplay
  · exact ht.cowGranule

theorem Keeps.writeGate {e : Eng} {gs : List Nat} (hs : Keeps s₀ s) : Keeps s₀ (s.writeGate e gs).2 := hs.holdWrites

theorem Keeps.busyGate {e : Eng} {reads spans : List (Int × Nat)} {grans : List Nat} (hs : Keeps s₀ s) :
    Keeps s₀ (s.busyGate e reads spans grans).2 := by
  unfold State.busyGate
  split
  · exact hs
  · split
    · exact hs.draw.bump64
    · exact hs.writeGate

theorem Keeps.absorbLane {e : Eng} {lane : Nat} {words : List W64} (hs : Keeps s₀ s) : Keeps s₀ (s.absorbLane e lane words) := hs.setCtx

theorem Keeps.writeLine {e : Eng} {space a : Nat} {bytes : List Byte} {poison : Bool} (hs : Keeps s₀ s) :
    Keeps s₀ (s.writeLine e space a bytes poison) :=
  .ite hs.placeWrite.absorbLane hs.placeWrite

theorem Keeps.writeLines {e : Eng} {space k a : Nat} {bs : List (Byte × Bool)} (hs : Keeps s₀ s) :
    Keeps s₀ (s.writeLines e space k a bs) := by
  induction k generalizing s a bs with
  | zero => exact hs
  | succ k ih => exact .ite hs (ih hs.writeLine)

theorem Keeps.writeSpan {e : Eng} {space a : Nat} {bs : List (Byte × Bool)} (hs : Keeps s₀ s) : Keeps s₀ (s.writeSpan e space a bs) :=
  hs.cow.writeLines

theorem Keeps.poisonFull (hs : Keeps s₀ s) : Keeps s₀ s.poisonFull := .ite hs hs.withMem.haltWave

theorem Keeps.cacheSpan {e : Eng} {a n : Nat} (hs : Keeps s₀ s) : Keeps s₀ (s.cacheSpan e a n) := by
  unfold State.cacheSpan
  split
  · exact hs
  · refine .ite hs ?_
    refine hs.foldl fun _ _ ht => ?_
    split
    · exact ht.cacheRead
    · exact ht

/-! ### Sys2Proof/Machine/Scales.lean -/

theorem Keeps.chooseExp {d : Scale} {a : W32} (hs : Keeps s₀ s) : Keeps s₀ (s.chooseExp d a).2 := .ite hs.bump64 hs

theorem Keeps.writeCell {p lcore tensor : Nat} {e : Int} (hs : Keeps s₀ s) : Keeps s₀ (s.writeCell p lcore tensor e) := by
  unfold State.writeCell
  split
  · exact hs
  · exact hs.setCore

theorem Keeps.historyExp {d : Scale} {n : Nat} (hs : Keeps s₀ s) : Keeps s₀ (s.historyExp d n).2 := by
  unfold State.historyExp
  split
  · exact hs
  · exact hs.chooseExp

theorem Keeps.writeScales {n : Nat} {cores : List (Nat × Nat)} (hs : Keeps s₀ s) : Keeps s₀ (s.writeScales n cores) := by
  unfold State.writeScales
  split
  · exact hs
  · exact hs.foldl fun _ _ ht => ht.historyExp.foldl fun _ _ hu => hu.writeCell

theorem Keeps.noteScales {n : Nat} (hs : Keeps s₀ s) : Keeps s₀ (s.noteScales n) := by
  unfold State.noteScales
  split
  · exact hs
  · exact hs.updStep

theorem Keeps.noteCasts {p : Nat} {d : Scale} {xs : List Num} (hs : Keeps s₀ s) : Keeps s₀ (s.noteCasts p d xs) :=
  .ite hs hs.setCore.bump64

/-! ### Sys2Proof/Machine/Moves.lean -/

theorem Keeps.countCasts {rs : List CastR} (hs : Keeps s₀ s) : Keeps s₀ (s.countCasts rs) := hs.bump64.bump64.bump64

theorem Keeps.consumeIf {e : Eng} {hit : Bool} (hs : Keeps s₀ s) : Keeps s₀ (s.consumeIf e hit) := .ite hs.consumePoison hs

theorem Keeps.noteQuant {e : Eng} {k : Caster} {els : List El} (hs : Keeps s₀ s) : Keeps s₀ (s.noteQuant e k els) := by
  unfold State.noteQuant
  split
  · exact hs.noteCasts
  · exact hs

theorem Keeps.writeScaleRow {e : Eng} {dst : Side} {ix : List Nat} {scales : List (Nat × Bool)} (hs : Keeps s₀ s) :
    Keeps s₀ (s.writeScaleRow e dst ix scales).s := by
  unfold State.writeScaleRow
  split
  · exact hs
  · split
    · exact hs
    · split
      · exact hs
      · exact hs.writeSpan

theorem Keeps.putEls {e : Eng} {space b a : Nat} {k : Caster} {out : CastOut} {els : List El} (hs : Keeps s₀ s) :
    Keeps s₀ (s.putEls e space b a k out els) :=
  hs.writeSpan.countCasts.noteQuant.consumeIf

theorem Keeps.moveRow {e : Eng} {dst : Side} {k : Caster} {base : Nat} {f : State → Nat → Got El} {r : Nat} (hs : Keeps s₀ s) :
    Keeps s₀ (s.moveRow e dst k base f r).s := by
  unfold State.moveRow
  extract_lets n0 got els ix
  split
  · exact hs
  · split
    · exact hs.consumeIf
    · exact hs.putEls.writeScaleRow

theorem Keeps.moveRows {e : Eng} {dst : Side} {k : Caster} {base : Nat} {f : State → Nat → Got El} {rows : List Nat}
    (hs : Keeps s₀ s) : Keeps s₀ (s.moveRows e dst k base f rows).s := by
  induction rows generalizing s with
  | nil => exact hs
  | cons r rows ih =>
    unfold State.moveRows
    extract_lets x
    have hx : Keeps s₀ x.s := hs.moveRow
    split
    · exact hx
    · exact ih hx

theorem Keeps.moveAll {e : Eng} {dst : Side} {k : Caster} {base : Nat} {f : State → Nat → Got El} (hs : Keeps s₀ s) :
    Keeps s₀ (s.moveAll e dst k base f).s := hs.moveRows

theorem Keeps.cacheSpans {e : Eng} {spans : List (Int × Nat)} (hs : Keeps s₀ s) : Keeps s₀ (s.cacheSpans e spans) :=
  hs.foldl fun _ _ ht => .ite ht ht.cacheSpan

theorem Keeps.copyRun {c : LsCmd} {k : Caster} (hs : Keeps s₀ s) : Keeps s₀ (s.copyRun c k).s := by
  unfold State.copyRun
  extract_lets src0 src r dst
  have hr : Keeps s₀ r.s := hs.cacheSpans.moveAll
  split
  · exact hr
  · split
    · exact hr.moveAll
    · exact hr

theorem Keeps.runFinish {r : Run} {e : Eng} (hr : Keeps s₀ r.s) : Keeps s₀ (r.finish e) := by
  unfold Run.finish
  split
  · exact hr.progress
  · exact hr.accessFault

theorem Keeps.badCmd {e : Eng} (hs : Keeps s₀ s) : Keeps s₀ (s.badCmd e) := hs.trap

theorem Keeps.lsGo {e : Eng} {l : Line} {bad : State → LsCmd → Bool} {go : State → LsCmd → State} (hs : Keeps s₀ s)
    (hg : ∀ t c, Keeps s₀ t → Keeps s₀ (go t c)) : Keeps s₀ (s.lsGo e l bad go) := by
  unfold State.lsGo
  refine .ite hs ?_
  split
  · exact hs.accessFault
  · exact (Keeps.ite hs.consumeIf.badCmd (hg _ _ hs.consumeIf)).poisonFull

theorem Keeps.startGate {e : Eng} {reads writes : List (Int × Nat)} (hs : Keeps s₀ s) : Keeps s₀ (s.startGate e reads writes).2 := by
  unfold State.startGate
  split
  · exact hs.busyGate
  · exact hs.writeGate

theorem Keeps.lsStart {p x q kind : Nat} {reads writes : State → LsCmd → List (Int × Nat)} {bad : State → LsCmd → Bool}
    {go : State → LsCmd → State} (hs : Keeps s₀ s) (hg : ∀ t c, Keeps s₀ t → Keeps s₀ (go t c)) :
    OutKeeps s₀ (s.lsStart p x q kind reads writes bad go) := by
  refine hs.onCore fun c => ?_
  split
  · exact hs
  · extract_lets e w
    have hw : Keeps s₀ w.2 := by
      unfold w
      split
      · exact hs
      · split
        · exact hs
        · exact hs.startGate
    exact .ite hw (hw.dropHeld.takeHead.lsGo hg)

/-! ### Sys2Proof/Machine/Streams.lean -/

theorem Keeps.setJoin {key : Nat} {j : JoinSt} (hs : Keeps s₀ s) : Keeps s₀ (s.setJoin key j) := hs.withJoins

theorem Keeps.setTags {old : List Nat} {key : Nat} (hs : Keeps s₀ s) : Keeps s₀ (s.setTags old key) := hs.setJoin

theorem Keeps.setBook {b : Stream} (hs : Keeps s₀ s) : Keeps s₀ (s.setBook b) := hs.withStreams

theorem Keeps.setPages {n source die k : Nat} (hs : Keeps s₀ s) : Keeps s₀ (s.setPages n source die k) :=
  .ite hs.withLedger.put hs.withLedger

theorem Keeps.takePage {n source die : Nat} (hs : Keeps s₀ s) : OptKeeps s₀ (s.takePage n source die) := by
  unfold State.takePage
  extract_lets mine aside
  split
  · exact hs.setPages.setPages
  · split
    · exact hs.setPages
    · exact trivial

theorem Keeps.journalUnit {d : StreamD} {u : SUnit} (hs : Keeps s₀ s) : OptKeeps s₀ (s.journalUnit d u) := by
  unfold State.journalUnit
  extract_lets n die l s?
  have h? : OptKeeps s₀ s? := .ite hs hs.takePage
  exact h?.map fun _ ht => ht.setJournaled

theorem Keeps.journalFull {d : StreamD} (hs : Keeps s₀ s) : Keeps s₀ (s.journalFull d) := .ite hs hs.haltWave

theorem Keeps.absorbUnit {p x port num index : Nat} {u : SUnit} (hs : Keeps s₀ s) : Keeps s₀ (s.absorbUnit p x port num index u) :=
  hs.setCtx

theorem Keeps.onBook {h : Hop} {f : JoinBook → JoinBook} (hs : Keeps s₀ s) : Keeps s₀ (s.onBook h f) := hs.setJoin

theorem Keeps.freeFrame {cls : Nat} {h : Hop} (hs : Keeps s₀ s) : Keeps s₀ (s.freeFrame cls h) := hs.onBook

theorem Keeps.creditFrames {chan k : Nat} {l : List (Nat × Nat)} (hs : Keeps s₀ s) : Keeps s₀ (s.creditFrames chan k l) := by
  induction k generalizing s l with
  | zero => exact hs
  | succ k ih =>
    cases l with
    | nil => exact hs
    | cons e l => exact ih hs.emit

theorem Keeps.sendFrames (hs : Keeps s₀ s) : Keeps s₀ s.sendFrames :=
  .ite hs (Keeps.creditFrames (Keeps.foldl_fst hs.setJoin fun _ _ ht => ht.emit))

theorem Keeps.sendUnitFrame {chan : Nat} {header : W64} {unit : Line} (hs : Keeps s₀ s) : Keeps s₀ (s.sendUnitFrame chan header unit) :=
  hs.setJoin.sendFrames

theorem Keeps.sendCredits {tag n : Nat} (hs : Keeps s₀ s) : Keeps s₀ (s.sendCredits tag n) := hs.setJoin.sendFrames

theorem Keeps.launch {d : StreamD} {key : Nat} {u : SUnit} (hs : Keeps s₀ s) : Keeps s₀ (s.launch d key u) := by
  unfold State.launch
  split
  · split
    · exact hs
    · exact hs.setBook
  · extract_lets s1
    have h1 : Keeps s₀ s1 := hs.foldl fun _ _ ht => ht.freeFrame
    exact .ite h1.sendUnitBytes h1.onBook.sendUnitFrame

theorem Keeps.sendUnit {p x port : Nat} {d : StreamD} {u : SUnit} {quiet : Bool} (hs : Keeps s₀ s) :
    OptKeeps s₀ (s.sendUnit p x port d u quiet) := by
  unfold State.sendUnit
  extract_lets key out gone
  split
  · exact trivial
  · extract_lets s1 s2 b
    have h1 : Keeps s₀ s1 := .ite hs.absorbUnit hs
    have h2 : Keeps s₀ s2 := .ite h1.updStep h1
    exact .ite trivial (.ite h2.setBook h2.setBook.launch)

theorem Keeps.creditStall {p : Nat} (hs : Keeps s₀ s) : Keeps s₀ (s.creditStall p) := hs.draw.bump64

theorem Keeps.returnCredit {d : StreamD} {b : Stream} (hs : Keeps s₀ s) : Keeps s₀ (s.returnCredit d b) :=
  .ite hs.setBook (.ite hs.setBook.sendFlit hs.setBook.sendCredits)

theorem Keeps.ordered {p : Nat} (hs : Keeps s₀ s) : Keeps s₀ (s.ordered p) := .ite hs hs.withMem

theorem Keeps.takeUnit {p : Nat} {d : StreamD} (hs : Keeps s₀ s) : OptKeeps s₀ ((s.takeUnit p d).map Prod.snd) := by
  unfold State.takeUnit
  split
  · split
    · extract_lets i
      split
      · exact trivial
      · exact hs.withLedger.ordered
    · split
      · exact trivial
      · split
        · exact trivial
        · exact hs.returnCredit.ordered
  · split
    · exact trivial
    · split
      · exact hs.setBook.ordered
      · exact trivial
      · exact hs.returnCredit.ordered

theorem Keeps.holdUnit {p : Nat} {d : StreamD} (hs : Keeps s₀ s) : OptKeeps s₀ ((s.holdUnit p d).map fun r => r.2.2) := by
  have taken : OptKeeps s₀ (((s.takeUnit p d).map fun r => (r.1, false, r.2)).map fun r => r.2.2) := by
    rw [Option.map_map]
    exact hs.takeUnit
  unfold State.holdUnit
  split
  · split
    · exact hs.setBook.ordered
    · exact taken
  · exact taken

theorem Keeps.arrive {d : StreamD} {b : Stream} {u : SUnit} (hs : Keeps s₀ s) : Keeps s₀ (s.arrive d b u) := by
  unfold State.arrive
  extract_lets land
  have hland : ∀ t, Keeps s₀ t → Keeps s₀ (land t) := fun _ ht => ht.setBook.foldl fun _ _ hu => hu.freeFrame
  split
  · split
    · exact hs.journalFull
    · rename_i t he
      exact hland t (hs.journalUnit.some he)
  · exact hland s hs

theorem Keeps.execStreamUnitArrival {stream : Nat} {unit : Line} {poison : Bool} (hs : Keeps s₀ s) :
    OutKeeps s₀ (execStreamUnitArrival stream unit poison s) := by
  unfold Machine.execStreamUnitArrival
  split
  · exact .ite hs.arrive hs
  · exact hs

theorem Keeps.execStreamCreditReturn {stream : Nat} (hs : Keeps s₀ s) : OutKeeps s₀ (execStreamCreditReturn stream s) := by
  unfold Machine.execStreamCreditReturn
  split
  · exact hs
  · exact .ite hs hs.setBook

/-! ### Sys2Proof/Machine/StreamPort.lean -/

theorem Keeps.portCmd {p x q op : Nat} (hs : Keeps s₀ s) : OptKeeps s₀ ((s.portCmd p x q op).map Prod.fst) := by
  unfold State.portCmd
  extract_lets c
  split
  · split
    · exact hs
    · exact trivial
  · split
    · exact trivial
    · split
      · exact hs.takeHead
      · exact trivial

theorem Keeps.writeUnit {e : Eng} {a : Int} {u : SUnit} (hs : Keeps s₀ s) : Keeps s₀ (s.writeUnit e a u) := hs.setCore

theorem Keeps.onPort {p x port op : Nat} {go : State → Eng → Line → Nat → State} (hs : Keeps s₀ s)
    (hg : ∀ t e l k, Keeps s₀ t → Keeps s₀ (go t e l k)) : OutKeeps s₀ (s.onPort p x port op go) := by
  refine hs.onCore fun _ => ?_
  split
  · exact hs
  · rename_i t l k he
    have ht : Keeps s₀ t := hs.portCmd.of_map he
    exact Keeps.ite (hg _ _ _ _ ht) ht

theorem Keeps.sendGo {e : Eng} {l : Line} {k : Nat} (hs : Keeps s₀ s) : Keeps s₀ (s.sendGo e l k) := by
  unfold State.sendGo
  split
  · exact hs.badCmd
  · split
    · exact hs.accessFault
    · split
      · exact hs.creditStall
      · rename_i t he
        exact (hs.sendUnit.some he).progress.consumeIf

theorem Keeps.execStreamSend {p : Nat} {port : Fin 2} {x : Fin 4} (hs : Keeps s₀ s) : OutKeeps s₀ (execStreamSend p port x s) :=
  hs.onPort fun _ _ _ _ ht => ht.sendGo

theorem Keeps.forward {e : Eng} {l : Line} {u : SUnit} (hs : Keeps s₀ s) : OptKeeps s₀ (s.forward e l u) := by
  unfold State.forward
  split
  · exact hs
  · split
    · exact trivial
    · exact hs.sendUnit

theorem Keeps.recvGo {e : Eng} {l : Line} {k : Nat} (hs : Keeps s₀ s) : Keeps s₀ (s.recvGo e l k) := by
  unfold State.recvGo
  split
  · exact hs.badCmd
  · refine .ite hs.badCmd ?_
    split
    · exact hs
    · rename_i u t he
      have ht : Keeps s₀ t := hs.takeUnit.of_map he
      refine .ite hs.accessFault ?_
      split
      · exact hs.creditStall
      · rename_i v hv
        exact (ht.forward.some hv).writeUnit.progress

theorem Keeps.execStreamRecv {p : Nat} {port : Fin 2} {x : Fin 4} (hs : Keeps s₀ s) : OutKeeps s₀ (execStreamRecv p port x s) :=
  hs.onPort fun _ _ _ _ ht => ht.recvGo

theorem Keeps.setChainBuf {e : Eng} {b : ChainBuf} (hs : Keeps s₀ s) : Keeps s₀ (s.setChainBuf e b) := hs.setCtx

theorem Keeps.chainWrite {e : Eng} {l : Line} {k : Nat} {us : List SUnit} (hs : Keeps s₀ s) :
    Keeps s₀ (s.chainWrite e l k us).s := by
  induction us generalizing s k with
  | nil => exact hs
  | cons u us ih =>
    unfold State.chainWrite
    split
    · exact ih hs.writeUnit
    · exact hs

theorem Keeps.chainGroup {e : Eng} {l : Line} {c : ChainD} {k : Nat} {acc : List SUnit} (hs : Keeps s₀ s) :
    Keeps s₀ (s.chainGroup e l c k acc) :=
  .ite hs.setChainBuf.progress hs.setChainBuf

theorem Keeps.chainMeet {e : Eng} {l : Line} {k n : Nat} {hit : Bool} {how : List SUnit → List SUnit}
    {go : State → List SUnit → State} (hs : Keeps s₀ s) (hg : ∀ t us, Keeps s₀ t → Keeps s₀ (go t us)) :
    Keeps s₀ (s.chainMeet e l k n hit how go) := by
  unfold State.chainMeet
  split
  · exact hs.accessFault
  · extract_lets got r
    have hr : Keeps s₀ r.s := by
      unfold r
      split
      · exact hs.chainWrite
      · exact hs
    split
    · exact hr.accessFault
    · exact hg _ _ hr.consumeIf

theorem Keeps.scaleCredit {p : Nat} {d : StreamD} {owed : Bool} (hs : Keeps s₀ s) : Keeps s₀ (s.scaleCredit p d owed) := by
  unfold State.scaleCredit
  refine .ite hs ?_
  split
  · exact hs
  · exact hs.returnCredit

theorem Keeps.chainTake {e : Eng} {l : Line} {c : ChainD} {k : Nat} (hs : Keeps s₀ s) : Keeps s₀ (s.chainTake e l c k) := by
  unfold State.chainTake
  split
  · exact hs
  · extract_lets b
    split
    · split
      · exact hs
      · rename_i u owed t he
        have ht : Keeps s₀ t := hs.holdUnit.of_map he
        exact ht.setChainBuf
    · split
      · exact hs
      · rename_i u t he
        have ht : Keeps s₀ t := hs.takeUnit.of_map he
        exact ht.chainMeet fun _ _ hu => .ite hu.setChainBuf hu.scaleCredit.chainGroup

theorem Keeps.chainCombineGo {e : Eng} {l : Line} {c : ChainD} {k : Nat} (hs : Keeps s₀ s) : Keeps s₀ (s.chainCombineGo e l c k) :=
  .ite hs (.ite (hs.chainMeet fun _ _ ht => ht.chainGroup) hs.chainTake)

theorem Keeps.chainSendGo {e : Eng} {l : Line} {c : ChainD} {k : Nat} (hs : Keeps s₀ s) : Keeps s₀ (s.chainSendGo e l c k) := by
  unfold State.chainSendGo
  extract_lets b
  split
  · split
    · exact hs.creditStall
    · rename_i r he
      have hr : Keeps s₀ r := hs.sendUnit.some he
      exact .ite hr.setChainBuf.progress hr.setChainBuf
  · exact hs

theorem Keeps.chainGo {e : Eng} {l : Line} {k : Nat} (hs : Keeps s₀ s) : Keeps s₀ (s.chainGo e l k) := by
  unfold State.chainGo
  refine .ite hs.badCmd ?_
  split
  · exact hs
  · exact .ite hs.chainCombineGo.chainSendGo hs.chainCombineGo

theorem Keeps.execChain {p : Nat} {port : Fin 2} {x : Fin 4} (hs : Keeps s₀ s) : OutKeeps s₀ (execChain p port x s) :=
  hs.onPort fun _ _ _ _ ht => ht.chainGo

/-! ### Sys2Proof/Machine/BundleEngine.lean -/

theorem Keeps.execGroupBufferFill {p : Nat} (hs : Keeps s₀ s) : OutKeeps s₀ (execGroupBufferFill p s) := by
  unfold Machine.execGroupBufferFill
  refine hs.onCore fun _ => ?_
  refine .ite hs ?_
  split
  · exact hs
  · split
    · exact hs
    · exact Keeps.ite hs.setCore.consumePoison hs.setCore

theorem Keeps.startGroup {p : Nat} {g : Group} (hs : Keeps s₀ s) : Keeps s₀ (s.startGroup p g) := hs.setCore.takeHead

theorem Keeps.execGroupStart {p : Nat} (hs : Keeps s₀ s) : OutKeeps s₀ (execGroupStart p s) := by
  unfold Machine.execGroupStart
  refine hs.onCore fun _ => ?_
  split
  · exact hs
  · exact .ite hs.setCore (.ite hs hs.advance.startGroup)

theorem Keeps.issueBundle {p : Nat} (hs : Keeps s₀ s) : Keeps s₀ (s.issueBundle p) := by
  unfold State.issueBundle
  extract_lets c
  split
  · exact hs
  · exact .ite hs (.ite hs.trap hs.setCore)

theorem Keeps.execBundleIssue {p : Nat} (hs : Keeps s₀ s) : OutKeeps s₀ (execBundleIssue p s) := by
  unfold Machine.execBundleIssue
  refine hs.onCore fun _ => ?_
  split
  · exact hs
  · exact .ite hs hs.advance.issueBundle

theorem Keeps.endGroup {p : Nat} (hs : Keeps s₀ s) : Keeps s₀ (s.endGroup p) := by
  unfold State.endGroup
  extract_lets c s1
  split
  · exact hs
  · exact (Keeps.ite hs.setCore.setCtx hs.setCore.finishCmd).setCore

theorem Keeps.completeGroup {p : Nat} (hs : Keeps s₀ s) : Keeps s₀ (s.completeGroup p) := by
  unfold State.completeGroup
  split
  · exact hs
  · exact .ite hs hs.settle.endGroup

theorem Keeps.execGroupComplete {p : Nat} (hs : Keeps s₀ s) : OutKeeps s₀ (execGroupComplete p s) := hs.onCore fun _ => hs.completeGroup

theorem Keeps.issueSlot {p : Nat} {op : SlotOp} (hs : Keeps s₀ s) : OutKeeps s₀ (s.issueSlot p op) := by
  unfold State.issueSlot
  refine hs.onCore fun _ => ?_
  split
  · exact hs
  · exact .ite hs.setCore hs

theorem Keeps.swatchDone {p n : Nat} (hs : Keeps s₀ s) : Keeps s₀ (s.swatchDone p n) := .ite hs hs.updStep.sendReady

theorem Keeps.swatchBad {p : Nat} {w : Swatch} {e : W32} (hs : Keeps s₀ s) : Keeps s₀ (s.swatchBad p w e) := hs.bump64.mark.raiseAt

theorem Keeps.evalSwatch {p : Nat} {w : Swatch} (hs : Keeps s₀ s) : Keeps s₀ (s.evalSwatch p w) :=
  .ite hs.bump64.withHistogram.swatchBad hs.bump64.withHistogram

theorem Keeps.execSwatchEvaluate {p : Nat} (hs : Keeps s₀ s) : OutKeeps s₀ (execSwatchEvaluate p s) := by
  unfold Machine.execSwatchEvaluate
  refine hs.onCore fun _ => ?_
  split
  · exact hs
  · exact hs.setCore.evalSwatch.swatchDone

/-! ### Sys2Proof/Machine/Arrays.lean -/

theorem Keeps.execArrayResultLanding {p : Nat} {arr bank : Fin 2} (hs : Keeps s₀ s) :
    OutKeeps s₀ (execArrayResultLanding p arr bank s) := by
  unfold Machine.execArrayResultLanding
  refine hs.onCore fun _ => ?_
  split
  · exact hs
  · exact .ite hs.advance hs

/-! ### Sys2Proof/Machine/Checkpoint.lean -/

theorem Keeps.placeBlocks {h : Shard} {k : Nat} (hs : Keeps s₀ s) : Keeps s₀ (s.placeBlocks h k) := by
  induction k generalizing s h with
  | zero => exact hs.withCkpt
  | succ k ih => exact .ite (.ite hs.withCkpt.failShard (ih hs.storeWrite)) hs.withCkpt

theorem Keeps.codeBlock {h : Shard} {b : Nat × Nat} {rest : List (Nat × Nat)} (hs : Keeps s₀ s) : Keeps s₀ (s.codeBlock h b rest) := by
  unfold State.codeBlock
  refine .ite hs ?_
  exact .ite (.ite hs.parityFixed hs.failShard.nextShard) hs.unpinBlock.placeBlocks.nextShard

theorem Keeps.execShardBlockCoded (hs : Keeps s₀ s) : OutKeeps s₀ (execShardBlockCoded s) := by
  unfold Machine.execShardBlockCoded
  split
  · exact hs
  · split
    · exact hs
    · exact .ite hs.codeBlock.settleHeld hs

theorem Keeps.completeShard {h : Shard} (hs : Keeps s₀ s) : Keeps s₀ (s.completeShard h) :=
  hs.withCkpt.put.bump32.settleCut.reportShard.nextShard

theorem Keeps.shardAck (hs : Keeps s₀ s) : Keeps s₀ s.shardAck := by
  unfold State.shardAck
  split
  · exact hs
  · exact .ite hs.completeShard hs.advanceShard.nextShard

theorem Keeps.completeCut (hs : Keeps s₀ s) : Keeps s₀ s.completeCut := hs.put.put.endCut.nextCheckpoint

theorem Keeps.writeHeader (hs : Keeps s₀ s) : Keeps s₀ s.writeHeader := by
  unfold State.writeHeader
  split
  · exact hs.failCut
  · exact hs.storeWrite

theorem Keeps.answerWrite {p : StoreWrite → Bool} {f : State → StoreFor → State} (hs : Keeps s₀ s)
    (hf : ∀ t w, Keeps s₀ t → Keeps s₀ (f t w)) : Keeps s₀ (s.answerWrite p f) := by
  unfold State.answerWrite
  split
  · exact hs
  · exact .ite (hf _ _ hs.withCkpt) hs.withCkpt.nextShard

theorem Keeps.execManifestInvalidated (hs : Keeps s₀ s) : OutKeeps s₀ (execManifestInvalidated s) :=
  .ite (hs.answerWrite fun _ _ ht => ht.withCkpt.declareStopped) hs

theorem Keeps.onStorage {n : Nat} {f : State → State} (hs : Keeps s₀ s) (hf : ∀ t, Keeps s₀ t → Keeps s₀ (f t)) :
    OutKeeps s₀ (s.onStorage n f) :=
  .ite trivial (.ite (hf _ hs) hs)

theorem Keeps.execStorageWriteAck {n : Nat} (hs : Keeps s₀ s) : OutKeeps s₀ (execStorageWriteAck n s) := by
  unfold Machine.execStorageWriteAck
  refine hs.onStorage fun t ht => ?_
  refine ht.answerWrite fun t _ hu => ?_
  split
  · exact hu.shardAck
  · exact hu.writeHeader
  · exact hu.completeCut
  · exact hu

theorem Keeps.execStorageWriteFailure {n : Nat} (hs : Keeps s₀ s) : OutKeeps s₀ (execStorageWriteFailure n s) := by
  unfold Machine.execStorageWriteFailure
  refine hs.onStorage fun t ht => ?_
  refine Keeps.settleHeld ?_
  refine ht.answerWrite fun t _ hu => ?_
  split
  · exact hu.failShard.nextShard
  · exact hu.failCut

theorem Keeps.execShardReport {m : Msg} (hs : Keeps s₀ s) : OutKeeps s₀ (execShardReport m s) :=
  hs.onMsg fun _ ht => Keeps.ite ht ht.shardReport

/-! ### Sys2Proof/Machine/ClassZero.lean -/

theorem Keeps.onDecision {m : Msg} {tag : Nat} {f : State → State} (hs : Keeps s₀ s) (hf : ∀ t, Keeps s₀ t → Keeps s₀ (f t)) :
    OutKeeps s₀ (s.onDecision m tag f) :=
  .ite (hs.onFlood hf) (hs.onMsg fun _ ht => ht)

theorem Keeps.onRootFlood {m : Msg} {tag : Nat} {f : State → State} (hs : Keeps s₀ s) (hf : ∀ t, Keeps s₀ t → Keeps s₀ (f t)) :
    OutKeeps s₀ (s.onRootFlood m tag f) :=
  hs.onDecision fun _ ht => .ite (hf _ ht) ht

theorem Keeps.execHalt {m : Msg} (hs : Keeps s₀ s) : OutKeeps s₀ (execHalt m s) :=
  hs.onDecision fun _ ht => Keeps.ite ht.bump64.haltActs ht.bump64

theorem Keeps.onChild {m : Msg} {f : Nat → State → State} (hs : Keeps s₀ s) (hf : ∀ c t, Keeps s₀ t → Keeps s₀ (f c t)) :
    OutKeeps s₀ (s.onChild m f) :=
  hs.onMsg fun _ ht => .ite (hf _ _ ht) ht

theorem Keeps.execReady {m : Msg} (hs : Keeps s₀ s) : OutKeeps s₀ (execReady m s) := hs.onChild fun _ _ ht => ht.withSteps.sendReady

theorem Keeps.execGrant {m : Msg} (hs : Keeps s₀ s) : OutKeeps s₀ (execGrant m s) :=
  .ite (hs.onRootFlood fun _ ht => ht.onGrant) (.ite (hs.onFlood fun _ ht => .ite ht.onGrant ht) (hs.onMsg fun _ ht => ht))

theorem Keeps.execStopReport {m : Msg} (hs : Keeps s₀ s) : OutKeeps s₀ (execStopReport m s) :=
  hs.onChild fun _ _ ht => Keeps.ite ht ht.withSteps.report

theorem Keeps.execTarget {m : Msg} (hs : Keeps s₀ s) : OutKeeps s₀ (execTarget m s) := hs.onRootFlood fun _ ht => ht.onTarget.report

theorem Keeps.execResume {m : Msg} (hs : Keeps s₀ s) : OutKeeps s₀ (execResume m s) := by
  unfold Machine.execResume
  refine hs.onRootFlood fun t ht => ?_
  split
  · exact ht
  · exact Keeps.ite ht.resume ht

/-! ### Sys2Proof/Machine/Control.lean -/

theorem Keeps.control {p : Nat} {x : Fin 4} {f : State → Ctx → State} (hs : Keeps s₀ s)
    (hf : ∀ t k, Keeps s₀ t → Keeps s₀ (f t k)) : OutKeeps s₀ (s.control p x f) :=
  hs.onCore fun _ => .ite hs (.ite hs.setCore.controlHit (hf _ _ hs.setCore))

theorem Keeps.writeReg {p : Nat} {x : Fin 4} {k : Ctx} {gd : Fin 32} {v : W32} (hs : Keeps s₀ s) : Keeps s₀ (s.writeReg p x k gd v) :=
  hs.setCtx

theorem Keeps.controlTrap {p : Nat} {x : Fin 4} {k : Ctx} (hs : Keeps s₀ s) : Keeps s₀ (s.controlTrap p x k) := hs.trap

theorem Keeps.alu {func p : Nat} {x : Fin 4} {gd ga gb : Fin 32} (hs : Keeps s₀ s) : OutKeeps s₀ (s.alu func p x gd ga gb) :=
  hs.control fun _ _ ht => ht.writeReg

theorem Keeps.execLw {p : Nat} {x : Fin 4} {gd ga : Fin 32} {imm : W16} (hs : Keeps s₀ s) : OutKeeps s₀ (execLw p x gd ga imm s) :=
  hs.control fun _ _ ht => Keeps.ite (Keeps.ite ht.controlHit ht.writeReg) ht.controlTrap

theorem Keeps.execSw {p : Nat} {x : Fin 4} {gd ga : Fin 32} {imm : W16} (hs : Keeps s₀ s) : OutKeeps s₀ (execSw p x gd ga imm s) :=
  hs.control fun _ _ ht => Keeps.ite ht.setCore.setCtx ht.controlTrap

theorem Keeps.execLcs {p : Nat} {x : Fin 4} {gd ga : Fin 32} {imm : W16} (hs : Keeps s₀ s) : OutKeeps s₀ (execLcs p x gd ga imm s) :=
  hs.control fun _ _ ht => Keeps.ite (Keeps.ite ht.writeReg.consumePoison ht.writeReg) ht.controlTrap

theorem Keeps.jump {p : Nat} {x : Fin 4} {k : Ctx} {gd : Fin 32} {link t : W32} (hs : Keeps s₀ s) : Keeps s₀ (s.jump p x k gd link t) :=
  .ite hs.setCtx hs.controlTrap

theorem Keeps.branch {p : Nat} {x : Fin 4} {ga gb : Fin 32} {off : W16} {cond : W32 → W32 → Bool} (hs : Keeps s₀ s) :
    OutKeeps s₀ (s.branch p x ga gb off cond) :=
  hs.control fun _ _ ht => Keeps.ite ht.jump ht.setCtx

theorem Keeps.execBeq {p : Nat} {x : Fin 4} {ga gb : Fin 32} {off : W16} (hs : Keeps s₀ s) : OutKeeps s₀ (execBeq p x ga gb off s) :=
  hs.branch

theorem Keeps.execBne {p : Nat} {x : Fin 4} {ga gb : Fin 32} {off : W16} (hs : Keeps s₀ s) : OutKeeps s₀ (execBne p x ga gb off s) :=
  hs.branch

theorem Keeps.execBlt {p : Nat} {x : Fin 4} {ga gb : Fin 32} {off : W16} (hs : Keeps s₀ s) : OutKeeps s₀ (execBlt p x ga gb off s) :=
  hs.branch

theorem Keeps.execBge {p : Nat} {x : Fin 4} {ga gb : Fin 32} {off : W16} (hs : Keeps s₀ s) : OutKeeps s₀ (execBge p x ga gb off s) :=
  hs.branch

theorem Keeps.execBltu {p : Nat} {x : Fin 4} {ga gb : Fin 32} {off : W16} (hs : Keeps s₀ s) : OutKeeps s₀ (execBltu p x ga gb off s) :=
  hs.branch

theorem Keeps.execBgeu {p : Nat} {x : Fin 4} {ga gb : Fin 32} {off : W16} (hs : Keeps s₀ s) : OutKeeps s₀ (execBgeu p x ga gb off s) :=
  hs.branch

theorem Keeps.execJal {p : Nat} {x : Fin 4} {gd : Fin 32} {off : BitVec 21} (hs : Keeps s₀ s) : OutKeeps s₀ (execJal p x gd off s) :=
  hs.control fun _ _ ht => ht.jump

theorem Keeps.execJalr {p : Nat} {x : Fin 4} {gd ga : Fin 32} {imm : W16} (hs : Keeps s₀ s) : OutKeeps s₀ (execJalr p x gd ga imm s) :=
  hs.control fun _ _ ht => ht.jump

theorem Keeps.entryBytes {p a : Nat} (hs : Keeps s₀ s) : Keeps s₀ (s.entryBytes p a).2 := by
  unfold State.entryBytes
  split
  · exact hs
  · exact hs.withFresh

theorem Keeps.enqueue {p : Nat} {x : Fin 4} {k : Ctx} {q : Nat} {e : Line} (hs : Keeps s₀ s) : Keeps s₀ (s.enqueue p x k q e) :=
  .ite hs.setCtx.headCheck hs.setCtx

theorem Keeps.execPush {p : Nat} {x : Fin 4} {queue : Fin 5} {ga gb : Fin 32} {patch : Bool} (hs : Keeps s₀ s) :
    OutKeeps s₀ (execPush p x queue ga gb patch s) := by
  unfold Machine.execPush
  refine hs.control fun t _ ht => ?_
  exact Keeps.ite ht.controlHit (Keeps.ite ht.entryBytes.enqueue ht.entryBytes.setCtx)

theorem Keeps.execPushResume {p : Nat} {x : Fin 4} (hs : Keeps s₀ s) : OutKeeps s₀ (execPushResume p x s) := by
  unfold Machine.execPushResume
  refine hs.onCore fun _ => ?_
  extract_lets k
  split
  · exact .ite hs.draw.bump64.enqueue hs
  · exact hs

theorem Keeps.execWaitsc {p : Nat} {x : Fin 4} {ctr : Fin 16} {value : W16} (hs : Keeps s₀ s) :
    OutKeeps s₀ (execWaitsc p x ctr value s) :=
  hs.control fun _ _ ht => Keeps.ite ht.setCtx ht.setCtx

theorem Keeps.execWaitscRelease {p : Nat} {x : Fin 4} (hs : Keeps s₀ s) : OutKeeps s₀ (execWaitscRelease p x s) := by
  unfold Machine.execWaitscRelease
  refine hs.onCore fun _ => ?_
  extract_lets k src
  split
  · exact .ite hs.setCtx hs
  · exact hs

theorem Keeps.execSigsc {p : Nat} {x : Fin 4} {ctr : Fin 16} (hs : Keeps s₀ s) : OutKeeps s₀ (execSigsc p x ctr s) :=
  hs.control fun _ _ ht => ht.setCtx

theorem Keeps.execStepend {p : Nat} {x : Fin 4} (hs : Keeps s₀ s) : OutKeeps s₀ (execStepend p x s) :=
  hs.control fun _ _ ht => ht.setCtx

theorem Keeps.execStepTokenReturn {p : Nat} {x : Fin 4} (hs : Keeps s₀ s) : OutKeeps s₀ (execStepTokenReturn p x s) :=
  hs.onCore fun _ => .ite hs.setCore.setCtx hs

/-! ### Sys2Proof/Machine/Session.lean -/

theorem PlanKeeps.only {status : Nat} : PlanKeeps (Plan.only status) := fun _ _ ht => ht

theorem Keeps.answer {r : Req} {handle : W32} {a : Resp} (hs : Keeps s₀ s) : Keeps s₀ (s.answer r handle a) := by
  unfold State.answer
  extract_lets m s1
  have h1 : Keeps s₀ s1 := by
    unfold s1
    split
    · exact hs
    · exact hs.setSession
  exact h1.emit

theorem Keeps.request {r : Req} {plan : State → Session → Plan} (hs : Keeps s₀ s) (hp : ∀ t q, PlanKeeps (plan t q)) :
    Keeps s₀ (s.request r plan) := by
  unfold State.request
  split
  · exact hs
  · exact hs.bump64
  · exact hs.emit
  · exact hp _ _ _ _ hs.setSession.answer

theorem Keeps.takeCommand {r : Req} {q : Session} {p : Plan} (hs : Keeps s₀ s) (hp : PlanKeeps p) : Keeps s₀ (s.takeCommand r q p) :=
  hp _ _ hs.setSession.answer

theorem Keeps.reusedHandle {r : Req} {q : Session} {p : Plan} (hs : Keeps s₀ s) (hp : PlanKeeps p) :
    Keeps s₀ (s.reusedHandle r q p) :=
  .ite (hs.draw.takeCommand hp) hs.draw.withFresh.answer

/-- A command of a session runs its plan's effect, or only answers. -/
theorem Keeps.commandWith {r : Req} {check : State → Session → Option Nat} {plan : State → Session → Plan} (hs : Keeps s₀ s)
    (hp : ∀ t q, PlanKeeps (plan t q)) : OutKeeps s₀ (s.commandWith r check plan) := by
  unfold State.commandWith
  split
  · exact hs
  · exact hs.bump64
  · exact hs.emit
  · extract_lets q s1
    have h1 : Keeps s₀ s1 := hs.setSession
    split
    · exact h1.answer
    · exact Keeps.ite (h1.reusedHandle (hp _ _)) (h1.takeCommand (hp _ _))

theorem Keeps.command {r : Req} {level : Nat} {present : Bool} {legal : MState → Bool} {argsOk : Bool}
    {plan : State → Session → Plan} (hs : Keeps s₀ s) (hp : ∀ t q, PlanKeeps (plan t q)) :
    OutKeeps s₀ (s.command r level present legal argsOk plan) := hs.commandWith hp

theorem PlanKeeps.refuse {status : Nat} : PlanKeeps (Plan.refuse status) := fun _ _ ht => ht

theorem Keeps.dropRoute {slot : Nat} (hs : Keeps s₀ s) : Keeps s₀ (s.dropRoute slot) := by
  unfold State.dropRoute
  extract_lets s1
  split
  · exact hs.put
  · exact hs.put.setSession.emits

theorem Keeps.dropWindow {w : Nat} (hs : Keeps s₀ s) : Keeps s₀ (s.dropWindow w) := by
  unfold State.dropWindow
  split
  · exact hs
  · extract_lets src s1 s2
    have h1 : Keeps s₀ s1 := hs.congr rfl rfl rfl rfl
    have h2 : Keeps s₀ s2 := by
      unfold s2
      split
      · exact h1
      · exact .ite h1.dropRoute h1
    exact h2.complete?

theorem Keeps.dropWindows {p : Window → Bool} (hs : Keeps s₀ s) : Keeps s₀ (s.dropWindows p) := hs.foldl fun _ _ ht => ht.dropWindow

theorem Keeps.endSession {slot : Nat} (hs : Keeps s₀ s) : Keeps s₀ (s.endSession slot) := by
  unfold State.endSession
  split
  · exact hs
  · exact hs.dropWindows.withSessions.put.put.put

/-! ### Sys2Proof/Machine/Sessions.lean -/

theorem Keeps.draw256 (hs : Keeps s₀ s) : Keeps s₀ s.draw256.2 := hs.withFresh

theorem Keeps.countOpen (hs : Keeps s₀ s) : Keeps s₀ s.countOpen := by
  unfold State.countOpen
  extract_lets sec
  exact hs.congr rfl rfl rfl rfl

theorem Keeps.challenge {src : Source} {level key : Nat} {nonceC : BitVec 256} (hs : Keeps s₀ s) :
    Keeps s₀ (s.challenge src level key nonceC) := by
  unfold State.challenge
  split
  · exact hs.emit
  · exact hs.draw.draw256.withSessions.emit

theorem Keeps.execOpenRequest {src : Source} {level key : Byte} {reserved : W16} {nonce : BitVec 256} (hs : Keeps s₀ s) :
    OutKeeps s₀ (execOpenRequest src level key reserved nonce s) :=
  .ite hs hs.countOpen.challenge

theorem Keeps.freshEntries {slot : Nat} (hs : Keeps s₀ s) : Keeps s₀ (s.freshEntries slot) := hs.put.put.put

theorem Keeps.execOpenProof {src : Source} {session : W32} {sig : BitVec 1056} (hs : Keeps s₀ s) :
    OutKeeps s₀ (execOpenProof src session sig s) := by
  unfold Machine.execOpenProof
  refine .ite hs ?_
  split
  · exact .ite hs (.ite hs.setSession.freshEntries.emit hs.withSessions.bump64.raise.emit)
  · exact hs.draw.bump64.raise.emit

theorem PlanKeeps.closePlan {q : Session} : PlanKeeps (closePlan s q) := fun _ _ ht => ht.endSession

theorem Keeps.execClose {r : Req} (hs : Keeps s₀ s) : OutKeeps s₀ (execClose r s) := hs.request fun _ _ => .closePlan

theorem Keeps.execSessionIdleExpiry {slot : Nat} (hs : Keeps s₀ s) : OutKeeps s₀ (execSessionIdleExpiry slot s) := by
  unfold Machine.execSessionIdleExpiry
  split
  · exact hs
  · exact .ite hs.endSession hs

theorem Keeps.execChallengeExpiry {slot : Nat} (hs : Keeps s₀ s) : OutKeeps s₀ (execChallengeExpiry slot s) := by
  unfold Machine.execChallengeExpiry
  split
  · exact hs
  · exact .ite hs hs.withSessions

theorem PlanKeeps.openWindowPlan {kind access portByte region hostQpn : Nat} {gid : BitVec 128} {q : Session} :
    PlanKeeps (openWindowPlan kind access portByte region hostQpn gid s q) :=
  fun _ _ ht => ht.congr rfl rfl rfl rfl

theorem Keeps.openWindow {r : Req} {kind access portByte reserved region hostQpn : Nat} {gid : BitVec 128} (hs : Keeps s₀ s) :
    OutKeeps s₀ (s.openWindow r kind access portByte reserved region hostQpn gid) :=
  hs.commandWith fun _ _ => .openWindowPlan

theorem Keeps.execOpenWindow {r : Req} {kind access portByte reserved : Byte} {region hostQpn : W32}
    {gid : BitVec 128} (hs : Keeps s₀ s) : OutKeeps s₀ (execOpenWindow r kind access portByte reserved region hostQpn gid s) :=
  hs.openWindow

theorem PlanKeeps.closeWindowPlan {r : Req} {window : Nat} {q : Session} : PlanKeeps (closeWindowPlan r window s q) := by
  unfold Machine.closeWindowPlan
  split
  · exact .refuse
  · split
    · exact .refuse
    · split
      · exact .refuse
      · exact fun _ _ ht => .ite ht.withWindows ht.withWindows.dropWindow

theorem Keeps.closeWindow {r : Req} {window reserved : Nat} (hs : Keeps s₀ s) : OutKeeps s₀ (s.closeWindow r window reserved) :=
  hs.command fun _ _ => .closeWindowPlan

theorem Keeps.execCloseWindow {r : Req} {window reserved : W16} (hs : Keeps s₀ s) : OutKeeps s₀ (execCloseWindow r window reserved s) :=
  hs.closeWindow

theorem Keeps.execRingConsumerReadDone {slot : Nat} {count : W64} (hs : Keeps s₀ s) :
    OutKeeps s₀ (execRingConsumerReadDone slot count s) := by
  unfold Machine.execRingConsumerReadDone
  split
  · exact hs
  · exact .ite hs (.ite hs.emits.setSession hs.emits.setSession.emit)

/-! ### Sys2Proof/Machine/Ethernet.lean -/

theorem Keeps.execArpRequest {port iface : Nat} {target : W32} (hs : Keeps s₀ s) : OutKeeps s₀ (execArpRequest port iface target s) :=
  .ite hs.emit hs

theorem Keeps.execNeighborSolicitation {port iface : Nat} {target : BitVec 128} (hs : Keeps s₀ s) :
    OutKeeps s₀ (execNeighborSolicitation port iface target s) :=
  .ite hs.emit hs

theorem Keeps.execIcmpEcho {port iface : Nat} {v6 : Bool} {dst : BitVec 128} {payload : List Byte} (hs : Keeps s₀ s) :
    OutKeeps s₀ (execIcmpEcho port iface v6 dst payload s) :=
  .ite hs.emit hs

theorem Keeps.execPfcFrameReceived {port iface prio : Nat} {quanta : W16} (hs : Keeps s₀ s) :
    OutKeeps s₀ (execPfcFrameReceived port iface prio quanta s) :=
  .ite (.ite hs.withPfc hs.withPfc.bump64) hs

theorem Keeps.execPfcPauseExpiry {port iface : Nat} (hs : Keeps s₀ s) : OutKeeps s₀ (execPfcPauseExpiry port iface s) := hs.withPfc

theorem Keeps.setStorage {n : Nat} {q : StorageQp} (hs : Keeps s₀ s) : Keeps s₀ (s.setStorage n q) := hs.withStorage

theorem Keeps.setWindow {w : Window} (hs : Keeps s₀ s) : Keeps s₀ (s.setWindow w) := hs.withWindows

theorem Keeps.qpError {w : Qp} (hs : Keeps s₀ s) : Keeps s₀ (s.qpError w) := by
  unfold State.qpError
  split
  · split
    · exact hs
    · exact hs.dropWindow.raise
  · split
    · exact hs
    · exact .ite hs.setStorage.storageLost.settleHeld hs

theorem Keeps.execQpError {q : Qp} (hs : Keeps s₀ s) : OutKeeps s₀ (execQpError q s) := hs.qpError

theorem Keeps.execAckTimeoutExpiry {q : Qp} (hs : Keeps s₀ s) : OutKeeps s₀ (execAckTimeoutExpiry q s) := by
  unfold Machine.execAckTimeoutExpiry
  split
  · split
    · exact hs
    · exact .ite hs.setWindow.emit hs.qpError
  · split
    · exact hs
    · exact .ite hs (.ite hs.setStorage.emit hs.qpError)

theorem Keeps.execCnpReceived {q : Qp} (hs : Keeps s₀ s) : OutKeeps s₀ (execCnpReceived q s) := by
  unfold Machine.execCnpReceived
  split
  · split
    · exact hs
    · exact hs.setWindow.bump64
  · split
    · exact hs
    · exact .ite hs hs.setStorage.bump64

theorem Keeps.execRateRecoveryTick {q : Qp} (hs : Keeps s₀ s) : OutKeeps s₀ (execRateRecoveryTick q s) := by
  unfold Machine.execRateRecoveryTick
  split
  · split
    · exact hs
    · exact hs.setWindow
  · split
    · exact hs
    · exact hs.setStorage

theorem Keeps.storageStart {n : Nat} {q : StorageQp} (hs : Keeps s₀ s) : Keeps s₀ (s.storageStart n q) :=
  .ite hs.draw.setStorage hs.setStorage

theorem Keeps.storageReady {port : Nat} (hs : Keeps s₀ s) : Keeps s₀ (s.storageReady port) := by
  unfold State.storageReady
  refine hs.foldl fun _ _ ht => ?_
  split
  · exact ht
  · exact .ite ht.storageStart ht

theorem Keeps.execEthernetLinkUp {port iface : Nat} (hs : Keeps s₀ s) : OutKeeps s₀ (execEthernetLinkUp port iface s) :=
  .ite hs.put (.ite (Keeps.ite hs.put.storageReady hs.put) hs)

theorem Keeps.execEthernetLinkDown {port iface : Nat} (hs : Keeps s₀ s) : OutKeeps s₀ (execEthernetLinkDown port iface s) :=
  .ite hs.put (.ite hs.put hs)

/-! ### Sys2Proof/Machine/Rdma.lean -/

theorem Keeps.rdma {w : Nat} {ok : Window → Bool} {f : Window → State → State} (hs : Keeps s₀ s)
    (hf : ∀ e t, Keeps s₀ t → Keeps s₀ (f e t)) : OutKeeps s₀ (s.rdma w ok f) := by
  unfold State.rdma
  refine .ite hs ?_
  split
  · exact hs.emit
  · exact .ite hs (.ite (hf _ _ hs) hs.emit)

theorem Keeps.offPin {g : Nat} (hs : Keeps s₀ s) : Keeps s₀ (s.offPin g) := .ite hs.copyFixed.setGran hs

theorem Keeps.writeFixed {a : Nat} {data : List Byte} {k : Nat} (hs : Keeps s₀ s) : Keeps s₀ (s.writeFixed a data k) := by
  induction k generalizing s a data with
  | zero => exact hs
  | succ k ih => exact .ite hs (ih hs.offPin.hbmWrite.markDirty)

theorem Keeps.hostData {data : List Byte} (hs : Keeps s₀ s) : Keeps s₀ (s.hostData data).2 := by
  unfold State.hostData
  split
  · exact hs.withFresh
  · exact hs

theorem Keeps.regionWrite {w : Nat} {r : Region} {addr : Nat} {data : List Byte} (hs : Keeps s₀ s) :
    Keeps s₀ (s.regionWrite w r addr data) := by
  unfold State.regionWrite
  split
  rename_i bytes t he
  have ht : Keeps s₀ t := by
    have h := hs.hostData (data := data)
    rwa [he] at h
  extract_lets s1 s2
  have h1 : Keeps s₀ s1 := .ite ht.writeFixed ht.hbmWrite
  exact (Keeps.ite h1.withFrozenStale h1).poisonFull.emit

theorem Keeps.closeAnswered {w : Nat} (hs : Keeps s₀ s) : Keeps s₀ (s.closeAnswered w) := by
  unfold State.closeAnswered
  split
  · exact hs
  · exact .ite hs.dropWindow hs

theorem Keeps.retryGo {ws : List (Nat × Nat × List Byte)} {held : List Nat} (hs : Keeps s₀ s) : Keeps s₀ (s.retryGo ws held) := by
  induction ws generalizing s held with
  | nil => exact hs
  | cons e ws ih =>
    unfold State.retryGo
    extract_lets keep
    split
    · exact ih hs
    · split
      · exact ih hs
      · exact .ite (ih hs.withMem) (ih hs.regionWrite)

theorem Keeps.retryWaiting (hs : Keeps s₀ s) : Keeps s₀ s.retryWaiting :=
  .ite hs (hs.withMem.retryGo.foldl fun _ _ ht => ht.closeAnswered)

theorem Keeps.execRegionWindowWrite {w addr : Nat} {data : List Byte} (hs : Keeps s₀ s) :
    OutKeeps s₀ (execRegionWindowWrite w addr data s) := by
  unfold Machine.execRegionWindowWrite
  extract_lets s1
  refine hs.retryWaiting.rdma fun _ t ht => ?_
  split
  · exact ht
  · exact Keeps.ite ht.withMem ht.regionWrite

theorem Keeps.readPoison {w : Nat} {g : Option Nat} (hs : Keeps s₀ s) : Keeps s₀ (s.readPoison w g) := by
  unfold State.readPoison
  extract_lets s1
  split
  · exact hs.emit.raise
  · exact hs.emit.raise.parityFixed

theorem Keeps.regionRead {w : Nat} {r : Region} {addr len : Nat} (hs : Keeps s₀ s) : Keeps s₀ (s.regionRead w r addr len) :=
  .ite (.ite hs.readPoison hs.emit) (.ite hs.readPoison hs.emit)

theorem Keeps.execRegionWindowRead {w addr len : Nat} (hs : Keeps s₀ s) : OutKeeps s₀ (execRegionWindowRead w addr len s) := by
  unfold Machine.execRegionWindowRead
  extract_lets s1
  refine .ite hs.retryWaiting ?_
  refine hs.retryWaiting.rdma fun _ t ht => ?_
  split
  · exact ht
  · exact ht.regionRead

theorem Keeps.storeInput {n : Nat} {d : JournalD} {o : Nat} {data : List Byte} (hs : Keeps s₀ s) : Keeps s₀ (s.storeInput n d o data) :=
  hs.withLedger

theorem Keeps.inputPagesTake {n : Nat} {d : JournalD} (hs : Keeps s₀ s) : Keeps s₀ (s.inputPagesTake n d) := .ite hs.setPages hs

theorem Keeps.execStepInputWrite {w : Nat} {va : W64} {data : List Byte} (hs : Keeps s₀ s) :
    OutKeeps s₀ (execStepInputWrite w va data s) := by
  unfold Machine.execStepInputWrite
  extract_lets o d? n?
  refine hs.rdma fun _ t ht => ?_
  clear_value d? n?
  split
  · exact ht.inputPagesTake.storeInput.emit
  · exact ht

theorem Keeps.execImageWindowAccess {w : Nat} {isWrite : Bool} {addr len : Nat} {data : List Byte} (hs : Keeps s₀ s) :
    OutKeeps s₀ (execImageWindowAccess w isWrite addr len data s) := by
  unfold Machine.execImageWindowAccess
  extract_lets n frozen
  exact hs.rdma fun _ _ ht => .ite ht.hbmWrite.poisonFull.emit (.ite ht.readPoison ht.emit)

/-! ### Sys2Proof/Machine/StepEvents.lean -/

theorem Keeps.setAside {n : Nat} (hs : Keeps s₀ s) : Keeps s₀ (s.setAside n) :=
  (hs.foldl fun _ _ ht => ht.inputPagesTake).foldl fun _ _ ht => .ite ht.setPages ht

theorem Keeps.copyInputs {n : Nat} {replay : Bool} (hs : Keeps s₀ s) : Keeps s₀ (s.copyInputs n replay) := by
  unfold State.copyInputs
  refine hs.foldl fun _ _ ht => ?_
  split
  · exact ht.hbmWrite
  · exact ht

theorem Keeps.startStep {n : Nat} (hs : Keeps s₀ s) : Keeps s₀ (s.startStep n) :=
  hs.setAside.updStep.put.copyInputs.poisonFull.withMem.withStreams.writeScales.noteScales.runAll.checkEnd

theorem Keeps.holdStep {r : StepRec} (hs : Keeps s₀ s) : Keeps s₀ (s.holdStep r) := .ite hs hs.updStep.bump64

theorem Keeps.execStepStart (hs : Keeps s₀ s) : OutKeeps s₀ (execStepStart s) := by
  unfold Machine.execStepStart
  split
  · exact hs
  · exact .ite hs (.ite hs.startStep hs.holdStep)

theorem Keeps.segmentToken {n v : Nat} (hs : Keeps s₀ s) : Keeps s₀ (s.segmentToken n v) := .ite hs hs.updStep

theorem Keeps.stepDone {n : Nat} (hs : Keeps s₀ s) : Keeps s₀ (s.stepDone n) := by
  unfold State.stepDone
  extract_lets s1 s2
  have h2 : Keeps s₀ s2 := by
    unfold s2
    split
    · exact hs.setStepSt.enterCheck
    · exact hs.setStepSt.mark
  exact h2.sendReady

theorem Keeps.execVatToken {vat : Nat} {n : W64} (hs : Keeps s₀ s) : OutKeeps s₀ (execVatToken vat n s) := by
  unfold Machine.execVatToken
  extract_lets n1 s1
  split
  · exact .ite hs (Keeps.ite hs.segmentToken.updStep.stepDone hs.segmentToken.updStep)
  · exact hs

/-! ### Sys2Proof/Machine/ReplayEvents.lean -/

theorem Keeps.setReplay {old new : Replay} (hs : Keeps s₀ s) : Keeps s₀ (s.setReplay old new) := hs.withLedger

theorem Keeps.countReplay {w : Which} (hs : Keeps s₀ s) : Keeps s₀ (s.countReplay w) := by
  unfold State.countReplay
  split
  · exact hs.bump64
  · exact hs.bump64.bump64
  · exact hs.bump64

theorem Keeps.startReplay {r : Replay} {cores : List (Nat × Nat)} (hs : Keeps s₀ s) : Keeps s₀ (s.startReplay r cores) := by
  unfold State.startReplay
  exact (hs.setReplay.foldl fun _ _ ht => ht.setCoreState.bindCore).withStreams.copyInputs.poisonFull.writeScales.withMem.runVat.countReplay

theorem Keeps.execReplayStart (hs : Keeps s₀ s) : OutKeeps s₀ (execReplayStart s) := by
  unfold Machine.execReplayStart
  split
  · exact hs
  · refine .ite hs.settleSpares ?_
    refine .ite hs ?_
    split
    · exact hs
    · exact hs.startReplay

theorem Keeps.endReplay {r : Replay} (hs : Keeps s₀ s) : Keeps s₀ (s.endReplay r) := hs.dropBooks.withLedger.releaseCores

theorem Keeps.judge {r : Replay} {d : W64 × W64} (hs : Keeps s₀ s) : Keeps s₀ (s.judge r d) := by
  unfold State.judge
  extract_lets ps s1 src
  split
  · exact hs
  · extract_lets d0
    refine .ite hs.undecided ?_
    split
    · exact .ite hs.setVerdict.suspectCores (.ite hs.setVerdict.suspectCores hs.setVerdict)
    · exact .ite hs.setVerdict (.ite hs.setVerdict.withLedger hs.undecided)

theorem Keeps.execReplayComplete {vat : Nat} {n : W64} (hs : Keeps s₀ s) : OutKeeps s₀ (execReplayComplete vat n s) := by
  unfold Machine.execReplayComplete
  split
  · exact hs
  · exact .ite hs hs.endReplay.judge.settleCheck

theorem Keeps.settleCore {p : Nat} (hs : Keeps s₀ s) : Keeps s₀ (s.settleCore p) := by
  unfold State.settleCore
  extract_lets s1
  split
  · exact hs.settle
  · exact .ite hs.settle.endGroup hs.settle

theorem Keeps.settleStopped (hs : Keeps s₀ s) : Keeps s₀ s.settleStopped := hs.foldl fun _ _ ht => .ite ht.settleCore ht

theorem Keeps.nextSuspect {rc : Recovery} (hs : Keeps s₀ s) : Keeps s₀ (s.nextSuspect rc) := by
  unfold State.nextSuspect
  extract_lets rest src s1 src1
  split
  · exact hs.withLedger.withLedger
  · split
    · exact hs.withLedger
    · exact hs.withLedger.prove

theorem Keeps.workDone (hs : Keeps s₀ s) : Keeps s₀ s.workDone := by
  unfold State.workDone
  refine .ite hs ?_
  split
  · exact (Keeps.ite hs.enterStopped hs).report
  · exact .ite hs.recovered hs
  · exact hs

theorem Keeps.execQuiesceComplete (hs : Keeps s₀ s) : OutKeeps s₀ (execQuiesceComplete s) := by
  unfold Machine.execQuiesceComplete
  refine .ite hs ?_
  split
  · exact .ite hs hs.settleStopped.withSteps.checkStop.report
  · exact .ite hs hs.settleStopped.nextSuspect.workDone
  · exact hs

theorem Keeps.dropSuspect (hs : Keeps s₀ s) : Keeps s₀ s.dropSuspect := by
  unfold State.dropSuspect
  split
  · exact hs
  · exact hs.nextSuspect

theorem Keeps.spareFault {r : Replay} {p : Nat} (hs : Keeps s₀ s) : Keeps s₀ (s.spareFault r p) :=
  hs.setReplay.dropBooks.releaseCores.fence

theorem Keeps.execSuspectReplayJudged {j : Judgement} (hs : Keeps s₀ s) : OutKeeps s₀ (execSuspectReplayJudged j s) := by
  unfold Machine.execSuspectReplayJudged
  split
  · refine .ite hs ?_
    split
    · split
      · exact hs
      · exact hs.endReplay.programFault
    · exact hs.spareFault
    · exact hs.endReplay.dropSuspect
    · exact hs.endReplay.dropSuspect
    · exact hs.endReplay.dropSuspect
  · exact hs

theorem Keeps.rebind {p l : Nat} (hs : Keeps s₀ s) : Keeps s₀ (s.rebind p l) := .ite hs.put hs.bindCore.withStreams.writeScales

theorem Keeps.coresLost (hs : Keeps s₀ s) : Keeps s₀ s.coresLost := hs.haltWave.setM

theorem Keeps.execProvingDue {p : Nat} (hs : Keeps s₀ s) : OutKeeps s₀ (execProvingDue p s) :=
  .ite trivial (.ite hs.withProving.proveIfDue hs)

theorem Keeps.completeProve {p : Nat} (hs : Keeps s₀ s) : Keeps s₀ (s.completeProve p) := hs.withJobs.foldl fun _ _ ht => ht.complete

theorem Keeps.completeFence {p : Nat} (hs : Keeps s₀ s) : Keeps s₀ (s.completeFence p) := hs.withJobs.foldl fun _ _ ht => ht.complete

theorem Keeps.noteProving {p : Nat} {failed : Option (Fin 4)} (hs : Keeps s₀ s) : Keeps s₀ (s.noteProving p failed) := by
  unfold State.noteProving
  extract_lets s1 s2 src s3
  have h2 : Keeps s₀ s2 := .ite hs.bump64.put.put.bump64 hs.bump64.put.put
  exact .ite h2.withProving.draw.put.withProving h2.withProving

theorem Keeps.endFencedProving {p : Nat} {passed : Bool} (hs : Keeps s₀ s) : Keeps s₀ (s.endFencedProving p passed) :=
  .ite hs.setCoreState.put (.ite hs.setCoreState.put.setCoreState hs.setCoreState.put)

theorem Keeps.endProving {p from_ : Nat} {passed : Bool} (hs : Keeps s₀ s) : Keeps s₀ (s.endProving p from_ passed) := by
  unfold State.endProving
  refine .ite ?_ hs.fence
  extract_lets s1
  split
  · exact hs.setCoreState
  · exact hs.setCoreState.rebind

theorem Keeps.noteProved {p : Nat} (hs : Keeps s₀ s) : Keeps s₀ (s.noteProved p) := by
  unfold State.noteProved
  split
  · exact hs
  · split
    · exact hs
    · exact .ite hs.withLedger hs

theorem Keeps.execProvingComplete {p : Nat} {failed : Option (Fin 4)} (hs : Keeps s₀ s) :
    OutKeeps s₀ (execProvingComplete p failed s) := by
  unfold Machine.execProvingComplete
  split
  · exact hs
  · extract_lets s1 s2
    have h2 : Keeps s₀ s2 := Keeps.ite hs.clearCore.noteProving.endFencedProving hs.clearCore.noteProving.endProving
    exact h2.completeProve.noteProved.workDone.proveDue

theorem Keeps.execFenceRemapComplete {p : Nat} (hs : Keeps s₀ s) : OutKeeps s₀ (execFenceRemapComplete p s) := by
  unfold Machine.execFenceRemapComplete
  split
  · exact hs
  · extract_lets src s1 s2
    have h2 : Keeps s₀ s2 := by
      unfold s2
      split
      · exact hs.withProving.rebind
      · exact Keeps.ite hs.withProving.coresLost hs.withProving
    exact h2.completeFence.workDone

/-! ### Sys2Proof/Machine/Restore.lean -/

theorem Keeps.computeFrozen (hs : Keeps s₀ s) : Keeps s₀ s.computeFrozen := hs.congr rfl rfl rfl rfl

theorem Keeps.setRestore {r : Restore} (hs : Keeps s₀ s) : Keeps s₀ (s.setRestore r) := hs.withCkpt

theorem Keeps.endSlots {keep : Bool} (hs : Keeps s₀ s) : Keeps s₀ (s.endSlots keep) := hs.mapGrans

theorem Keeps.checkHistory (hs : Keeps s₀ s) : Keeps s₀ s.checkHistory := hs.foldl fun _ _ ht => ht.parityFixed

theorem Keeps.restored {r : Restore} (hs : Keeps s₀ s) : Keeps s₀ (s.restored r) := by
  unfold State.restored
  extract_lets s1 src s2 src1 s3 s4 src2 src3 src4 s5 s6
  have h2 : Keeps s₀ s2 := .ite hs.endSlots hs.endSlots.withLedger
  have h4 : Keeps s₀ s4 := .ite h2.withMirror h2.mapGrans.withMirror
  have h5 : Keeps s₀ s5 := h4.congr rfl rfl rfl rfl
  exact h5.put.put.put.put.put.bump32.resetStreams

theorem Keeps.restoreEnd {c status : Nat} (hs : Keeps s₀ s) : Keeps s₀ (s.restoreEnd c status) := by
  unfold State.restoreEnd
  split
  · exact hs
  · refine .ite hs ?_
    extract_lets s1 src src1 s2 s3 s4
    have h1 : Keeps s₀ s1 := .ite hs.restored hs.endSlots
    have h2 : Keeps s₀ s2 := h1.congr rfl rfl rfl rfl
    have h4 : Keeps s₀ s4 := (Keeps.ite h2.complete?.enterStopped h2.complete?).report
    exact .ite h4.checkHistory h4

theorem Keeps.decideRestore {m : Option (List Byte)} (hs : Keeps s₀ s) : Keeps s₀ (s.decideRestore m) := by
  unfold State.decideRestore
  split
  · exact hs
  · exact hs.flood.restoreEnd

theorem Keeps.gatherDone (hs : Keeps s₀ s) : Keeps s₀ s.gatherDone := by
  unfold State.gatherDone
  split
  · exact hs
  · refine .ite hs.decideRestore ?_
    split
    · exact hs.decideRestore
    · exact hs.setRestore.emit

theorem Keeps.restoreReport {rep : RestoreRep} (hs : Keeps s₀ s) : Keeps s₀ (s.restoreReport rep) := by
  unfold State.restoreReport
  extract_lets rs src s1
  split
  · exact hs.withCkpt
  · exact .ite hs.withCkpt.gatherDone hs.withCkpt

theorem Keeps.reportRestore {status source : Nat} (hs : Keeps s₀ s) : Keeps s₀ (s.reportRestore status source) := by
  unfold State.reportRestore
  split
  · exact hs
  · exact .ite hs.setRestore.restoreReport hs.setRestore.sendClass1

theorem Keeps.tryStorage (hs : Keeps s₀ s) : Keeps s₀ s.tryStorage := by
  unfold State.tryStorage
  split
  · exact hs
  · exact .ite hs.reportRestore hs.setRestore.emit

theorem Keeps.askPartner (hs : Keeps s₀ s) : Keeps s₀ s.askPartner := by
  unfold State.askPartner
  split
  · exact hs
  · exact hs.withMirror.sendPartner

theorem Keeps.tryPartner (hs : Keeps s₀ s) : Keeps s₀ s.tryPartner := by
  unfold State.tryPartner
  split
  · exact hs
  · exact .ite hs.setRestore.askPartner hs.tryStorage

theorem Keeps.chooseSource (hs : Keeps s₀ s) : Keeps s₀ s.chooseSource := by
  unfold State.chooseSource
  split
  · exact hs
  · exact .ite hs.reportRestore hs.tryPartner

theorem Keeps.writeRestored {g : Nat} {b : List Byte} (hs : Keeps s₀ s) : Keeps s₀ (s.writeRestored g b) :=
  (Keeps.ite hs.yieldDelta hs).setGran.hbmWrite

theorem Keeps.partnerData {r : Restore} {m : Msg} (hs : Keeps s₀ s) : Keeps s₀ (s.partnerData r m) := by
  unfold State.partnerData
  refine .ite hs.endSlots.tryStorage ?_
  split
  · exact .ite hs.writeRestored.setRestore.askPartner hs.writeRestored.reportRestore
  · exact hs.reportRestore

theorem Keeps.execMirrorData {m : Msg} (hs : Keeps s₀ s) : OutKeeps s₀ (execMirrorData m s) := by
  unfold Machine.execMirrorData
  refine hs.onMsg fun t ht => ?_
  refine .ite ht ?_
  split
  · exact ht
  · extract_lets src s1
    split
    · exact ht.withMirror
    · exact ht.withMirror.repairAnswer
    · split
      · exact ht.withMirror
      · exact Keeps.ite ht.withMirror.partnerData ht.withMirror

theorem Keeps.restoreLinkDown {port : Nat} (hs : Keeps s₀ s) : Keeps s₀ (s.restoreLinkDown port) := by
  unfold State.restoreLinkDown
  split
  · exact hs
  · exact .ite hs.reportRestore hs

theorem Keeps.askBlock (hs : Keeps s₀ s) : Keeps s₀ s.askBlock := by
  unfold State.askBlock
  split
  · exact hs
  · exact hs.emit

theorem Keeps.takeHeader {r : Restore} {h : List Byte} (hs : Keeps s₀ s) : Keeps s₀ (s.takeHeader r h) :=
  .ite hs.reportRestore (.ite hs.reportRestore (.ite hs.reportRestore hs.setRestore.emit))

theorem Keeps.endBlocks {r : Restore} (hs : Keeps s₀ s) : Keeps s₀ (s.endBlocks r) := .ite hs.reportRestore hs.reportRestore

theorem Keeps.takeIndex {r : Restore} {b : List Byte} (hs : Keeps s₀ s) : Keeps s₀ (s.takeIndex r b) :=
  .ite hs.setRestore.endBlocks hs.setRestore.askBlock

theorem Keeps.takeBlock {r : Restore} {b : List Byte} (hs : Keeps s₀ s) : Keeps s₀ (s.takeBlock r b) := by
  unfold State.takeBlock
  extract_lets blk own r1
  split
  · exact hs.reportRestore
  · refine .ite hs.reportRestore ?_
    extract_lets s1 s2
    have h1 : Keeps s₀ s1 := .ite hs hs.writeRestored
    exact .ite h1.setRestore.askBlock h1.setRestore.endBlocks

theorem Keeps.execStorageReadResponse {data : List Byte} {ok : Bool} (hs : Keeps s₀ s) :
    OutKeeps s₀ (execStorageReadResponse data ok s) := by
  unfold Machine.execStorageReadResponse
  refine .ite hs ?_
  split
  · exact hs
  · refine .ite hs.decideRestore ?_
    refine .ite hs.setRestore ?_
    refine .ite ?_ hs
    exact .ite hs.reportRestore (.ite hs.takeHeader (.ite hs.takeIndex hs.takeBlock))

theorem Keeps.execRestoreReport {m : Msg} (hs : Keeps s₀ s) : OutKeeps s₀ (execRestoreReport m s) :=
  hs.onMsg fun _ ht => Keeps.ite ht ht.restoreReport

theorem Keeps.execRestoreEnd {m : Msg} (hs : Keeps s₀ s) : OutKeeps s₀ (execRestoreEnd m s) :=
  hs.onFlood fun _ ht => Keeps.ite ht.restoreEnd ht

theorem Keeps.execGatherTimeout (hs : Keeps s₀ s) : OutKeeps s₀ (execGatherTimeout s) := by
  unfold Machine.execGatherTimeout
  refine .ite hs ?_
  refine .ite hs.failCut ?_
  split
  · exact hs
  · exact .ite hs hs.gatherDone

/-! ### Sys2Proof/Machine/TorusLink.lean -/

theorem Keeps.setLinkState {p v : Nat} (hs : Keeps s₀ s) : Keeps s₀ (s.setLinkState p v) := hs.put

theorem Keeps.onLink {p : Nat} {f : State → Out} (hs : Keeps s₀ s) (hf : ∀ t, Keeps s₀ t → OutKeeps s₀ (f t)) :
    OutKeeps s₀ (s.onLink p f) :=
  .ite trivial (.ite hs (hf _ hs))

theorem Keeps.setMap {p : Nat} {m : List Nat} (hs : Keeps s₀ s) : Keeps s₀ (s.setMap p m) := hs.setLink.put

theorem Keeps.retireLane {p lane : Nat} (hs : Keeps s₀ s) : Keeps s₀ (s.retireLane p lane) := .ite hs hs.setLink.put.raise

theorem Keeps.sendMap {p : Nat} (hs : Keeps s₀ s) : Keeps s₀ (s.sendMap p) := hs.controlFlit

theorem Keeps.resetBooks {ds : List StreamD} (hs : Keeps s₀ s) : Keeps s₀ (s.resetBooks ds) := hs.withStreams

theorem Keeps.linkTraffic {p : Nat} (hs : Keeps s₀ s) : Keeps s₀ (s.linkTraffic p) := .ite hs hs.haltWave

theorem Keeps.freeQueue {p : Nat} (hs : Keeps s₀ s) : Keeps s₀ (s.freeQueue p) := by
  unfold State.freeQueue
  extract_lets gone s1
  have h1 : Keeps s₀ s1 := hs.congr rfl rfl rfl (List.length_map _)
  exact h1.foldl fun _ _ ht => ht.leaveBuffer

theorem Keeps.dropLink {p dest : Nat} (hs : Keeps s₀ s) : Keeps s₀ (s.dropLink p dest) := by
  unfold State.dropLink
  extract_lets was s1 l src s2 s3
  have h2 : Keeps s₀ s2 := hs.freeQueue.setLink.setLinkState
  exact .ite h2.put.put.resetBooks.mirrorLinkDown.restoreLinkDown h2.put.put

theorem Keeps.linkDown {p : Nat} (hs : Keeps s₀ s) : Keeps s₀ (s.linkDown p) := hs.dropLink.linkTraffic

theorem Keeps.linkFaulted {p : Nat} (hs : Keeps s₀ s) : Keeps s₀ (s.linkFaulted p) := hs.dropLink.raise.linkTraffic

theorem Keeps.execSignalDetect {port lanes : Nat} (hs : Keeps s₀ s) : OutKeeps s₀ (execSignalDetect port lanes s) :=
  hs.onLink fun _ ht => .ite ht ht.setLink.setLinkState

theorem Keeps.execEqualizationComplete {port : Nat} {trained : List Nat} (hs : Keeps s₀ s) :
    OutKeeps s₀ (execEqualizationComplete port trained s) :=
  hs.onLink fun _ ht => .ite ht ht.setLink.setMap.setLinkState.sendMap

theorem Keeps.execAlignComplete {port : Nat} (hs : Keeps s₀ s) : OutKeeps s₀ (execAlignComplete port s) :=
  hs.onLink fun _ ht => .ite ht ht.setLinkState.controlFlit

theorem Keeps.linkActive {p : Nat} (hs : Keeps s₀ s) : Keeps s₀ (s.linkActive p) :=
  .ite hs hs.setLink.setLinkState.put.mirrorLinkUp.drainPort

theorem Keeps.execPeerRecord {port : Nat} {rec : List Byte} (hs : Keeps s₀ s) : OutKeeps s₀ (execPeerRecord port rec s) := by
  unfold Machine.execPeerRecord
  refine hs.onLink fun t ht => ?_
  refine .ite trivial ?_
  refine .ite ht ?_
  exact .ite ht.put.setLink.controlFlit.linkActive ht.put.controlFlit.put.raise.linkFaulted

theorem Keeps.execTorusRefuse {port : Nat} {reason : Byte} (hs : Keeps s₀ s) : OutKeeps s₀ (execTorusRefuse port reason s) :=
  hs.onLink fun _ ht => .ite ht ht.raise.linkFaulted

theorem Keeps.execLinkUpTimeout {port : Nat} (hs : Keeps s₀ s) : OutKeeps s₀ (execLinkUpTimeout port s) :=
  hs.onLink fun _ ht => .ite ht.put.linkFaulted ht

theorem Keeps.enterRetrain {p : Nat} (hs : Keeps s₀ s) : Keeps s₀ (s.enterRetrain p) :=
  (Keeps.ite hs.setLink hs.setLink.setLinkState.bump32).sendMap

theorem Keeps.repairLink {p lane : Nat} (hs : Keeps s₀ s) : Keeps s₀ (s.repairLink p lane) :=
  .ite hs.retireLane.linkDown hs.retireLane.setLink.enterRetrain

theorem Keeps.execTorusLaneFault {port lane : Nat} {recovered : Bool} (hs : Keeps s₀ s) :
    OutKeeps s₀ (execTorusLaneFault port lane recovered s) := by
  unfold Machine.execTorusLaneFault
  refine hs.onLink fun t ht => ?_
  exact .ite trivial (.ite ht (.ite ht.setLink.repairLink ht.setLink.enterRetrain))

theorem Keeps.execFlapDecay {port lane : Nat} (hs : Keeps s₀ s) : OutKeeps s₀ (execFlapDecay port lane s) :=
  hs.onLink fun _ ht => .ite trivial ht.setLink

theorem Keeps.resend {p : Nat} (hs : Keeps s₀ s) : Keeps s₀ (s.resend p) := hs.bump64.foldl fun _ _ ht => ht.putFlit

theorem Keeps.retrained {p : Nat} (hs : Keeps s₀ s) : Keeps s₀ (s.retrained p) :=
  .ite hs hs.setMap.setLinkState.put.resend.returnOwed.drainPort

theorem Keeps.execTorusAccept {port : Nat} (hs : Keeps s₀ s) : OutKeeps s₀ (execTorusAccept port s) :=
  hs.onLink fun _ ht => .ite ht.setLink.linkActive (.ite ht.setLink.retrained ht)

theorem Keeps.retireMapped {p : Nat} {m : List Nat} (hs : Keeps s₀ s) : Keeps s₀ (s.retireMapped p m) :=
  hs.foldl fun _ _ ht => ht.retireLane

theorem Keeps.peerMap {p : Nat} {m : List Nat} (hs : Keeps s₀ s) : Keeps s₀ (s.peerMap p m) := by
  unfold State.peerMap
  extract_lets own s1 was m1 src s2 s3 src1
  have h3 : Keeps s₀ s3 := .ite hs.retireMapped.setLink hs.retireMapped.setLink.enterRetrain
  refine .ite (.ite hs.retireMapped.linkDown hs.retireMapped.setLink.enterRetrain) ?_
  exact h3.setLink.controlFlit.retrained

theorem Keeps.execLaneMap {port : Nat} {map : List Byte} (hs : Keeps s₀ s) : OutKeeps s₀ (execLaneMap port map s) :=
  hs.onLink fun _ ht => .ite ht (.ite ht.setLink.setMap (.ite ht.peerMap ht))

theorem Keeps.execRetrainTimeout {port : Nat} (hs : Keeps s₀ s) : OutKeeps s₀ (execRetrainTimeout port s) :=
  hs.onLink fun _ ht => .ite ht.linkDown ht

theorem Keeps.execLossOfSignal {port lanesLost : Nat} {peerDown : Bool} (hs : Keeps s₀ s) :
    OutKeeps s₀ (execLossOfSignal port lanesLost peerDown s) :=
  hs.onLink fun _ ht => .ite ht.linkDown ht

/-! ### Sys2Proof/Machine/Resets.lean -/

theorem Keeps.joinOff {key : Nat} (hs : Keeps s₀ s) : Keeps s₀ (s.joinOff key) :=
  (Keeps.ite (Keeps.ite hs.setJoin hs.setJoin.put).put (.ite hs.setJoin hs.setJoin.put)).resetBooks

theorem Keeps.joinOn {key rate : Nat} {books : List Nat} (hs : Keeps s₀ s) : Keeps s₀ (s.joinOn key rate books) :=
  .ite hs.setJoin.put.put hs.setJoin.put

theorem Keeps.setStacks {d v : Nat} (hs : Keeps s₀ s) : Keeps s₀ (s.setStacks d v) := hs.foldl fun _ _ ht => .ite ht ht.put

theorem Keeps.zeroBase {d : Nat} (hs : Keeps s₀ s) : Keeps s₀ (s.zeroBase d) := hs.withMem

theorem Keeps.loseHbm {d : Nat} (hs : Keeps s₀ s) : Keeps s₀ (s.loseHbm d) := hs.withMem.put.dropSource

theorem Keeps.cancelNarrow {d : Nat} (hs : Keeps s₀ s) : Keeps s₀ (s.cancelNarrow d) := hs.withMem

theorem Keeps.resetCore {p : Nat} (hs : Keeps s₀ s) : Keeps s₀ (s.resetCore p) := hs.setCore.put

theorem Keeps.restartReplays {d : Nat} (hs : Keeps s₀ s) : Keeps s₀ (s.restartReplays d) :=
  hs.foldl fun _ _ ht => ht.withLedger.dropBooks.releaseCores

theorem Keeps.dieResetSteps {orderly : Bool} (hs : Keeps s₀ s) : Keeps s₀ (s.dieResetSteps orderly) := by
  unfold State.dieResetSteps
  refine .ite hs ?_
  refine .ite hs.withSteps.haltWave ?_
  exact .ite hs (.ite hs.haltWave (.ite hs.rerunLocal.streamReset hs.haltWave))

theorem Keeps.shardReset (hs : Keeps s₀ s) : Keeps s₀ s.shardReset := hs.failShards.withCkpt.foldl fun _ _ ht => ht.shardFailed

theorem Keeps.tellNeighbours {d : Nat} (hs : Keeps s₀ s) : Keeps s₀ (s.tellNeighbours d) := hs.foldl fun _ _ ht => ht.emit

theorem Keeps.retag (hs : Keeps s₀ s) : Keeps s₀ s.retag := hs.foldl fun _ _ ht => ht.setTags

theorem Keeps.resetDie {d : Nat} {orderly clock : Bool} (hs : Keeps s₀ s) : Keeps s₀ (s.resetDie d orderly clock) := by
  unfold State.resetDie
  extract_lets was src s1 s2 s3 ds s4 s5 s6 s7 s8
  have h2 : Keeps s₀ s2 := .ite hs.withPower.bump32 hs.withPower
  have h3 : Keeps s₀ s3 := .ite h2.bump32.put h2
  have h4 : Keeps s₀ s4 := .ite h3.flushWhere.tellNeighbours h3
  have h5 : Keeps s₀ s5 := h4.shardReset.restartReplays.dieResetSteps
  have h6 : Keeps s₀ s6 := h5.foldl fun _ _ ht => ht.joinOff
  have h8 : Keeps s₀ s8 := (h6.put.resetBooks.retag.foldl fun _ _ ht => ht.resetCore).cancelNarrow
  exact .ite hs (.ite h8.zeroBase.setStacks h8.zeroBase.loseHbm.setStacks)

theorem Keeps.joinFault {key : Nat} (hs : Keeps s₀ s) : Keeps s₀ (s.joinFault key) := .ite hs.joinOff.resetDie hs.joinOff.resetDie

theorem Keeps.coreStates (hs : Keeps s₀ s) : Keeps s₀ s.coreStates := by
  unfold State.coreStates
  refine hs.foldl fun _ _ ht => ?_
  extract_lets st kept
  split
  · exact ht.setCoreState.put
  · exact ht.setCoreState.put

theorem Keeps.startHub {first : Nat} (hs : Keeps s₀ s) : Keeps s₀ (s.startHub first) := by
  unfold State.startHub
  refine .ite hs.withFw ?_
  refine .ite hs.withFw ?_
  extract_lets src src1 s1
  have h1 : Keeps s₀ s1 := hs.congr rfl rfl rfl rfl
  exact h1.raise.raise.setM

theorem Keeps.hubLink {p : Nat} (hs : Keeps s₀ s) : Keeps s₀ (s.hubLink p) := .ite hs hs.dropLink

theorem Keeps.dropManagement (hs : Keeps s₀ s) : Keeps s₀ s.dropManagement := by
  unfold State.dropManagement
  extract_lets src s1 s2
  have h1 : Keeps s₀ s1 := hs.congr rfl rfl rfl rfl
  have h2 : Keeps s₀ s2 := h1.foldl fun _ _ ht => ht.put.put.put
  exact h2.put.foldl fun _ _ ht => ht.put.put

theorem Keeps.dropHubWork (hs : Keeps s₀ s) : Keeps s₀ s.dropHubWork := by
  unfold State.dropHubWork
  extract_lets s1 s2 src s3 src1 src2 src3
  have h2 : Keeps s₀ s2 := (Keeps.ite hs.put hs).shardReset
  exact h2.withCkpt.failCut.congr rfl rfl rfl rfl

theorem Keeps.resetHub {orderly : Bool} {first : Nat} (hs : Keeps s₀ s) : Keeps s₀ (s.resetHub orderly first) := by
  unfold State.resetHub
  extract_lets s1 src s2 s3 s4 s5
  have h1 : Keeps s₀ s1 := .ite hs.flushLog hs.withLogBuf
  have h3 : Keeps s₀ s3 := h1.withPower.foldl fun _ _ ht => ht.hubLink
  have h4 : Keeps s₀ s4 := h3.foldl fun _ _ ht => ht.joinOff
  have h5 : Keeps s₀ s5 := h4.dropManagement.dropHubWork.put.put
  exact h5.put.put.startHub

/-- Beside `State.setLink`, the other way the torus ports change: every port's entry is renewed, so there are as many. -/
theorem Keeps.wipe {kept : Nat → Bool} (hs : Keeps s₀ s) : Keeps s₀ (s.wipe kept) := by
  unfold State.wipe
  extract_lets states fresh links power fw proving t
  have ht : Keeps s₀ t := hs.congr rfl rfl rfl (List.length_map _)
  exact ht.foldl fun _ _ hu => hu.put

theorem Keeps.bootModule (hs : Keeps s₀ s) : Keeps s₀ s.bootModule := by
  unfold State.bootModule
  extract_lets src s1
  have h1 : Keeps s₀ s1 := hs.congr rfl rfl rfl rfl
  exact h1.startHub

theorem Keeps.moduleReset (hs : Keeps s₀ s) : Keeps s₀ s.moduleReset := hs.shardReset.flushLog.wipe.bootModule

theorem Keeps.failStart (hs : Keeps s₀ s) : Keeps s₀ s.failStart := by
  unfold State.failStart
  extract_lets s1 n other src
  have h1 : Keeps s₀ s1 := hs.bump32
  exact .ite h1.withFw.moduleReset (.startHub (h1.congr rfl rfl rfl rfl))

/-! ### Sys2Proof/Machine/Scrub.lean -/

theorem Keeps.poisonJournal (hs : Keeps s₀ s) : Keeps s₀ s.poisonJournal := .ite hs.draw hs.draw.withLedger

theorem Keeps.slotHit {la g k : Nat} (hs : Keeps s₀ s) : Keeps s₀ (s.slotHit la g k) := by
  unfold State.slotHit
  extract_lets r s1 s2
  have h2 : Keeps s₀ s2 := hs.poisonLine.failShards.settleHeld
  refine .ite hs.parityFixed ?_
  split
  · exact h2
  · exact h2.mark

theorem Keeps.reserveHit {g k : Nat} (hs : Keeps s₀ s) : Keeps s₀ (s.reserveHit g k) := by
  unfold State.reserveHit
  refine .ite hs.invalidGranule ?_
  split
  · exact hs
  · exact .ite hs.withMirror hs

/-- What a place is does not matter here: `State.hbmPlace` stands as an unknown function before the split, so that the kernel does not
evaluate its comparisons. -/
theorem Keeps.hbmScrubHit {la : Nat} (hs : Keeps s₀ s) : Keeps s₀ (s.hbmScrubHit la) := by
  generalize hf : State.hbmScrubHit = f
  delta State.hbmScrubHit at hf
  generalize State.hbmPlace = place at hf
  subst hf
  dsimp only
  split
  · exact hs.slotHit
  · exact hs.poisonJournal
  · exact hs.reserveHit
  · exact hs.poisonLine

theorem Keeps.repeatHit {stack la : Nat} (hs : Keeps s₀ s) : Keeps s₀ (s.repeatHit stack la) := .ite hs.withMem.put hs.withMem

theorem Keeps.scrubNext {key : Nat} (hs : Keeps s₀ s) : Keeps s₀ (s.scrubNext key) := hs.withMem

theorem Keeps.scrubHbm {n : Nat} {hit : Bool} (hs : Keeps s₀ s) : Keeps s₀ (s.scrubHbm n hit) := by
  unfold State.scrubHbm
  extract_lets la before s1 s2 s3
  have h3 : Keeps s₀ s3 := .ite hs.scrubNext.bump32.bump64 hs.scrubNext.bump32
  exact .ite h3.bump64.repeatHit.hbmScrubHit.poisonFull h3

theorem Keeps.freeUnit {a : Nat} (hs : Keeps s₀ s) : Keeps s₀ (s.freeUnit a).2 := hs.draw

theorem Keeps.baseScrubHit {die a : Nat} (hs : Keeps s₀ s) : Keeps s₀ (s.baseScrubHit die a) :=
  .ite hs.haltWave (.ite (.ite hs.draw hs.draw.withMem.bump64) hs.freeUnit.withMem)

theorem Keeps.scrubBase {die : Nat} {hit : Bool} (hs : Keeps s₀ s) : Keeps s₀ (s.scrubBase die hit) :=
  .ite hs.scrubNext.bump64.baseScrubHit (.ite hs.scrubNext.bump64 hs.scrubNext)

theorem Keeps.scrubCore {p : Nat} {hit : Bool} (hs : Keeps s₀ s) : Keeps s₀ (s.scrubCore p hit) := by
  unfold State.scrubCore
  extract_lets a s1 known s2 u c
  have h2 : Keeps s₀ s2 := .ite hs.scrubNext.bump64 hs.scrubNext
  exact .ite h2.freeUnit.setCore h2

theorem Keeps.execPatrolScrubRead {m : ScrubMem} {hit : Bool} (hs : Keeps s₀ s) : OutKeeps s₀ (execPatrolScrubRead m hit s) := by
  unfold Machine.execPatrolScrubRead
  split
  · exact .ite trivial (.ite hs.scrubHbm hs)
  · exact .ite trivial (.ite hs.scrubBase hs)
  · exact .ite trivial (.ite hs.scrubCore hs)

theorem Keeps.execHbmRecalibration {n : Nat} (hs : Keeps s₀ s) : OutKeeps s₀ (execHbmRecalibration n s) :=
  .ite trivial (.ite hs.put.withRecalAt hs)

theorem Keeps.execHbmRetrainComplete {n : Nat} (hs : Keeps s₀ s) : OutKeeps s₀ (execHbmRetrainComplete n s) :=
  .ite trivial (.ite (hs.put.foldl fun _ _ ht => ht.flushDue).poisonFull hs)

/-! ### Sys2Proof/Machine/Joins.lean -/

theorem Keeps.onJoin {j : Join} {f : Nat → State → Out} (hs : Keeps s₀ s) (hf : ∀ k t, Keeps s₀ t → OutKeeps s₀ (f k t)) :
    OutKeeps s₀ (s.onJoin j f) :=
  .ite trivial (.ite hs (hf _ _ hs))

theorem Keeps.expansionSteps (hs : Keeps s₀ s) : Keeps s₀ s.expansionSteps := .ite hs (.ite hs.rerunLocal hs.haltWave)

theorem Keeps.expansionLost (hs : Keeps s₀ s) : Keeps s₀ s.expansionLost := hs.joinOff.expansionSteps

theorem Keeps.expansionFaulted {reason : Nat} (hs : Keeps s₀ s) : Keeps s₀ (s.expansionFaulted reason) :=
  .ite hs.joinOff.put.raise.haltWave hs.joinOff.put.raise

theorem Keeps.violation (hs : Keeps s₀ s) : Keeps s₀ s.violation := .ite hs.bump32.expansionFaulted hs.bump32.setJoin.expansionLost

theorem Keeps.joinLost {key : Nat} (hs : Keeps s₀ s) : Keeps s₀ (s.joinLost key) := .ite hs.expansionLost hs.joinFault

theorem Keeps.badFrame {key : Nat} (hs : Keeps s₀ s) : Keeps s₀ (s.badFrame key) := .ite hs.violation hs.bump32.joinFault

theorem Keeps.joinReturn {key k n : Nat} {dirs : List Bool} (hs : Keeps s₀ s) : OptKeeps s₀ (s.joinReturn key k n dirs) := by
  refine .ite (.ite hs.onBook trivial) (Keeps.foldl_fst (r := (s, n)) hs fun _ _ ht => ?_)
  dsimp only
  exact ht.onBook

theorem Keeps.streamReturn {key : Nat} {d : StreamD} {n : Nat} (hs : Keeps s₀ s) : OptKeeps s₀ (s.streamReturn key d n) := by
  unfold State.streamReturn
  split
  · exact hs
  · exact .ite (.ite hs.setBook trivial) hs.setBook

theorem Keeps.takeFrameCredits {key : Nat} {dirs : List Bool} {h : W64} (hs : Keeps s₀ s) :
    OptKeeps s₀ (s.takeFrameCredits key dirs h) := by
  unfold State.takeFrameCredits
  refine .ite hs (.ite hs.joinReturn ?_)
  split
  · exact hs
  · exact hs.streamReturn

theorem Keeps.takeUnitFrame {key : Nat} {h : W64} {unit : Line} (hs : Keeps s₀ s) : OptKeeps s₀ (s.takeUnitFrame key h unit) := by
  unfold State.takeUnitFrame
  extract_lets k
  split
  · exact .ite trivial hs
  · split
    · split
      · exact hs
      · exact Keeps.ite hs.onBook hs
    · split
      · exact hs
      · exact .ite trivial hs.setBook.sendCredits

theorem Keeps.execD2dUnitFrame {j : Join} {header : W64} {unit : Line} (hs : Keeps s₀ s) :
    OutKeeps s₀ (execD2dUnitFrame j header unit s) := by
  refine hs.onJoin fun _ t ht => .ite trivial (.ite ht (.ite ht.badFrame ?_))
  split
  · exact ht.badFrame
  · rename_i u he
    obtain ⟨v, hv, hu⟩ := Option.bind_eq_some_iff.mp he
    exact (ht.takeFrameCredits.some hv).takeUnitFrame.some hu

theorem Keeps.execD2dCreditFrame {j : Join} {header : W64} (hs : Keeps s₀ s) : OutKeeps s₀ (execD2dCreditFrame j header s) := by
  refine hs.onJoin fun _ t ht => .ite trivial (.ite ht (.ite ht.badFrame ?_))
  split
  · exact ht.badFrame
  · rename_i u he
    exact ht.takeFrameCredits.some he

theorem Keeps.setChan {key r : Nat} {c : Chan} (hs : Keeps s₀ s) : Keeps s₀ (s.setChan key r c) := hs.setJoin

theorem Keeps.putJoin {key sub v : Nat} (hs : Keeps s₀ s) : Keeps s₀ (s.putJoin key sub v) := .ite hs hs.put

theorem Keeps.retrainJoin {key : Nat} (hs : Keeps s₀ s) : Keeps s₀ (s.retrainJoin key) := .ite hs.put.put hs.put.bump32

theorem Keeps.channelDown {key r : Nat} (hs : Keeps s₀ s) : Keeps s₀ (s.channelDown key r) :=
  .ite hs.setChan.raise.putJoin.putJoin.retrainJoin hs.setChan.raise.putJoin.putJoin.joinLost

theorem Keeps.repairChannel {key r : Nat} {laneOk : Bool} (hs : Keeps s₀ s) : Keeps s₀ (s.repairChannel key r laneOk) := by
  unfold State.repairChannel
  extract_lets c times
  refine .ite hs.setChan.retrainJoin ?_
  split
  · exact hs.setChan.setJoin.put.retrainJoin
  · exact .ite hs.setChan.putJoin.retrainJoin hs.channelDown

theorem Keeps.execD2dLaneFault {j : Join} {chan : Nat} {laneRepairable : Bool} (hs : Keeps s₀ s) :
    OutKeeps s₀ (execD2dLaneFault j chan laneRepairable s) :=
  hs.onJoin fun _ _ ht => .ite trivial (.ite ht ht.repairChannel)

theorem Keeps.execD2dRetrainComplete {j : Join} {ok : Bool} (hs : Keeps s₀ s) : OutKeeps s₀ (execD2dRetrainComplete j ok s) := by
  unfold Machine.execD2dRetrainComplete
  refine hs.onJoin fun _ t ht => ?_
  exact .ite ht (.ite (Keeps.ite ht.put.put.sendFrames ht.put.bump64) ht.joinLost)

theorem Keeps.execD2dLinkLoss {j : Join} (hs : Keeps s₀ s) : OutKeeps s₀ (execD2dLinkLoss j s) :=
  hs.onJoin fun _ _ ht => .ite ht.joinLost ht

theorem Keeps.sendRecord {j : Join} {rec : Nat} (hs : Keeps s₀ s) : Keeps s₀ (s.sendRecord j rec) := hs.foldl fun _ _ ht => ht.emit

theorem Keeps.trained {j : Join} {rate : Nat} (hs : Keeps s₀ s) : Keeps s₀ (s.trained j rate) :=
  (hs.setJoin.foldl fun _ _ ht => .ite ht.put ht).put.sendRecord

theorem Keeps.execD2dLinkUp {j : Join} {rateGts : Nat} (hs : Keeps s₀ s) : OutKeeps s₀ (execD2dLinkUp j rateGts s) :=
  hs.onJoin fun _ _ ht => .ite trivial (.ite ht ht.trained)

theorem Keeps.refuseJoin {j : Join} {reason : Nat} (hs : Keeps s₀ s) : Keeps s₀ (s.refuseJoin j reason) :=
  .ite hs.setJoin.emit.joinOff.put hs.setJoin.emit.joinFault

theorem Keeps.acceptJoin {j : Join} (hs : Keeps s₀ s) : Keeps s₀ (s.acceptJoin j) :=
  .ite hs.joinOn.emit.put.streamReset hs.joinOn.emit.put

theorem Keeps.takeRecord {j : Join} {rec : BitVec 256} (hs : Keeps s₀ s) : Keeps s₀ (s.takeRecord j rec) := by
  unfold State.takeRecord
  extract_lets key src s1 r src1
  have h1 : Keeps s₀ s1 := .ite hs.setJoin hs.put
  exact .ite h1.refuseJoin (.ite h1.setJoin h1.acceptJoin)

theorem Keeps.execCapabilityRecord {j : Join} {rec : BitVec 256} (hs : Keeps s₀ s) : OutKeeps s₀ (execCapabilityRecord j rec s) :=
  hs.onJoin fun _ _ ht => .ite ht ht.takeRecord

theorem Keeps.execEndpointRecord {rec : BitVec 128} (hs : Keeps s₀ s) : OutKeeps s₀ (execEndpointRecord rec s) := by
  unfold Machine.execEndpointRecord
  refine hs.onJoin fun _ t ht => ?_
  exact .ite ht (.ite ht.refuseJoin (.ite ht.setJoin.acceptJoin ht.setJoin))

theorem Keeps.execNegotiationTimeout {j : Join} (hs : Keeps s₀ s) : OutKeeps s₀ (execNegotiationTimeout j s) :=
  hs.onJoin fun _ _ ht => .ite ht ht.refuseJoin

theorem Keeps.execExpansionDownTimeout (hs : Keeps s₀ s) : OutKeeps s₀ (execExpansionDownTimeout s) :=
  hs.onJoin fun _ _ ht => .ite ht.expansionFaulted ht

theorem Keeps.execExpansionRailOvercurrent (hs : Keeps s₀ s) : OutKeeps s₀ (execExpansionRailOvercurrent s) :=
  hs.onJoin fun _ _ ht => .ite ht.withPower.expansionLost ht.withPower

/-! ### Sys2Proof/Machine/Hub.lean -/

theorem Keeps.onDie {d : Nat} {f : State → Out} (hs : Keeps s₀ s) (hf : ∀ t, Keeps s₀ t → OutKeeps s₀ (f t)) :
    OutKeeps s₀ (s.onDie d f) :=
  .ite trivial (.ite hs (hf _ hs))

theorem Keeps.execDieWatchdogExpiry {d : Nat} (hs : Keeps s₀ s) : OutKeeps s₀ (execDieWatchdogExpiry d s) :=
  hs.onDie fun _ ht => ht.resetDie

theorem Keeps.execDiePllLoss {d : Nat} (hs : Keeps s₀ s) : OutKeeps s₀ (execDiePllLoss d s) := hs.onDie fun _ ht => ht.resetDie

theorem Keeps.completeDieReset {d : Nat} (hs : Keeps s₀ s) : Keeps s₀ (s.completeDieReset d) :=
  hs.withJobs.foldl fun _ _ ht => ht.complete

theorem Keeps.dieBack {d : Nat} (hs : Keeps s₀ s) : Keeps s₀ (s.dieBack d) := by
  unfold State.dieBack
  extract_lets src s1 s2 s3 s4
  have h2 : Keeps s₀ s2 := hs.withPower.put.put.setStacks
  have h3 : Keeps s₀ s3 := h2.foldl fun _ _ ht => .ite ht ht.bump32
  have h4 : Keeps s₀ s4 := h3.foldl fun t p ht => by
    split
    · exact ht
    · exact .ite ht.rebind ht
  exact h4.completeDieReset.workDone

theorem Keeps.execDieResetComplete {d : Nat} (hs : Keeps s₀ s) : OutKeeps s₀ (execDieResetComplete d s) :=
  hs.onDie fun _ ht => .ite ht.dieBack ht

theorem Keeps.execHbmStackFailure {stack : Nat} (hs : Keeps s₀ s) : OutKeeps s₀ (execHbmStackFailure stack s) := by
  unfold Machine.execHbmStackFailure
  refine .ite trivial ?_
  exact .ite hs (.ite hs.put.loseHbm hs.put.shardReset.loseHbm.withSteps.haltWave)

theorem Keeps.execHubWatchdogExpiry (hs : Keeps s₀ s) : OutKeeps s₀ (execHubWatchdogExpiry s) := .ite hs.resetHub hs

theorem Keeps.startDone (hs : Keeps s₀ s) : Keeps s₀ s.startDone := by
  unfold State.startDone
  extract_lets x was s1 src s2 e src1
  split
  · exact .ite hs.put.withFw hs.put.withFw.raise
  · exact (Keeps.ite hs.put.withFw.withFw.put hs.put.withFw.withFw).raise

theorem Keeps.startLink {p : Nat} (hs : Keeps s₀ s) : Keeps s₀ (s.startLink p) := hs.setLinkState

theorem Keeps.hubReturnSteps (hs : Keeps s₀ s) : Keeps s₀ s.hubReturnSteps :=
  (Keeps.ite hs.withSteps.discardWhere.haltWave hs.withSteps).foldl fun _ _ ht => ht.haltWave

theorem Keeps.execHubReturn (hs : Keeps s₀ s) : OutKeeps s₀ (execHubReturn s) :=
  .ite hs hs.withPower.put.startDone.hubReturnSteps.proveDue

theorem Keeps.firstMap (hs : Keeps s₀ s) : Keeps s₀ s.firstMap := .ite hs (hs.foldl fun _ _ ht => ht.foldl fun _ _ hu => hu.setLcore)

theorem Keeps.negotiate {key : Nat} (hs : Keeps s₀ s) : Keeps s₀ (s.negotiate key) := hs.trained.takeRecord

theorem Keeps.packageUp (hs : Keeps s₀ s) : Keeps s₀ s.packageUp := by
  unfold State.packageUp
  extract_lets s1 s2 s3 s4
  have h1 : Keeps s₀ s1 := hs.foldl fun _ _ ht => ht.put.put.setStacks
  have h3 : Keeps s₀ s3 := h1.put.put.foldl fun _ _ ht => ht.negotiate
  exact (Keeps.ite h3.put h3).put.put

theorem Keeps.execHubBootComplete (hs : Keeps s₀ s) : OutKeeps s₀ (execHubBootComplete s) :=
  .ite hs (hs.startDone.packageUp.firstMap.coreStates.foldl fun _ _ ht => ht.startLink).setM

theorem Keeps.execBootWatchdog (hs : Keeps s₀ s) : OutKeeps s₀ (execBootWatchdog s) := .ite hs.failStart hs

theorem Keeps.execActivationHubReset (hs : Keeps s₀ s) : OutKeeps s₀ (execActivationHubReset s) := by
  unfold Machine.execActivationHubReset
  split
  · exact hs
  · exact .ite hs hs.withFw.resetHub

theorem Keeps.execFirmwareWriteComplete {ok : Bool} (hs : Keeps s₀ s) : OutKeeps s₀ (execFirmwareWriteComplete ok s) := by
  unfold Machine.execFirmwareWriteComplete
  split
  · exact .ite hs (.ite hs.withFw.withFw.put.put.complete hs.withFw.complete)
  · exact hs

theorem Keeps.repairRows {n r : Nat} (hs : Keeps s₀ s) : Keeps s₀ (s.repairRows n r) := hs.put.put.put

theorem Keeps.execHbmRepairComplete {stack : Nat} (hs : Keeps s₀ s) : OutKeeps s₀ (execHbmRepairComplete stack s) := by
  unfold Machine.execHbmRepairComplete
  split
  · exact hs
  · exact .ite hs hs.withJobs.repairRows.bump32.put.complete

theorem Keeps.resetLimit {handle : W32} (hs : Keeps s₀ s) : Keeps s₀ (s.resetLimit handle) := by
  unfold State.resetLimit
  split
  · exact hs
  · exact (Keeps.ite hs.withJobs.put hs.withJobs).complete

theorem Keeps.updateLimit {handle : W32} (hs : Keeps s₀ s) : Keeps s₀ (s.updateLimit handle) := by
  unfold State.updateLimit
  split
  · exact hs
  · exact .ite hs hs.withFw.complete

theorem Keeps.repairLimit {handle : W32} (hs : Keeps s₀ s) : Keeps s₀ (s.repairLimit handle) := by
  unfold State.repairLimit
  split
  · exact hs
  · exact hs.draw.withJobs.repairRows.complete

theorem Keeps.execCommandLimitExpiry {handle : W32} (hs : Keeps s₀ s) : OutKeeps s₀ (execCommandLimitExpiry handle s) :=
  .ite hs hs.resetLimit.updateLimit.repairLimit

theorem Keeps.execSuspectMarkExpiry {p : Nat} (hs : Keeps s₀ s) : OutKeeps s₀ (execSuspectMarkExpiry p s) :=
  .ite trivial (.ite hs hs.put)

/-! ### Sys2Proof/Machine/Stash.lean -/

theorem Keeps.putUnits {c : LsCmd} {d : Stash} {r : Region} {us : List (Nat × Nat × Nat)} (hs : Keeps s₀ s) :
    Keeps s₀ (s.putUnits c d r us).s := by
  induction us generalizing s with
  | nil => exact hs
  | cons u us ih =>
    unfold State.putUnits
    extract_lets got
    split
    · exact hs
    · split
      · exact ih hs.writeSpan.countCasts.consumeIf
      · exact hs

theorem Keeps.stashLoad {c : LsCmd} {d : Stash} {r : Region} (hs : Keeps s₀ s) : Keeps s₀ (s.stashLoad c d r).s := by
  unfold State.stashLoad
  extract_lets stored k s1 core x
  have hx : Keeps s₀ x.s := hs.cacheSpans.bump64.moveAll
  split
  · exact hx
  · split
    · exact hx
    · exact hx.moveAll

theorem Keeps.stashRun {c : LsCmd} (hs : Keeps s₀ s) : Keeps s₀ (s.stashRun c).s := by
  unfold State.stashRun
  split
  · exact hs
  · split
    · exact hs
    · split
      · exact hs.putUnits
      · exact hs.stashLoad

/-! ### Sys2Proof/Machine/LoadEngine.lean -/

theorem Keeps.execLoadCopy {p : Nat} {x : Fin 4} (hs : Keeps s₀ s) : OutKeeps s₀ (execLoadCopy p x s) := by
  unfold Machine.execLoadCopy
  refine hs.lsStart fun t _ ht => ?_
  split
  · exact ht
  · exact ht.copyRun.runFinish

theorem Keeps.execLoadStash {p : Nat} {x : Fin 4} (hs : Keeps s₀ s) : OutKeeps s₀ (execLoadStash p x s) :=
  hs.lsStart fun _ _ ht => ht.stashRun.runFinish

theorem Keeps.scalePair {d : Scale} {m : SUnit} (hs : Keeps s₀ s) : Keeps s₀ (s.scalePair d m).2 := hs.chooseExp

theorem Keeps.noteChosen {e : Eng} {tensor : Nat} {u : SUnit} (hs : Keeps s₀ s) : Keeps s₀ (s.noteChosen e tensor u) :=
  .ite hs hs.updStep

theorem Keeps.putPair {e : Eng} {tensor : Nat} {u : SUnit} (hs : Keeps s₀ s) : Keeps s₀ (s.putPair e tensor u) := by
  unfold State.putPair
  extract_lets s1
  split
  · exact hs.noteChosen
  · exact hs.noteChosen.setCore

theorem Keeps.amaxSend {e : Eng} {stream phase : Nat} {b : ChainBuf} {u : SUnit} (hs : Keeps s₀ s) :
    OptKeeps s₀ (s.amaxSend e stream phase b u) := by
  unfold State.amaxSend
  split
  · exact trivial
  · exact hs.sendUnit.map fun _ ht => ht.setChainBuf

theorem Keeps.amaxPhase {e : Eng} {d : Scale} {h : Hops} (hs : Keeps s₀ s) : OptKeeps s₀ (s.amaxPhase e d h) := by
  unfold State.amaxPhase
  extract_lets b m recv
  have hrecv : ∀ st, OptKeeps s₀ ((recv st).map Prod.snd) := fun st => by
    unfold recv
    split
    · exact trivial
    · exact hs.takeUnit
  refine .ite ?_ (.ite ?_ (.ite ?_ ?_))
  · split
    · exact hs.setChainBuf
    · exact (hrecv _).map_of_map fun _ ht => ht.consumeIf.setChainBuf
  · split
    · exact hs.scalePair.putPair.setChainBuf
    · exact hs.amaxSend
  · split
    · exact trivial
    · exact (hrecv _).map_of_map fun _ ht => ht.consumeIf.putPair.setChainBuf
  · split
    · exact hs.progress
    · exact hs.amaxSend.map fun _ ht => ht.progress

theorem Keeps.amaxRun {e : Eng} {d : Scale} {h : Hops} {k : Nat} (hs : Keeps s₀ s) : Keeps s₀ (s.amaxRun e d h k) := by
  induction k generalizing s with
  | zero => exact hs
  | succ k ih =>
    unfold State.amaxRun
    split
    · exact hs
    · refine .ite hs ?_
      split
      · exact .ite hs.creditStall hs
      · rename_i t he
        exact ih (hs.amaxPhase.some he)

theorem Keeps.measure {c : LsCmd} (hs : Keeps s₀ s) : Keeps s₀ (s.measure c).1.s := hs.cacheSpans.bump64.consumeIf

theorem Keeps.amaxGo {c : LsCmd} (hs : Keeps s₀ s) : Keeps s₀ (s.amaxGo c) := by
  unfold State.amaxGo
  split
  · exact hs
  · refine .ite hs.progress ?_
    extract_lets r t
    have ht : Keeps s₀ t := hs.measure
    split
    · exact ht.accessFault
    · split
      · exact ht.scalePair.putPair.progress
      · split
        · exact ht.badCmd
        · exact ht.setChainBuf.amaxRun

theorem Keeps.amaxOn {p x : Nat} {l : Line} (hs : Keeps s₀ s) : Keeps s₀ (s.amaxOn p x l) := by
  unfold State.amaxOn
  split
  · exact hs
  · split
    · exact hs
    · split
      · exact hs
      · exact hs.amaxRun

theorem Keeps.execAmax {p : Nat} {x : Fin 4} (hs : Keeps s₀ s) : OutKeeps s₀ (execAmax p x s) := by
  unfold Machine.execAmax
  split
  · exact hs.onCore fun _ => hs.amaxOn
  · exact hs.lsStart fun _ _ ht => ht.amaxGo

theorem Keeps.gatherPut {c : LsCmd} {us : List GUnit} {f : Option (Int × Nat)} (hs : Keeps s₀ s) : Keeps s₀ (s.gatherPut c us f) := by
  unfold State.gatherPut
  split
  · exact hs
  · exact hs.moveAll.runFinish

theorem Keeps.setNarrow {e : NEntry} (hs : Keeps s₀ s) : Keeps s₀ (s.setNarrow e) := hs.withMem

theorem Keeps.issueNarrow {die pc : Nat} (hs : Keeps s₀ s) : Keeps s₀ (s.issueNarrow die pc) := by
  unfold State.issueNarrow
  split
  · exact hs
  · exact .ite hs hs.setNarrow.bump64

theorem Keeps.enterNarrow {r : NReq} (hs : Keeps s₀ s) : OptKeeps s₀ (s.enterNarrow r) := by
  unfold State.enterNarrow
  extract_lets die line
  split
  · exact hs.setNarrow.bump64.bump64
  · exact .ite trivial (Keeps.ite hs.withMem.bump64.issueNarrow hs.withMem.bump64)

theorem Keeps.admitNarrow {held : List (Nat × Nat)} {rs : List NReq} (hs : Keeps s₀ s) : Keeps s₀ (s.admitNarrow held rs).1 := by
  induction rs generalizing s held with
  | nil => exact hs
  | cons r rs ih =>
    unfold State.admitNarrow
    split
    · exact ih hs
    · split
      · rename_i t he
        exact ih (hs.enterNarrow.some he)
      · exact ih hs

theorem Keeps.admitWaiting (hs : Keeps s₀ s) : Keeps s₀ s.admitWaiting := hs.admitNarrow.withMem

theorem Keeps.dropNarrow {p x : Nat} (hs : Keeps s₀ s) : Keeps s₀ (s.dropNarrow p x) := hs.withMem

theorem Keeps.gatherGo {c : LsCmd} (hs : Keeps s₀ s) : Keeps s₀ (s.gatherGo c) := by
  unfold State.gatherGo
  split
  · exact hs.cacheSpans.dropNarrow.withMem.admitWaiting
  · exact hs.cacheSpans.gatherPut

theorem Keeps.execGather {p : Nat} {x : Fin 4} (hs : Keeps s₀ s) : OutKeeps s₀ (execGather p x s) :=
  hs.lsStart fun _ _ ht => ht.gatherGo

theorem Keeps.gatherEnd {p x : Nat} (hs : Keeps s₀ s) : Keeps s₀ (s.gatherEnd p x) := by
  unfold State.gatherEnd
  split
  · exact hs.dropNarrow
  · refine .ite hs ?_
    split
    · exact hs
    · exact hs.gatherPut.dropNarrow

theorem Keeps.returnNarrow {die pc : Nat} (hs : Keeps s₀ s) : Keeps s₀ (s.returnNarrow die pc) := by
  unfold State.returnNarrow
  split
  · exact hs
  · split
    · exact hs
    · exact hs.withMem.admitWaiting.foldl fun _ _ ht => ht.gatherEnd

theorem OutKeeps.onPc {die pc : Nat} {f : State} (hf : Keeps s₀ f) : OutKeeps s₀ (s.onPc die pc f) := .ite trivial hf

theorem Keeps.execNarrowEntryTimeout {die pc : Nat} (hs : Keeps s₀ s) : OutKeeps s₀ (execNarrowEntryTimeout die pc s) :=
  .onPc hs.issueNarrow

theorem Keeps.execNarrowLineReturn {die pc : Nat} (hs : Keeps s₀ s) : OutKeeps s₀ (execNarrowLineReturn die pc s) :=
  .onPc hs.returnNarrow

theorem Keeps.execWcbIdleFlush {die pc line : Nat} (hs : Keeps s₀ s) : OutKeeps s₀ (execWcbIdleFlush die pc line s) :=
  .onPc (.ite hs hs.flushDue.poisonFull)

/-! ### Sys2Proof/Machine/StoreEngine.lean -/

theorem Keeps.execStoreCopy {p : Nat} {x : Fin 4} (hs : Keeps s₀ s) : OutKeeps s₀ (execStoreCopy p x s) := by
  unfold Machine.execStoreCopy
  refine hs.lsStart fun t _ ht => ?_
  split
  · exact ht
  · exact ht.copyRun.runFinish

/-- As for `Keeps.hbmScrubHit`, with where a unit lies: its recursion is unfolded as a whole and `State.unitAt` taken as unknown. -/
theorem Keeps.scatterGo {c : LsCmd} {k : Caster} {m u : Nat} (hs : Keeps s₀ s) : Keeps s₀ (s.scatterGo c k m u).s := by
  generalize hf : State.scatterGo = f
  delta State.scatterGo State.scatterGo._f at hf
  generalize State.unitAt = unitAt at hf
  subst hf
  induction m generalizing s u with
  | zero => exact hs
  | succ m ih =>
    dsimp only
    split
    · exact hs
    · split
      · exact hs.putEls
      · exact ih hs.putEls

theorem Keeps.execScatter {p : Nat} {x : Fin 4} (hs : Keeps s₀ s) : OutKeeps s₀ (execScatter p x s) := by
  unfold Machine.execScatter
  refine hs.lsStart fun t _ ht => ?_
  split
  · exact ht
  · exact ht.scatterGo.runFinish

theorem Keeps.noteAdd {e : Eng} {space a n : Nat} (hs : Keeps s₀ s) : Keeps s₀ (s.noteAdd e space a n) := hs.withMem

theorem Keeps.addCodes {clash : Bool} {b : Nat} {codes : List (Nat × Bool)} (hs : Keeps s₀ s) :
    Keeps s₀ (s.addCodes clash b codes).2 := by
  unfold State.addCodes
  split
  · exact hs
  · exact hs.withFresh

/-- As for `Keeps.scatterGo`. -/
theorem Keeps.addGo {c : LsCmd} {m u : Nat} (hs : Keeps s₀ s) : Keeps s₀ (s.addGo c m u).s := by
  generalize hf : State.addGo = f
  delta State.addGo State.addGo._f at hf
  generalize State.unitAt = unitAt at hf
  subst hf
  induction m generalizing s u with
  | zero => exact hs
  | succ m ih =>
    dsimp only
    split
    · exact hs
    · split
      · exact hs
      · split
        · exact hs.cow.addCodes.putEls.noteAdd
        · exact ih hs.cow.addCodes.putEls.noteAdd

theorem Keeps.execScatterAdd {p : Nat} {x : Fin 4} (hs : Keeps s₀ s) : OutKeeps s₀ (execScatterAdd p x s) :=
  hs.lsStart fun _ _ ht => ht.cacheSpans.addGo.runFinish

theorem Keeps.execStoreStash {p : Nat} {x : Fin 4} (hs : Keeps s₀ s) : OutKeeps s₀ (execStoreStash p x s) :=
  hs.lsStart fun _ _ ht => ht.stashRun.runFinish

/-! ### Sys2Proof/Machine/VerifyCode.lean -/

theorem Keeps.setReserves {ledger mirror : Nat} (hs : Keeps s₀ s) : Keeps s₀ (s.setReserves ledger mirror) :=
  hs.withMirror.foldl fun _ _ ht => ht.put

/-! ### Sys2Proof/Machine/Load.lean -/

theorem Keeps.startLoad {h : Hnd} {w : Nat} (hs : Keeps s₀ s) : Keeps s₀ (s.startLoad h w) := by
  unfold State.startLoad
  extract_lets s1 src s2 src1 s3
  have h2 : Keeps s₀ s2 := hs.put.withJobs
  have h3 : Keeps s₀ s3 := h2.put
  split
  · exact h2.congr rfl rfl rfl rfl
  · exact h3.congr rfl rfl rfl rfl

theorem PlanKeeps.loadPlan {r : Req} {w : Nat} {q : Session} : PlanKeeps (loadPlan r w s q) :=
  .ite .refuse (.cmd fun _ _ ht => ht.startLoad)

theorem Keeps.execLoadImage {r : Req} {window reserved : W16} (hs : Keeps s₀ s) : OutKeeps s₀ (execLoadImage r window reserved s) :=
  hs.command fun _ _ => .loadPlan

theorem Keeps.applyReserves {j : Judged} (hs : Keeps s₀ s) : Keeps s₀ (s.applyReserves j) :=
  .ite hs (hs.setReserves.hbmWrite.foldl fun _ _ ht => ht.hbmWrite).poisonFull.dropSource

theorem Keeps.zeroRegions {im : Image} (hs : Keeps s₀ s) : Keeps s₀ (s.zeroRegions im) :=
  .ite (hs.foldl fun _ _ ht => ht.hbmZero) (hs.foldl fun _ _ ht => ht.hbmZero).hbmZero

theorem Keeps.bindAll (hs : Keeps s₀ s) : Keeps s₀ s.bindAll := hs.foldl fun _ _ ht => ht.bindCore

theorem Keeps.stepZero (hs : Keeps s₀ s) : Keeps s₀ s.stepZero := by
  unfold State.stepZero
  extract_lets src src1 src2 s1
  have h1 : Keeps s₀ s1 := hs.congr rfl rfl rfl rfl
  exact h1.put.put.put.put

theorem Keeps.divideBase {im : Image} {d : Nat} (hs : Keeps s₀ s) : Keeps s₀ (s.divideBase im d) := hs.put.put.put

theorem Keeps.imageObjects {im : Image} {notices : Nat} (hs : Keeps s₀ s) : Keeps s₀ (s.imageObjects im notices) :=
  hs.put.put.put.put.put.put.withMem.foldl fun _ _ ht => ht.put.put.divideBase

theorem Keeps.finishLoad {h : Hnd} {j : Judged} (hs : Keeps s₀ s) : Keeps s₀ (s.finishLoad h j) := by
  unfold State.finishLoad
  exact (hs.applyReserves.withImage.stepZero.zeroRegions.bindAll.resetStreams.imageObjects.foldl fun _ _ ht => ht.setTags).complete.setM

theorem Keeps.execImageLoadComplete (hs : Keeps s₀ s) : OutKeeps s₀ (execImageLoadComplete s) := by
  unfold Machine.execImageLoadComplete
  split
  · exact hs
  · refine .ite hs ?_
    extract_lets result image src s1
    have h1 : Keeps s₀ s1 := hs.withJobs
    refine .ite h1.withLoadReport.put.complete ?_
    clear_value s1 image result
    split
    · exact h1.finishLoad
    · split
      · exact h1.complete
      · exact h1

theorem Keeps.dropImage (hs : Keeps s₀ s) : Keeps s₀ s.dropImage := by
  unfold State.dropImage
  extract_lets src s1 src1 src2 src3 s2 s3
  have h1 : Keeps s₀ s1 := hs.foldl fun _ _ ht => ht.setCore.put
  have h2 : Keeps s₀ s2 := h1.congr rfl rfl rfl rfl
  have h3 : Keeps s₀ s3 := h2.foldl fun _ _ ht => ht.put
  exact h3.foldl fun _ _ ht => ht.put.put.put.put

theorem Keeps.unload {h : Hnd} (hs : Keeps s₀ s) : Keeps s₀ (s.unload h) :=
  hs.discardAll.leaveRollback.dropWindows.dropImage.complete.setM

theorem PlanKeeps.unloadPlan {r : Req} {q : Session} : PlanKeeps (unloadPlan r s q) :=
  .ite .refuse (.cmd fun _ _ ht => ht.unload)

theorem Keeps.execUnload {r : Req} (hs : Keeps s₀ s) : OutKeeps s₀ (execUnload r s) := hs.command fun _ _ => .unloadPlan

/-! ### Sys2Proof/Machine/JobCommands.lean -/

theorem Keeps.runSteps {h : Hnd} {count : Nat} (hs : Keeps s₀ s) : Keeps s₀ (s.runSteps h count) := by
  unfold State.runSteps
  extract_lets s1 src s2 s3
  have h2 : Keeps s₀ s2 := hs.leaveRollback.congr rfl rfl rfl rfl
  have h3 : Keeps s₀ s3 := (Keeps.ite h2.computeFrozen h2).firstOpen
  exact h3.setM.issue.checkEnd

theorem PlanKeeps.runStepsPlan {r : Req} {count : Nat} {q : Session} : PlanKeeps (runStepsPlan r count s q) :=
  .cmd fun _ _ ht => ht.runSteps

theorem Keeps.execRunSteps {r : Req} {count : W64} (hs : Keeps s₀ s) : OutKeeps s₀ (execRunSteps r count s) :=
  hs.command fun _ _ => .runStepsPlan

theorem Keeps.stopRollback (hs : Keeps s₀ s) : Keeps s₀ s.stopRollback := by
  unfold State.stopRollback
  split
  · exact hs
  · exact hs.withSteps.report

theorem Keeps.stop {h : Hnd} (hs : Keeps s₀ s) : Keeps s₀ (s.stop h) :=
  .ite hs.withSteps.pendStop.stopRollback.setM.checkStop hs.withSteps.pendStop.stopRollback

theorem PlanKeeps.stopPlan {r : Req} {q : Session} : PlanKeeps (stopPlan r s q) := .cmd fun _ _ ht => ht.stop

theorem Keeps.execStop {r : Req} (hs : Keeps s₀ s) : OutKeeps s₀ (execStop r s) := hs.command fun _ _ => .stopPlan

theorem PlanKeeps.checkpointPlan {r : Req} {q : Session} : PlanKeeps (checkpointPlan r s q) := by
  refine .ite .refuse ?_
  split
  · exact .cmd fun _ _ ht => ht.invalidateManifest
  · exact .cmd fun _ _ ht => ht.withCkpt
  · exact .refuse

theorem Keeps.execCheckpoint {r : Req} (hs : Keeps s₀ s) : OutKeeps s₀ (execCheckpoint r s) := hs.command fun _ _ => .checkpointPlan

theorem Keeps.startRestore {h : Hnd} {c slot : Nat} (hs : Keeps s₀ s) : Keeps s₀ (s.startRestore h c slot) :=
  hs.discardAll.leaveRollback.withCkpt.computeFrozen.setM.chooseSource

theorem PlanKeeps.restorePlan {r : Req} {c slot : Nat} {q : Session} : PlanKeeps (restorePlan r c slot s q) :=
  .ite .refuse (.cmd fun _ _ ht => ht.startRestore)

theorem Keeps.execRestore {r : Req} {step : W64} {slot : Byte} {reserved : BitVec 24} (hs : Keeps s₀ s) :
    OutKeeps s₀ (execRestore r step slot reserved s) :=
  hs.command fun _ _ => .restorePlan

theorem PlanKeeps.enterPlan {q : Session} : PlanKeeps (enterPlan s q) := .cmd fun _ _ ht => ht.setM

theorem Keeps.execEnterMaintenance {r : Req} (hs : Keeps s₀ s) : OutKeeps s₀ (execEnterMaintenance r s) :=
  hs.command fun _ _ => .enterPlan

theorem PlanKeeps.leavePlan {q : Session} : PlanKeeps (leavePlan s q) := .cmd fun _ _ ht => ht.put.setM

theorem Keeps.execLeaveMaintenance {r : Req} (hs : Keeps s₀ s) : OutKeeps s₀ (execLeaveMaintenance r s) :=
  hs.command fun _ _ => .leavePlan

theorem PlanKeeps.markPlan {n vat : Nat} {q : Session} : PlanKeeps (markPlan n vat s q) := .ite (.cmd fun _ _ ht => ht.mark) .refuse

theorem Keeps.execMarkSuspect {r : Req} {step : W64} {vat : W16} (hs : Keeps s₀ s) : OutKeeps s₀ (execMarkSuspect r step vat s) :=
  hs.command fun _ _ => .markPlan

/-! ### Sys2Proof/Machine/Power.lean -/

theorem Keeps.powerUp (hs : Keeps s₀ s) : Keeps s₀ s.powerUp := .ite hs (.ite hs.bootModule hs.withPower)

theorem Keeps.railsDown {kept : Nat → Bool} {pgood : Option Bool} (hs : Keeps s₀ s) : Keeps s₀ (s.railsDown kept pgood) :=
  hs.wipe.withPower

theorem Keeps.execInputPowerGood {straps : Byte} (hs : Keeps s₀ s) : OutKeeps s₀ (execInputPowerGood straps s) :=
  .ite hs hs.withPower.put.powerUp

theorem Keeps.execInputPowerLoss (hs : Keeps s₀ s) : OutKeeps s₀ (execInputPowerLoss s) := by
  unfold Machine.execInputPowerLoss
  extract_lets t power
  have ht : Keeps s₀ t := hs.railsDown
  exact .ite hs (ht.congr rfl rfl rfl rfl)

theorem Keeps.execRstInNAsserted (hs : Keeps s₀ s) : OutKeeps s₀ (execRstInNAsserted s) := by
  unfold Machine.execRstInNAsserted
  refine .ite hs ?_
  exact (Keeps.ite (Keeps.ite hs.flushLog hs).railsDown (Keeps.ite hs.flushLog hs).withPower).withPower

theorem Keeps.execRstInNReleased {refclkGood : Bool} (hs : Keeps s₀ s) : OutKeeps s₀ (execRstInNReleased refclkGood s) :=
  .ite hs (.ite hs.withPower.withPower.powerUp hs.withPower)

theorem Keeps.execRefclkLoss (hs : Keeps s₀ s) : OutKeeps s₀ (execRefclkLoss s) :=
  .ite hs (.ite hs.withPower.flushLog.wipe.withPower hs.withPower)

theorem Keeps.execRefclkReturn (hs : Keeps s₀ s) : OutKeeps s₀ (execRefclkReturn s) := .ite hs hs.withPower.powerUp

theorem Keeps.execRailOutOfRegulation {_rail : Nat} (hs : Keeps s₀ s) : OutKeeps s₀ (execRailOutOfRegulation _rail s) :=
  .ite hs.withPower hs

theorem Keeps.execThermalTripComparator {sensor : TripSensor} {mc : Int} (hs : Keeps s₀ s) :
    OutKeeps s₀ (execThermalTripComparator sensor mc s) := by
  unfold Machine.execThermalTripComparator
  refine .ite trivial ?_
  refine .ite hs ?_
  extract_lets src s1 s2 s3
  have h2 : Keeps s₀ s2 := hs.withPower.shardReset.raise
  have h3 : Keeps s₀ s3 := Keeps.ite (Keeps.ite h2.haltWave h2).flushLog hs.withPower
  exact .ite hs.withPower h3.railsDown

theorem Keeps.execTripLatchClear (hs : Keeps s₀ s) : OutKeeps s₀ (execTripLatchClear s) := .ite hs.withPower hs

theorem Keeps.warnTemp {key : Nat} {mc limit : Int} (hs : Keeps s₀ s) : Keeps s₀ (s.warnTemp key mc limit) :=
  .ite hs.withArmed.raise (.ite hs.withArmed hs)

theorem Keeps.readTemp {key : Nat} {mc limit : Int} (hs : Keeps s₀ s) : Keeps s₀ (s.readTemp key mc limit) := hs.put.warnTemp

theorem Keeps.warnPower {mv : Nat} (hs : Keeps s₀ s) : Keeps s₀ (s.warnPower mv) := .ite hs.withPower.raise (.ite hs.withPower hs)

theorem Keeps.execSensorSample {v : Sample} (hs : Keeps s₀ s) : OutKeeps s₀ (execSensorSample v s) := by
  unfold Machine.execSensorSample
  refine .ite hs ?_
  exact (hs.withUptimeMs.put.put.put.warnPower.readTemp.put.foldl fun _ _ ht => ht.readTemp).readTemp.foldl fun _ _ ht => ht.readTemp

theorem Keeps.telemetryTo {q : Session} (hs : Keeps s₀ s) : Keeps s₀ (s.telemetryTo q) := .ite hs.setSession.bump64.emit hs

theorem Keeps.execTelemetryPeriod (hs : Keeps s₀ s) : OutKeeps s₀ (execTelemetryPeriod s) :=
  .ite hs (hs.foldl fun _ _ ht => ht.telemetryTo)

theorem Keeps.execEventLogFlush (hs : Keeps s₀ s) : OutKeeps s₀ (execEventLogFlush s) := .ite hs.flushLog hs

theorem Keeps.execBgDeferExpiry {bit : Fin 8} (hs : Keeps s₀ s) : OutKeeps s₀ (execBgDeferExpiry bit s) := .ite hs hs.put.proveDue

theorem Keeps.execFlashHousekeeping {erases : Nat} {blockReplaced : Bool} (hs : Keeps s₀ s) :
    OutKeeps s₀ (execFlashHousekeeping erases blockReplaced s) :=
  .ite hs (Keeps.ite hs.put.put.put hs.put.put)

theorem Keeps.execPllCalibration (hs : Keeps s₀ s) : OutKeeps s₀ (execPllCalibration s) := hs

theorem Keeps.execVoltageCalibration (hs : Keeps s₀ s) : OutKeeps s₀ (execVoltageCalibration s) := hs

theorem Keeps.tapBypass (hs : Keeps s₀ s) : Keeps s₀ s.tapBypass := hs.withTap

theorem Keeps.tapDo {ok : Bool} {f : State → State} (hs : Keeps s₀ s) (hf : ∀ t, Keeps s₀ t → Keeps s₀ (f t)) :
    OutKeeps s₀ (s.tapDo ok f) :=
  .ite hs (.ite (hf _ hs) hs.tapBypass)

theorem Keeps.execTapExtest {bits : BitVec 14} (hs : Keeps s₀ s) : OutKeeps s₀ (execTapExtest bits s) := hs.tapDo fun _ ht => ht.withTap

theorem Keeps.execTapIdcode (hs : Keeps s₀ s) : OutKeeps s₀ (execTapIdcode s) := hs.tapDo fun _ ht => ht.withTap

theorem Keeps.execTapSamplePreload {bits : BitVec 14} (hs : Keeps s₀ s) : OutKeeps s₀ (execTapSamplePreload bits s) :=
  hs.tapDo fun _ ht => ht.withTap

theorem Keeps.execTapBypass (hs : Keeps s₀ s) : OutKeeps s₀ (execTapBypass s) := hs.tapDo fun _ ht => ht.tapBypass

theorem Keeps.execTapInternalScan {op : Byte} (hs : Keeps s₀ s) : OutKeeps s₀ (execTapInternalScan op s) :=
  hs.tapDo fun _ ht => ht.draw.withTap

/-! ### Sys2Proof/Machine/UnitCommands.lean -/

theorem Keeps.coreReset {p : Nat} (hs : Keeps s₀ s) : Keeps s₀ (s.coreReset p) := by
  unfold State.coreReset
  extract_lets s1
  split
  · exact hs.resetCore
  · exact .ite hs.resetCore.rebind hs.resetCore

theorem Keeps.resetDomain {h : Hnd} {domain index : Nat} (hs : Keeps s₀ s) : Keeps s₀ (s.resetDomain h domain index) :=
  .ite hs.coreReset.complete (.ite hs.withJobs.resetDie (.ite hs.resetHub hs.moduleReset))

theorem PlanKeeps.resetPlan {r : Req} {domain index : Nat} {q : Session} : PlanKeeps (resetPlan r domain index s q) :=
  .cmd fun _ _ ht => ht.resetDomain

theorem Keeps.execResetDomain {r : Req} {domain : Byte} {index : W16} (hs : Keeps s₀ s) :
    OutKeeps s₀ (execResetDomain r domain index s) :=
  hs.command fun _ _ => .resetPlan

theorem Keeps.fenceCore {h : Hnd} {p : Nat} (hs : Keeps s₀ s) : Keeps s₀ (s.fenceCore h p) :=
  .ite hs.fence.completeProve.withJobs hs.fence.completeProve.complete.workDone.proveDue

theorem PlanKeeps.fencePlan {r : Req} {p : Nat} {q : Session} : PlanKeeps (fencePlan r p s q) := .cmd fun _ _ ht => ht.fenceCore

theorem Keeps.execFenceCore {r : Req} {p : W16} (hs : Keeps s₀ s) : OutKeeps s₀ (execFenceCore r p s) :=
  hs.command fun _ _ => .fencePlan

theorem Keeps.proveCore {h : Hnd} {p : Nat} (hs : Keeps s₀ s) : Keeps s₀ (s.proveCore h p) := .ite hs.withJobs.prove hs.complete

theorem PlanKeeps.provePlan {r : Req} {p : Nat} {q : Session} : PlanKeeps (provePlan r p s q) := .cmd fun _ _ ht => ht.proveCore

theorem Keeps.execProveCore {r : Req} {p : W16} (hs : Keeps s₀ s) : OutKeeps s₀ (execProveCore r p s) :=
  hs.command fun _ _ => .provePlan

theorem Keeps.linkReset {p : Nat} (hs : Keeps s₀ s) : Keeps s₀ (s.linkReset p) := .ite hs.setLinkState hs

theorem PlanKeeps.linkResetPlan {p : Nat} {q : Session} : PlanKeeps (linkResetPlan p s q) := .cmd fun _ _ ht => ht.linkReset

theorem Keeps.execLinkReset {r : Req} {port : Byte} (hs : Keeps s₀ s) : OutKeeps s₀ (execLinkReset r port s) :=
  hs.command fun _ _ => .linkResetPlan

theorem Keeps.repairHbm {h : Hnd} {n : Nat} (hs : Keeps s₀ s) : Keeps s₀ (s.repairHbm h n) := by
  unfold State.repairHbm
  extract_lets t
  have ht : Keeps s₀ t := hs.put.loseHbm
  exact ht.congr rfl rfl rfl rfl

theorem PlanKeeps.repairPlan {r : Req} {n : Nat} {q : Session} : PlanKeeps (repairPlan r n s q) := .cmd fun _ _ ht => ht.repairHbm

theorem Keeps.execRepairHbm {r : Req} {stack : Byte} {reserved : BitVec 24} (hs : Keeps s₀ s) :
    OutKeeps s₀ (execRepairHbm r stack reserved s) :=
  hs.command fun _ _ => .repairPlan

/-! ### Sys2Proof/Machine/SecurityCommands.lean -/

theorem Keeps.updateFirmware {h : Hnd} (hs : Keeps s₀ s) : Keeps s₀ (s.updateFirmware h) :=
  .ite hs.complete (.ite hs.complete (.ite hs.raise.complete hs.put.withFw))

theorem PlanKeeps.updatePlan {r : Req} {q : Session} : PlanKeeps (updatePlan r s q) :=
  .ite .refuse (.cmd fun _ _ ht => ht.updateFirmware)

theorem Keeps.execUpdateFirmware {r : Req} {window reserved : W16} (hs : Keeps s₀ s) :
    OutKeeps s₀ (execUpdateFirmware r window reserved s) :=
  hs.command fun _ _ => .updatePlan

theorem PlanKeeps.activatePlan {image flags : Nat} {q : Session} : PlanKeeps (activatePlan image flags s q) :=
  .ite (.cmd fun _ _ ht => ht.withFw) .refuse

theorem Keeps.execActivateFirmware {r : Req} {image flags : Byte} {reserved : W16} (hs : Keeps s₀ s) :
    OutKeeps s₀ (execActivateFirmware r image flags reserved s) :=
  hs.command fun _ _ => .activatePlan

theorem PlanKeeps.slotPlan {level key v : Nat} {effect : State → State} (he : ∀ s t, Keeps s t → Keeps s (effect t)) :
    PlanKeeps (s.slotPlan level key v effect) :=
  .ite (.cmd fun _ _ ht => ht.withFresh) (.cmd fun _ _ ht => he _ _ ht.withFresh.put)

theorem PlanKeeps.enrollPlan {level key : Nat} {pub : BitVec 1064} {q : Session} : PlanKeeps (enrollPlan level key pub s q) :=
  .ite .refuse (.ite .refuse (.slotPlan fun _ _ ht => ht))

theorem Keeps.execEnrollKey {r : Req} {level key : Byte} {reserved : W16} {pub : BitVec 1064} (hs : Keeps s₀ s) :
    OutKeeps s₀ (execEnrollKey r level key reserved pub s) :=
  hs.command fun _ _ => .enrollPlan

theorem Keeps.endKeySessions {level key : Nat} (hs : Keeps s₀ s) : Keeps s₀ (s.endKeySessions level key) :=
  hs.foldl fun _ _ ht => ht.endSession

theorem PlanKeeps.revokePlan {level key : Nat} {q : Session} : PlanKeeps (revokePlan level key s q) :=
  .ite .refuse (.ite .refuse (.slotPlan fun _ _ ht => ht.endKeySessions))

theorem Keeps.execRevokeKey {r : Req} {level key : Byte} {reserved : W16} (hs : Keeps s₀ s) :
    OutKeeps s₀ (execRevokeKey r level key reserved s) :=
  hs.command fun _ _ => .revokePlan

theorem PlanKeeps.attestPlan {nonce : BitVec 256} {q : Session} : PlanKeeps (attestPlan nonce s q) :=
  .cmd fun _ _ ht => ht.withAttestReport

theorem Keeps.execAttest {r : Req} {nonce : BitVec 256} (hs : Keeps s₀ s) : OutKeeps s₀ (execAttest r nonce s) :=
  hs.command fun _ _ => .attestPlan

theorem Keeps.setTestPort {st : Nat} (hs : Keeps s₀ s) : Keeps s₀ (s.setTestPort st) := .ite hs (.ite hs.put hs.put.raise)

theorem PlanKeeps.testPortPlan {st : Nat} {sig : BitVec 1056} {q : Session} : PlanKeeps (testPortPlan st sig s q) :=
  .ite .refuse (.cmd fun _ _ ht => ht.setTestPort)

theorem Keeps.execTestPort {r : Req} {st : Byte} {reserved : BitVec 24} {sig : BitVec 1056} (hs : Keeps s₀ s) :
    OutKeeps s₀ (execTestPort r st reserved sig s) :=
  hs.command fun _ _ => .testPortPlan

/-! ### Sys2Proof/Machine/Timeouts.lean -/

theorem Keeps.execCommandComplete {p : Nat} {queue : Fin 5} {x : Fin 4} (hs : Keeps s₀ s) :
    OutKeeps s₀ (execCommandComplete p queue x s) := by
  unfold Machine.execCommandComplete
  refine hs.onCore fun _ => ?_
  split
  · exact hs
  · refine .ite hs ?_
    refine .ite ?_ (.ite hs.finishCmd hs)
    split
    · exact hs
    · exact Keeps.ite hs.completeGroup hs

theorem Keeps.timeout {p x q : Nat} (hs : Keeps s₀ s) : Keeps s₀ (s.timeout p x q) := hs.setCore.put.bump32.incident

theorem Keeps.toDeadline {p x q : Nat} (hs : Keeps s₀ s) : Keeps s₀ (s.toDeadline p x q) := by
  unfold State.toDeadline
  split
  · exact hs
  · exact .ite hs.advance hs

theorem Keeps.execCommandTimeout {p : Nat} {queue : Fin 5} {x : Fin 4} (hs : Keeps s₀ s) :
    OutKeeps s₀ (execCommandTimeout p queue x s) :=
  hs.onCore fun _ => .ite hs (.ite hs.toDeadline.timeout (.ite hs.timeout hs))

/-! ### Sys2Proof/Machine/TorusFlits.lean -/

theorem Keeps.badFlit {p : Nat} (hs : Keeps s₀ s) : Keeps s₀ (s.badFlit p) := .ite hs hs.setLink.sendNull

theorem Keeps.takeAck {p : Nat} {f : Flit} (hs : Keeps s₀ s) : Keeps s₀ (s.takeAck p f) := .ite hs (.ite hs.setLink.resend hs.setLink)

theorem Keeps.takeCredits {p : Nat} {f : Flit} (hs : Keeps s₀ s) : Keeps s₀ (s.takeCredits p f) := hs.setLink

theorem Keeps.streamBytes {f : Flit} (hs : Keeps s₀ s) : Keeps s₀ (s.streamBytes f) := by
  unfold State.streamBytes
  split
  · refine .ite ?_ hs
    split
    · exact hs.setBook
  · exact hs

theorem Keeps.streamCredits {f : Flit} (hs : Keeps s₀ s) : Keeps s₀ (s.streamCredits f) := by
  unfold State.streamCredits
  split
  · exact .ite hs.setBook hs
  · exact hs

theorem Keeps.ackForwarded {p : Nat} (hs : Keeps s₀ s) : Keeps s₀ (s.ackForwarded p) := .ite hs.sendNull hs

theorem Keeps.deliver {p : Nat} {f : Flit} (hs : Keeps s₀ s) : Keeps s₀ (s.deliver p f) := by
  unfold State.deliver
  refine .ite (Keeps.ite hs (.ite hs.streamBytes hs.streamCredits)).leaveBuffer ?_
  split
  · exact hs.leaveBuffer
  · exact hs.queueFlit.ackForwarded

theorem Keeps.sequenced {p : Nat} {f : Flit} (hs : Keeps s₀ s) : Keeps s₀ (s.sequenced p f) :=
  .ite hs.badFlit.drainPort hs.setLink.takeCredits.deliver.drainPort

theorem Keeps.receive {p ty : Nat} {f : Flit} (hs : Keeps s₀ s) : OutKeeps s₀ (s.receive p ty f) := by
  unfold State.receive
  refine hs.onLink fun t ht => ?_
  refine .ite trivial ?_
  refine .ite ht ?_
  extract_lets s1 s2
  refine .ite ht.bump64.bump64.badFlit ?_
  refine .ite ht.bump64.bump32.badFlit ?_
  refine .ite ht.bump64 ?_
  exact .ite ht.bump64.takeAck.sequenced ht.bump64.takeAck.takeCredits.drainPort

/-! ### Sys2Proof/Machine/Values.lean -/

theorem Keeps.keepSnapshot {slot key : Nat} {value : List Byte} (hs : Keeps s₀ s) : Keeps s₀ (s.keepSnapshot slot key value) := by
  unfold State.keepSnapshot
  split
  · exact hs
  · exact hs.setSession

theorem Keeps.spendRead {key : Nat} (hs : Keeps s₀ s) : Keeps s₀ (s.spendRead key) := .ite hs.withFresh hs

theorem PlanKeeps.readEntry {row : DRow} {index sub offset : Nat} {q : Session} : PlanKeeps (readEntry row index sub offset s q) := by
  unfold Machine.readEntry
  refine .ite (fun _ _ ht => ht.spendRead) (.ite (fun _ _ ht => ht.keepSnapshot.spendRead) ?_)
  split
  · exact fun _ _ ht => ht
  · exact fun _ _ ht => ht.spendRead

theorem PlanKeeps.readPlan {index sub reserved offset : Nat} {q : Session} : PlanKeeps (readPlan index sub reserved offset s q) := by
  unfold Machine.readPlan
  split
  · exact .only
  · exact .ite .only (.ite .only (.ite .only .readEntry))

theorem Keeps.execRead {r : Req} {index : W16} {sub reserved : Byte} {offset : W32} (hs : Keeps s₀ s) :
    OutKeeps s₀ (execRead r index sub reserved offset s) :=
  hs.request fun _ _ => .readPlan

/-! ### Sys2Proof/Machine/Writes.lean -/

theorem Keeps.clearFlags {key v : Nat} (hs : Keeps s₀ s) : Keeps s₀ (s.clearFlags key v) := hs.put

theorem Keeps.writeMirrorReserve {v : Nat} (hs : Keeps s₀ s) : Keeps s₀ (s.writeMirrorReserve v) :=
  .ite hs.put.withMirror.dropSource hs.put

theorem Keeps.writeJobId {v : Nat} (hs : Keeps s₀ s) : Keeps s₀ (s.writeJobId v) := .ite hs hs.put.dropSource

theorem Keeps.settlePort {p : Nat} (hs : Keeps s₀ s) : Keeps s₀ (s.settlePort p) := .ite (.ite hs.setLinkState hs) (.ite hs hs.dropLink)

theorem Keeps.writeTarget {n v : Nat} (hs : Keeps s₀ s) : Keeps s₀ (s.writeTarget n v) := by
  unfold State.writeTarget
  extract_lets s1 src
  have h1 : Keeps s₀ s1 := hs.put.storageLost.settleHeld
  split
  · exact h1
  · exact .ite h1.setStorage (.ite h1.storageStart h1.setStorage)

theorem Keeps.writeRoute {slot v : Nat} (hs : Keeps s₀ s) : Keeps s₀ (s.writeRoute slot v) := hs.dropRoute.put

theorem Keeps.writeDecisionMode {v : Nat} (hs : Keeps s₀ s) : Keeps s₀ (s.writeDecisionMode v) := .ite hs.put.put hs.put

theorem Keeps.writePartner {v : Nat} (hs : Keeps s₀ s) : Keeps s₀ (s.writePartner v) := .ite hs hs.yieldDelta.withMirror.put

theorem Keeps.writeEntry {index sub v : Nat} (hs : Keeps s₀ s) : Keeps s₀ (s.writeEntry index sub v) := by
  unfold State.writeEntry
  extract_lets key
  refine .ite hs.clearFlags ?_
  refine .ite hs.clearFlags ?_
  refine .ite hs.put.proveDue ?_
  refine .ite hs.writeMirrorReserve ?_
  refine .ite hs.writeDecisionMode ?_
  refine .ite hs.writePartner ?_
  refine .ite hs.writeJobId ?_
  refine .ite hs.put.settlePort.settlePort ?_
  exact .ite hs.put.settlePort (.ite hs.writeTarget (.ite hs.writeRoute hs.put))

theorem PlanKeeps.writePlan {index sub reserved offset : Nat} {value : List Byte} {q : Session} :
    PlanKeeps (writePlan index sub reserved offset value s q) := by
  unfold Machine.writePlan
  split
  · exact .only
  · exact .ite (fun _ _ ht => ht.writeEntry) (.ite (fun _ _ ht => ht.withFresh) fun _ _ ht => ht.withFresh.writeEntry)

theorem Keeps.writeRequest {r : Req} {index sub reserved offset : Nat} {value : List Byte} (hs : Keeps s₀ s) :
    Keeps s₀ (s.writeRequest r index sub reserved offset value) :=
  hs.request fun _ _ => .writePlan

theorem Keeps.writeTo {r : Req} {key n v : Nat} (hs : Keeps s₀ s) : Keeps s₀ (s.writeTo r key n v) := hs.writeRequest

theorem Keeps.execWrite {r : Req} {index : W16} {sub reserved : Byte} {offset : W32} {value : List Byte} (hs : Keeps s₀ s) :
    OutKeeps s₀ (execWrite r index sub reserved offset value s) :=
  hs.writeRequest

/-! ### Sys2Proof/Machine/WindowSend.lean -/

theorem Keeps.badCommand {r : Req} {index sub : Nat} (hs : Keeps s₀ s) : OutKeeps s₀ (s.badCommand r index sub) := by
  have refused {check : State → Session → Option Nat} {st : Nat} :
      OutKeeps s₀ (s.commandWith r check fun _ _ => Plan.refuse st) := hs.commandWith fun _ _ => .refuse
  unfold State.badCommand
  split
  · exact refused
  · exact .ite refused (.ite refused refused)

theorem Keeps.goodCommand {r : Req} {index : Nat} {a : List Byte} (hs : Keeps s₀ s) : OutKeeps s₀ (s.goodCommand r index a) := by
  unfold State.goodCommand
  extract_lets b h w q t sig
  refine .ite hs.execLoadImage ?_
  refine .ite hs.execUnload ?_
  refine .ite hs.execRunSteps ?_
  refine .ite hs.execStop ?_
  refine .ite hs.execCheckpoint ?_
  refine .ite hs.execRestore ?_
  refine .ite hs.execEnterMaintenance ?_
  refine .ite hs.execLeaveMaintenance ?_
  refine .ite hs.execMarkSuspect ?_
  refine .ite hs.execResetDomain ?_
  refine .ite hs.execFenceCore ?_
  refine .ite hs.execProveCore ?_
  refine .ite hs.execLinkReset ?_
  refine .ite hs.execOpenWindow ?_
  refine .ite hs.execCloseWindow ?_
  refine .ite hs.execUpdateFirmware ?_
  refine .ite hs.execActivateFirmware ?_
  refine .ite hs.execAttest ?_
  refine .ite hs.execEnrollKey ?_
  exact .ite hs.execRevokeKey (.ite hs.execTestPort hs.execRepairHbm)

theorem Keeps.sendCommand {r : Req} {m : List Byte} (hs : Keeps s₀ s) : OutKeeps s₀ (s.sendCommand r m) :=
  .ite hs.goodCommand hs.badCommand

theorem Keeps.sendRequest {w : Nat} {m : List Byte} (hs : Keeps s₀ s) : OutKeeps s₀ (s.sendRequest w m) := by
  unfold State.sendRequest
  extract_lets r ty n
  refine .ite (.ite hs.execClose hs) ?_
  refine .ite (.ite (hs.request fun _ _ => .readPlan) hs) ?_
  exact .ite (.ite hs.writeRequest hs) (.ite (.ite hs.sendCommand hs) hs)

theorem Keeps.execWindowSend {w : Nat} {bytes : List Byte} (hs : Keeps s₀ s) : OutKeeps s₀ (execWindowSend w bytes s) :=
  .ite (hs.rdma fun _ _ ht => ht) (.ite hs.emit.sendRequest hs.emit)

/-! ### Every command -/

theorem Keeps.exec {c : Instr} (hs : Keeps s₀ s) : OutKeeps s₀ (exec c s) := by
  cases c with
  | loadImage => exact hs.execLoadImage
  | unload => exact hs.execUnload
  | runSteps => exact hs.execRunSteps
  | stop => exact hs.execStop
  | checkpoint => exact hs.execCheckpoint
  | restore => exact hs.execRestore
  | enterMaintenance => exact hs.execEnterMaintenance
  | leaveMaintenance => exact hs.execLeaveMaintenance
  | markSuspect => exact hs.execMarkSuspect
  | resetDomain => exact hs.execResetDomain
  | fenceCore => exact hs.execFenceCore
  | proveCore => exact hs.execProveCore
  | linkReset => exact hs.execLinkReset
  | openWindow => exact hs.execOpenWindow
  | closeWindow => exact hs.execCloseWindow
  | updateFirmware => exact hs.execUpdateFirmware
  | activateFirmware => exact hs.execActivateFirmware
  | attest => exact hs.execAttest
  | enrollKey => exact hs.execEnrollKey
  | revokeKey => exact hs.execRevokeKey
  | testPort => exact hs.execTestPort
  | repairHbm => exact hs.execRepairHbm
  | openRequest => exact hs.execOpenRequest
  | openProof => exact hs.execOpenProof
  | close => exact hs.execClose
  | read => exact hs.execRead
  | write => exact hs.execWrite
  | windowSend => exact hs.execWindowSend
  | statusWrite => exact .ite trivial hs.writeTo
  | vecFlagsWrite => exact .ite trivial hs.writeTo
  | alertFlagsWrite => exact hs.writeTo
  | bgDeferWrite => exact hs.writeTo
  | mirrorReserveWrite => exact hs.writeTo
  | ledgerReserveWrite => exact hs.writeTo
  | jobIdWrite => exact hs.writeTo
  | storageTargetWrite => exact .ite trivial hs.writeTo
  | completionRouteWrite => exact .ite trivial hs.writeTo
  | portEnableWrite => exact .ite trivial hs.writeTo
  | verifierEnableWrite => exact hs.writeTo
  | telemetryPeriodWrite => exact hs.writeTo
  | regionWindowWrite => exact hs.execRegionWindowWrite
  | regionWindowRead => exact hs.execRegionWindowRead
  | stepInputWrite => exact hs.execStepInputWrite
  | imageWindowAccess => exact hs.execImageWindowAccess
  | qpError => exact hs.execQpError
  | cnpReceived => exact hs.execCnpReceived
  | rateRecoveryTick => exact hs.execRateRecoveryTick
  | pfcFrameReceived => exact hs.execPfcFrameReceived
  | arpRequest => exact hs.execArpRequest
  | neighborSolicitation => exact hs.execNeighborSolicitation
  | icmpEcho => exact hs.execIcmpEcho
  | ringConsumerReadDone => exact hs.execRingConsumerReadDone
  | sessionIdleExpiry => exact hs.execSessionIdleExpiry
  | challengeExpiry => exact hs.execChallengeExpiry
  | aluAdd => exact hs.alu
  | aluSub => exact hs.alu
  | aluAnd => exact hs.alu
  | aluOr => exact hs.alu
  | aluXor => exact hs.alu
  | aluSll => exact hs.alu
  | aluSrl => exact hs.alu
  | aluSra => exact hs.alu
  | aluMul => exact hs.alu
  | aluMulhu => exact hs.alu
  | aluSlt => exact hs.alu
  | aluSltu => exact hs.alu
  | addi => exact hs.control fun _ _ ht => ht.writeReg
  | andi => exact hs.control fun _ _ ht => ht.writeReg
  | ori => exact hs.control fun _ _ ht => ht.writeReg
  | lui => exact hs.control fun _ _ ht => ht.writeReg
  | lw => exact hs.execLw
  | sw => exact hs.execSw
  | lcs => exact hs.execLcs
  | beq => exact hs.execBeq
  | bne => exact hs.execBne
  | blt => exact hs.execBlt
  | bge => exact hs.execBge
  | bltu => exact hs.execBltu
  | bgeu => exact hs.execBgeu
  | jal => exact hs.execJal
  | jalr => exact hs.execJalr
  | push => exact hs.execPush
  | pushResume => exact hs.execPushResume
  | waitsc => exact hs.execWaitsc
  | waitscRelease => exact hs.execWaitscRelease
  | sigsc => exact hs.execSigsc
  | stepend => exact hs.execStepend
  | stepTokenReturn => exact hs.execStepTokenReturn
  | stepno => exact hs.control fun _ _ ht => ht.writeReg
  | groupStart => exact hs.execGroupStart
  | groupBufferFill => exact hs.execGroupBufferFill
  | bundleIssue => exact hs.execBundleIssue
  | groupComplete => exact hs.execGroupComplete
  | mma => exact hs.issueSlot
  | arrayMax => exact hs.issueSlot
  | arrayMin => exact hs.issueSlot
  | drain => exact hs.issueSlot
  | arrayResultLanding => exact hs.execArrayResultLanding
  | vecFma => exact hs.issueSlot
  | vecMul => exact hs.issueSlot
  | vecAdd => exact hs.issueSlot
  | vecSub => exact hs.issueSlot
  | vecMax => exact hs.issueSlot
  | vecMin => exact hs.issueSlot
  | cast => exact hs.issueSlot
  | div => exact hs.issueSlot
  | sqrt => exact hs.issueSlot
  | vload => exact hs.issueSlot
  | vstore => exact hs.issueSlot
  | vbank => exact hs.issueSlot
  | update => exact hs.issueSlot
  | softmaxF => exact hs.issueSlot
  | softmaxB => exact hs.issueSlot
  | layernormF => exact hs.issueSlot
  | layernormB => exact hs.issueSlot
  | rmsnormF => exact hs.issueSlot
  | rmsnormB => exact hs.issueSlot
  | swatchEvaluate => exact hs.execSwatchEvaluate
  | loadCopy => exact hs.execLoadCopy
  | amax => exact hs.execAmax
  | gather => exact hs.execGather
  | loadStash => exact hs.execLoadStash
  | storeCopy => exact hs.execStoreCopy
  | scatter => exact hs.execScatter
  | scatterAdd => exact hs.execScatterAdd
  | storeStash => exact hs.execStoreStash
  | streamSend => exact hs.execStreamSend
  | streamRecv => exact hs.execStreamRecv
  | chain => exact hs.execChain
  | commandComplete => exact hs.execCommandComplete
  | commandTimeout => exact hs.execCommandTimeout
  | streamUnitArrival => exact hs.execStreamUnitArrival
  | streamCreditReturn => exact hs.execStreamCreditReturn
  | wcbIdleFlush => exact hs.execWcbIdleFlush
  | narrowEntryTimeout => exact hs.execNarrowEntryTimeout
  | narrowLineReturn => exact hs.execNarrowLineReturn
  | patrolScrubRead => exact hs.execPatrolScrubRead
  | hbmRecalibration => exact hs.execHbmRecalibration
  | hbmRetrainComplete => exact hs.execHbmRetrainComplete
  | stepStart => exact hs.execStepStart
  | vatToken => exact hs.execVatToken
  | replayStart => exact hs.execReplayStart
  | replayComplete => exact hs.execReplayComplete
  | quiesceComplete => exact hs.execQuiesceComplete
  | suspectReplayJudged => exact hs.execSuspectReplayJudged
  | provingDue => exact hs.execProvingDue
  | provingComplete => exact hs.execProvingComplete
  | fenceRemapComplete => exact hs.execFenceRemapComplete
  | mirrorDeltaStart => exact hs.execMirrorDeltaStart
  | halt => exact hs.execHalt
  | ready => exact hs.execReady
  | grant => exact hs.execGrant
  | stopReport => exact hs.execStopReport
  | target => exact hs.execTarget
  | resume => exact hs.execResume
  | restoreEnd => exact hs.execRestoreEnd
  | mirrorOpen => exact hs.execMirrorOpen
  | mirrorBegin => exact hs.execMirrorBegin
  | mirrorGranule => exact hs.execMirrorGranule
  | mirrorEnd => exact hs.execMirrorEnd
  | mirrorAbort => exact hs.execMirrorAbort
  | mirrorAck => exact hs.execMirrorAck
  | mirrorInvalid => exact hs.execMirrorInvalid
  | mirrorRead => exact hs.execMirrorRead
  | mirrorData => exact hs.execMirrorData
  | shardReport => exact hs.execShardReport
  | restoreReport => exact hs.execRestoreReport
  | manifestInvalidated => exact hs.execManifestInvalidated
  | storageWriteAck => exact hs.execStorageWriteAck
  | storageWriteFailure => exact hs.execStorageWriteFailure
  | storageReadResponse => exact hs.execStorageReadResponse
  | gatherTimeout => exact hs.execGatherTimeout
  | flitData => exact hs.receive
  | flitStreamCredit => exact hs.receive
  | flitNull => exact hs.receive
  | marker => exact hs.receive
  | peerRecord => exact hs.execPeerRecord
  | torusAccept => exact hs.execTorusAccept
  | torusRefuse => exact hs.execTorusRefuse
  | laneMap => exact hs.execLaneMap
  | signalDetect => exact hs.execSignalDetect
  | equalizationComplete => exact hs.execEqualizationComplete
  | alignComplete => exact hs.execAlignComplete
  | torusLaneFault => exact hs.execTorusLaneFault
  | flapDecay => exact hs.execFlapDecay
  | retrainTimeout => exact hs.execRetrainTimeout
  | linkUpTimeout => exact hs.execLinkUpTimeout
  | lossOfSignal => exact hs.execLossOfSignal
  | d2dUnitFrame => exact hs.execD2dUnitFrame
  | d2dCreditFrame => exact hs.execD2dCreditFrame
  | d2dLaneFault => exact hs.execD2dLaneFault
  | d2dRetrainComplete => exact hs.execD2dRetrainComplete
  | d2dLinkUp => exact hs.execD2dLinkUp
  | capabilityRecord => exact hs.execCapabilityRecord
  | endpointRecord => exact hs.execEndpointRecord
  | negotiationTimeout => exact hs.execNegotiationTimeout
  | expansionDownTimeout => exact hs.execExpansionDownTimeout
  | expansionRailOvercurrent => exact hs.execExpansionRailOvercurrent
  | dieWatchdogExpiry => exact hs.execDieWatchdogExpiry
  | diePllLoss => exact hs.execDiePllLoss
  | dieResetComplete => exact hs.execDieResetComplete
  | hubWatchdogExpiry => exact hs.execHubWatchdogExpiry
  | hubReturn => exact hs.execHubReturn
  | hubBootComplete => exact hs.execHubBootComplete
  | bootWatchdog => exact hs.execBootWatchdog
  | inputPowerGood => exact hs.execInputPowerGood
  | inputPowerLoss => exact hs.execInputPowerLoss
  | rstInNAsserted => exact hs.execRstInNAsserted
  | rstInNReleased => exact hs.execRstInNReleased
  | refclkLoss => exact hs.execRefclkLoss
  | refclkReturn => exact hs.execRefclkReturn
  | thermalTripComparator => exact hs.execThermalTripComparator
  | sensorSample => exact hs.execSensorSample
  | railOutOfRegulation rail => exact hs.execRailOutOfRegulation (_rail := rail)
  | telemetryPeriod => exact hs.execTelemetryPeriod
  | eventLogFlush => exact hs.execEventLogFlush
  | bgDeferExpiry => exact hs.execBgDeferExpiry
  | flashHousekeeping => exact hs.execFlashHousekeeping
  | tapExtest => exact hs.execTapExtest
  | tapIdcode => exact hs.execTapIdcode
  | tapSamplePreload => exact hs.execTapSamplePreload
  | tapBypass => exact hs.execTapBypass
  | tapInternalScan => exact hs.execTapInternalScan
  | mirrorGranuleSent => exact hs.execMirrorGranuleSent
  | shardBlockCoded => exact hs.execShardBlockCoded
  | hbmStackFailure => exact hs.execHbmStackFailure
  | ethernetLinkUp => exact hs.execEthernetLinkUp
  | ethernetLinkDown => exact hs.execEthernetLinkDown
  | d2dLinkLoss => exact hs.execD2dLinkLoss
  | imageLoadComplete => exact hs.execImageLoadComplete
  | firmwareWriteComplete => exact hs.execFirmwareWriteComplete
  | hbmRepairComplete => exact hs.execHbmRepairComplete
  | commandLimitExpiry => exact hs.execCommandLimitExpiry
  | activationHubReset => exact hs.execActivationHubReset
  | ackTimeoutExpiry => exact hs.execAckTimeoutExpiry
  | pfcPauseExpiry => exact hs.execPfcPauseExpiry
  | suspectMarkExpiry => exact hs.execSuspectMarkExpiry
  | tripLatchClear => exact hs.execTripLatchClear
  | dimensionWrite => exact hs.writeTo
  | alertEnableWrite => exact hs.writeTo
  | pllCalibration => exact hs.execPllCalibration
  | voltageCalibration => exact hs.execVoltageCalibration

end

/-- Settles O59: a command's lemma, taken from the state in which it begins. -/
theorem execKeeps : Obligations.ExecKeeps := by
  intro c s t h
  have hc : OutKeeps s (exec c s) := (Keeps.refl s).exec
  rw [h] at hc
  obtain ⟨hgrade, hpending, hsent, hports⟩ := hc
  exact ⟨hgrade, hpending, hsent, hports⟩

end Sys2Proof.Machine
end

