-- ==== Sys2Proof/Proofs/StreamCommands.lean ====
section
/-! PROOF of O17. A command that runs on a stream port does one unit's work (`onPort_running`), and each of SEND, RECV and the first member
of a chain has one path on which that unit moves: `sendGo_sent`, `recvGo_taken` and `chainGo_first`. -/

namespace Sys2Proof.Machine

/-- A context that is alive is one of its core's. -/
theorem Core.lt_of_alive {c : Core} {x : Nat} (h : (c.ctx x).alive = true) : x < c.ctxs.length := by
  refine Nat.lt_of_not_le fun hx => ?_
  have hk : c.ctx x = Ctx.empty := by rw [Core.ctx, List.getD_eq_getElem?_getD, List.getElem?_eq_none hx, Option.getD_none]
  rw [hk] at h
  exact absurd h (by decide)

/-- The chain buffer set for an engine reads back. -/
theorem State.chainBuf_setChainBuf (s : State) (e : Eng) (b : ChainBuf) (h : e.x < (s.core e.p).ctxs.length) :
    (((s.setChainBuf e b).core e.p).ctx e.x).chainBuf e.q = b := by
  simp [State.setChainBuf, State.setCtx, Core.ctx, Core.setCtx, Ctx.chainBuf, h]

@[simp] theorem State.consumeIf_false (s : State) (e : Eng) : s.consumeIf e false = s := rfl

@[simp] theorem qPort_sub (port : Nat) : qPort port - 3 = port := Nat.add_sub_cancel_left 3 port

/-! ### What a port's command does -/

/-- The command that a live context runs on a port that has not halted does the work of its next unit. -/
theorem State.onPort_running {s : State} {p : Nat} {port : Fin 2} {x : Fin 4} {l : Line} {k : Nat} (hup : s.coreUp p)
    (halive : (s.ctxAt p x).alive = true) (hhalt : qPort port ∉ (s.core p).halted) (hrun : (s.ctxAt p x).current (qPort port) = some (l, k))
    (hk : k < stCount l) (go : State → Eng → Line → Nat → State) :
    s.onPort p x port (stOp l) go = .next (go s (s.eng p x (qPort port)) l k) := by
  have hcmd : s.portCmd p x (qPort port) (stOp l) = some (s, l, k) := by simp [State.portCmd, hrun, halive, hhalt, hk]
  rw [State.onPort, State.onCore_up hup, hcmd]
  exact congrArg Host.Outcome.next (if_pos halive)

section
variable {s t : State} {e : Eng} {l : Line} {k : Nat} {d : StreamD} {u : SUnit}

/-- A SEND whose unit is sent moves on by one unit (R229). -/
theorem State.sendGo_sent (hd : s.streamOut e.p e.x (e.q - 3) l = some d) (hu : s.readUnit e (stLocalAddr l k) = some u) (hclean : u.2 = false)
    (ht : s.sendUnit e.p e.x (e.q - 3) d u false = some t) : s.sendGo e l k = t.progress e.p e.x e.q (k + 1) := by
  simp only [State.sendGo, hd, hu, ht, hclean, State.consumeIf_false]

/-- A RECV without FWD writes the unit that it takes and moves on by one unit (R229). -/
theorem State.recvGo_taken (hfwd : stFwd l = false) (hd : s.streamIn e.p e.x (e.q - 3) l = some d) (ht : s.takeUnit e.p d = some (u, t))
    (hm : s.mapped e spCore (stOutAt l k) 64 true = true) :
    s.recvGo e l k = (t.writeUnit e (stOutAt l k) u).progress e.p e.x e.q (k + 1) := by
  simp [State.recvGo, hd, ht, hm, State.forward, hfwd]

/-- The first member of a chain that is no SUM has a unit of its own group, as it stands in core store, to send (R231). -/
theorem State.chainCombineGo_first {c : ChainD} (hrole : stRole l = roleFirst) (hop : c.op ≠ coSum) (hmode : c.mode = cmFp32)
    (hsend : (((s.core e.p).ctx e.x).chainBuf e.q).toSend = []) (hu : s.readUnit e (stLocalAddr l k) = some u) (hclean : u.2 = false) :
    s.chainCombineGo e l c k =
      s.setChainBuf e { (((s.core e.p).ctx e.x).chainBuf e.q) with got := [], acc := [], toSend := [u] } := by
  have hlocals : chainLocals c.mode = 1 := by rw [hmode]; rfl
  have hmine : s.chainMine e l k 1 = .ok [u] := by simp only [State.chainMine, hu]
  have hlast : ¬ roleLast ≤ stRole l := by rw [hrole]; decide
  have hne : stRole l ≠ roleLast := by rw [hrole]; decide
  simp [State.chainCombineGo, hsend, if_pos hrole, hlocals, State.chainMeet, hmine, hlast, hclean, State.chainGroup, hne, chainSend, hop]

/-- A member of a chain with FP32 wire units that sends the last unit of its group moves on by one unit (R231, R232). -/
theorem State.chainSendGo_last {c : ChainD} (hmode : c.mode = cmFp32) (hsend : (((s.core e.p).ctx e.x).chainBuf e.q).toSend = [u])
    (hd : s.streamOut e.p e.x (e.q - 3) l = some d) (ht : s.sendUnit e.p e.x (e.q - 3) d u false = some t) :
    s.chainSendGo e l c k =
      (t.setChainBuf e { (((s.core e.p).ctx e.x).chainBuf e.q) with toSend := [] }).progress e.p e.x e.q (k + 1) := by
  have hlocals : chainLocals c.mode = 1 := by rw [hmode]; rfl
  simp only [State.chainSendGo, hsend, hd, ht, hlocals, if_true]

/-- The first member of a chain that is no SUM and goes in FP32 wire units: from m, in which its own unit waits to be sent, the unit is sent and
the command moves on by one unit (R231). -/
theorem State.chainGo_first {m : State} {c : ChainD} (hbad : s.chainBad e l = false) (hc : s.chainD? (stChain l) = some c)
    (hrole : stRole l = roleFirst) (hop : c.op ≠ coSum) (hmode : c.mode = cmFp32) (hx : e.x < (s.core e.p).ctxs.length)
    (hsend : (((s.core e.p).ctx e.x).chainBuf e.q).toSend = []) (hu : s.readUnit e (stLocalAddr l k) = some u) (hclean : u.2 = false)
    (hm : m = s.setChainBuf e { (((s.core e.p).ctx e.x).chainBuf e.q) with got := [], acc := [], toSend := [u] })
    (halive : ((m.core e.p).ctx e.x).alive = true) (hd : m.streamOut e.p e.x (e.q - 3) l = some d)
    (ht : m.sendUnit e.p e.x (e.q - 3) d u false = some t) :
    s.chainGo e l k = (t.setChainBuf e { (((m.core e.p).ctx e.x).chainBuf e.q) with toSend := [] }).progress e.p e.x e.q (k + 1) := by
  have hcomb : s.chainCombineGo e l c k = m := by rw [hm, State.chainCombineGo_first hrole hop hmode hsend hu hclean]
  have hown : (((m.core e.p).ctx e.x).chainBuf e.q).toSend = [u] := by rw [hm, State.chainBuf_setChainBuf _ _ _ hx]
  simp only [State.chainGo, hbad, hc, hcomb, halive, if_true, Bool.false_eq_true, if_false, State.chainSendGo_last hmode hown hd ht]

end

/-- Settles O17: the port's command does the work of one unit, and each of the three has its unit to move. -/
theorem streamCommandsMove : Obligations.StreamCommandsMove := by
  intro s p port x l k hup halive q e hhalt hrun hk
  have hport := State.onPort_running hup halive hhalt hrun hk
  have hq : e.q - 3 = port.val := qPort_sub port.val
  refine ⟨fun hop d hd u hu hclean t ht => ?send, fun hop hfwd d hd u t ht hm => ?recv,
    fun hop hrole hbad c hc hsum hmode hsend _ u hu hclean => ?chain⟩
  case send =>
    have hgo : s.sendGo e l k = _ := State.sendGo_sent (hq ▸ hd) hu hclean (hq ▸ ht)
    exact (hop ▸ hport State.sendGo).trans (congrArg Host.Outcome.next hgo)
  case recv =>
    have hgo : s.recvGo e l k = _ := State.recvGo_taken hfwd (hq ▸ hd) ht hm
    exact (hop ▸ hport State.recvGo).trans (congrArg Host.Outcome.next hgo)
  case chain =>
    intro b m hm d hd t ht
    have hgo : s.chainGo e l k = _ :=
      State.chainGo_first hbad hc hrole hsum hmode (Core.lt_of_alive halive) hsend hu hclean rfl hm (hq ▸ hd) (hq ▸ ht)
    exact (hop ▸ hport State.chainGo).trans (congrArg Host.Outcome.next hgo)

end Sys2Proof.Machine
end

