-- ==== Sys2Proof/Proofs/StreamCredits.lean ====
section
/-! PROOF of O18. The four events of a stream between two cores of the module, each in one lemma that says what the stream's book is
afterwards: an arrival (`arrive_book`), the return of a credit (`creditReturn_book`), a send (`sendUnit_book`) and a consumption
(`takeUnit_book`). Each moves one unit of the total from one part of the book to another. Only `State.setBook` writes books. -/

namespace Sys2Proof.Machine

/-! ### Books -/

theorem State.book?_congr {s t : State} (h : t.streams = s.streams) (key : Nat) : t.book? key = s.book? key := by
  rw [State.book?, State.book?, h]

theorem State.num_of_book? {s : State} {key : Nat} {b : Stream} (h : s.book? key = some b) : b.num = key := by
  simpa using List.find?_some h

/-- The book set for a number that has one is what the number then finds. -/
theorem State.book?_setBook {s : State} {key : Nat} {b c : Stream} (hb : s.book? key = some b) (hc : c.num = key) :
    (s.setBook c).book? key = some c := by
  subst hc
  have hsame : ((fun a : Stream => decide (a.num = c.num)) ∘ fun a => if a.num = c.num then c else a) = fun a => decide (a.num = c.num) := by
    funext a
    by_cases ha : a.num = c.num <;> simp [ha]
  have hnum : b.num = c.num := State.num_of_book? hb
  have hfind : s.streams.find? (fun a => decide (a.num = c.num)) = some b := hb
  rw [State.book?, State.setBook, List.find?_map, hsame, hfind, Option.map_some, if_pos hnum]

/-! ### What touches no book -/

@[simp] theorem State.freeFrame_streams (s : State) (cls : Nat) (h : Hop) : (s.freeFrame cls h).streams = s.streams := rfl

@[simp] theorem State.foldl_freeFrame_streams (s : State) (cls : Nat) (hops : List Hop) :
    (hops.foldl (fun t h => t.freeFrame cls h) s).streams = s.streams := by
  induction hops generalizing s with
  | nil => rfl
  | cons h hops ih => exact ih (s.freeFrame cls h)

@[simp] theorem State.ordered_streams (s : State) (p : Nat) : (s.ordered p).streams = s.streams := by
  unfold State.ordered
  split <;> rfl

/-! ### The events of a stream between two cores -/

section
variable {s t : State} {d : StreamD} {b : Stream} {u : SUnit}

/-- The arrival of the oldest unit in flight of a stream that is not journaled moves it to the end of the share (R227). -/
theorem State.arrive_book (hb : s.book? d.num = some b) (hj : d.journal = false) :
    (s.arrive d b u).book? d.num = some { b with flying := b.flying.tail, share := b.share ++ [u] } := by
  have hnum : b.num = d.num := State.num_of_book? hb
  simp only [State.arrive, hj, Bool.false_and, Bool.false_eq_true, if_false]
  rw [State.book?_congr (State.foldl_freeFrame_streams _ _ _)]
  exact State.book?_setBook hb hnum

/-- STREAM_UNIT_ARRIVAL of the oldest unit in flight is its arrival, where it may cross. -/
theorem exec_streamUnitArrival (hd : s.streamD? d.num = some d) (hlt : d.num < 2 ^ 32) (hb : s.book? d.num = some b)
    (hu : b.flying.head? = some u) (hway : s.mayArrive d = true) :
    exec (.streamUnitArrival d.num u.1 u.2) s = .next (s.arrive d b u) := by
  change execStreamUnitArrival d.num u.1 u.2 s = _
  simp only [execStreamUnitArrival, hb, Nat.mod_eq_of_lt hlt, hd]
  exact if_pos ⟨hu, hway⟩

/-- STREAM_CREDIT_RETURN brings the sender one credit of those on their way (R225). -/
theorem exec_streamCreditReturn (hb : s.book? d.num = some b) (hback : 0 < b.returning) :
    exec (.streamCreditReturn d.num) s = .next (s.setBook { b with returning := b.returning - 1, credits := b.credits + 1 }) := by
  change execStreamCreditReturn d.num s = _
  simp only [execStreamCreditReturn, hb]
  exact if_neg (by omega)

/-- A unit that leaves toward a core is the youngest in flight of its book. -/
theorem State.launch_toCore {key : Nat} (hb : s.book? key = some b) (hdst : epType d.dst = epCore) :
    s.launch d key u = s.setBook { b with flying := b.flying ++ [u] } := by
  simp only [State.launch, hdst, if_true, hb]

/-- Outside a replay a unit is sent toward a core where the stream's credits allow it, and takes one of them (R225). -/
theorem State.sendUnit_toCore {p x port : Nat} (hb : s.book? d.num = some b) (hdst : epType d.dst = epCore) (hr : s.replayOf p = none) :
    s.sendUnit p x port d u true =
      if s.maySend d b then some ((s.setBook { b with sentStep := b.sentStep + 1, credits := b.credits - 1 }).launch d d.num u) else none := by
  have hkey : s.streamKey p d.num = d.num := by rw [State.streamKey, hr]
  have htorus : ¬ epType d.dst = epTorus := by rw [hdst]; decide
  cases hmay : s.maySend d b <;> simp [State.sendUnit, hkey, hb, hr, hmay, htorus]

/-- A unit sent outside a replay toward a core has taken a credit and is the youngest in flight (R225). -/
theorem State.sendUnit_book {p x port : Nat} (hb : s.book? d.num = some b) (hdst : epType d.dst = epCore) (hr : s.replayOf p = none)
    (ht : s.sendUnit p x port d u true = some t) :
    0 < b.credits ∧
      t.book? d.num = some { b with sentStep := b.sentStep + 1, credits := b.credits - 1, flying := b.flying ++ [u] } := by
  have hnum : b.num = d.num := State.num_of_book? hb
  rw [State.sendUnit_toCore hb hdst hr, Option.ite_none_right_eq_some, Option.some.injEq] at ht
  obtain ⟨hmay, rfl⟩ := ht
  rw [State.maySend, Bool.and_eq_true, decide_eq_true_eq] at hmay
  have hpaid := State.book?_setBook (c := { b with sentStep := b.sentStep + 1, credits := b.credits - 1 }) hb hnum
  rw [State.launch_toCore hpaid hdst]
  exact ⟨hmay.1, State.book?_setBook hpaid hnum⟩

/-- A unit that a core consumes, outside a replay and a local rerun, is the oldest of the share, and its credit is on its way back to the
core that sent it (R225, R227). -/
theorem State.takeUnit_book {p : Nat} (hb : s.book? d.num = some b) (hsrc : epType d.src = epCore) (hr : s.replayOf p = none)
    (hagain : b.again = []) (ht : s.takeUnit p d = some (u, t)) :
    ∃ l, b.share = u :: l ∧ t.book? d.num = some { b with share := l, returning := b.returning + 1 } := by
  have hnum : b.num = d.num := State.num_of_book? hb
  cases hshare : b.share with
  | nil => simp [State.takeUnit, hr, hb, hagain, hshare] at ht
  | cons v l =>
    simp only [State.takeUnit, hr, hb, hagain, hshare, State.returnCredit, hsrc, if_true, Option.some.injEq, Prod.mk.injEq] at ht
    obtain ⟨rfl, rfl⟩ := ht
    refine ⟨l, rfl, ?_⟩
    rw [State.book?_congr (State.ordered_streams _ _)]
    simpa only [hagain] using State.book?_setBook (c := { b with share := l, returning := b.returning + 1 }) hb hnum

end

/-- Settles O18: each of the four events moves one unit of the book's total from one of its parts to another. -/
theorem streamCreditsConserved : Obligations.StreamCreditsConserved := by
  intro s d b hd hlt hb hnum hsrc hdst
  refine ⟨fun u l hu hj hway => ?arrival, fun hback => ?creditReturn, fun p x port u t hr ht => ?sent, fun p u t hr hagain ht => ?taken⟩
  case arrival =>
    refine ⟨_, _, exec_streamUnitArrival hd hlt hb (by rw [hu]; rfl) hway, State.arrive_book hb hj, ?_, by rw [hu]; rfl, rfl, rfl⟩
    simp only [Stream.total, hu, List.tail_cons, List.length_append, List.length_cons, List.length_nil]
    omega
  case creditReturn =>
    refine ⟨_, _, exec_streamCreditReturn hb hback, State.book?_setBook hb hnum, ?_, rfl, rfl⟩
    simp only [Stream.total]
    omega
  case sent =>
    obtain ⟨hcredit, hbook⟩ := State.sendUnit_book hb hdst hr ht
    refine ⟨hcredit, _, hbook, ?_, rfl⟩
    simp only [Stream.total, List.length_append, List.length_cons, List.length_nil]
    omega
  case taken =>
    obtain ⟨l, hshare, hbook⟩ := State.takeUnit_book hb hsrc hr hagain ht
    refine ⟨by rw [hshare]; rfl, _, hbook, ?_, by rw [hshare]; rfl⟩
    simp only [Stream.total, hshare, List.length_cons]
    omega

end Sys2Proof.Machine
end

