-- ==== Sys2Proof/Proofs/Telling.lean ====
section
/-! SUPPORT. What the module tells others, and what that leaves (for O32). A message to another module, an event and a completion record move the
torus ports, the sessions, the event log, MSG_ID, what has been sent, and entries from 0x9100:00 on, where the counters of events, records and
alerts stand. `State.untold` is a state without these: an operation that only tells leaves it, so that every other field, and every entry below
0x9100:00, is as it was. -/

namespace Sys2Proof.Machine

/-! ### Maps -/

section
variable {α : Type} {p : Nat × α → Bool} {k : Nat}

theorem SMap.filter_ins (hp : ∀ w, p (k, w) = false) (v : α) (m : SMap α) : (SMap.ins k v m).filter p = m.filter p := by
  induction m with
  | nil => simp [SMap.ins, hp]
  | cons e m ih =>
    obtain ⟨j, w⟩ := e
    simp only [SMap.ins]
    split
    · simp only [List.filter_cons, ih]
    · split
      · subst j; simp [hp]
      · simp [List.filter_cons, hp]

theorem SMap.filter_del (hp : ∀ w, p (k, w) = false) (m : SMap α) : (SMap.del k m).filter p = m.filter p := by
  induction m with
  | nil => rfl
  | cons e m ih =>
    obtain ⟨j, w⟩ := e
    simp only [SMap.del]
    split
    · subst j; simp [hp, ih]
    · simp only [List.filter_cons, ih]

/-- A write is not seen among the entries of other keys. -/
theorem SMap.filter_put [DecidableEq α] (hp : ∀ w, p (k, w) = false) (d v : α) (m : SMap α) :
    (SMap.put d k v m).filter p = m.filter p := by
  unfold SMap.put
  split
  · exact SMap.filter_del hp m
  · exact SMap.filter_ins hp v m

/-- An entry whose key is kept reads as before. -/
theorem SMap.get_filter (hp : ∀ w, p (k, w) = true) (d : α) (m : SMap α) : SMap.get d k (m.filter p) = SMap.get d k m := by
  induction m with
  | nil => rfl
  | cons e m ih =>
    obtain ⟨j, w⟩ := e
    by_cases hj : j = k
    · subst j; simp [hp, SMap.get]
    · cases h : p (j, w) <;> simp [h, hj, SMap.get, ih]

end

/-! ### A state without what it tells -/

/-- A state without what telling others moves. -/
def State.untold (s : State) : State :=
  { s with
      obj := s.obj.filter (fun e => decide (e.1 < 0x910000)), links := [], out := [], sessions := [], log := [], logBuf := []
      steps := { s.steps with msgId := 0 } }

/-- Telling leaves every entry below 0x9100:00. -/
theorem State.o_of_untold {s t : State} (h : t.untold = s.untold) {k : Nat} (hk : k < 0x910000) : t.o k = s.o k := by
  have hobj : t.untold.obj = s.untold.obj := congrArg State.obj h
  have read (u : State) : u.o k = SMap.get (objDefault k) k u.untold.obj :=
    (SMap.get_filter (p := fun e => decide (e.1 < 0x910000)) (fun _ => decide_eq_true hk) _ u.obj).symm
  rw [read t, hobj, ← read s]

theorem State.ckpt_of_untold {s t : State} (h : t.untold = s.untold) : t.ckpt = s.ckpt :=
  (congrArg State.ckpt h : t.untold.ckpt = s.untold.ckpt)

@[simp] theorem State.untold_emit (s : State) (m : OutMsg) : (s.emit m).untold = s.untold := rfl
@[simp] theorem State.untold_emits (s : State) (l : List OutMsg) : (s.emits l).untold = s.untold := rfl
@[simp] theorem State.untold_setSession (s : State) (q : Session) : (s.setSession q).untold = s.untold := rfl
@[simp] theorem State.untold_setLink (s : State) (p : Nat) (l : Link) : (s.setLink p l).untold = s.untold := rfl
@[simp] theorem State.untold_nextMsg (s : State) : s.nextMsg.untold = s.untold := rfl

theorem State.untold_put {k : Nat} (hk : 0x910000 ≤ k) (s : State) (v : Nat) : (s.put k v).untold = s.untold := by
  have hobj := SMap.filter_put (p := fun e => decide (e.1 < 0x910000)) (fun _ => decide_eq_false (Nat.not_lt.2 hk)) (objDefault k) v s.obj
  simp only [State.untold, State.put, hobj]

theorem State.untold_bump64 {k : Nat} (hk : 0x910000 ≤ k) (s : State) (n : Nat) : (s.bump64 k n).untold = s.untold :=
  State.untold_put hk s _

theorem State.untold_bump32 {k : Nat} (hk : 0x910000 ≤ k) (s : State) (n : Nat) : (s.bump32 k n).untold = s.untold :=
  State.untold_put hk s _

theorem State.untold_foldl {α : Type} {f : State → α → State} (hf : ∀ t x, (f t x).untold = t.untold) (l : List α) (s : State) :
    (l.foldl f s).untold = s.untold := by
  induction l generalizing s with
  | nil => rfl
  | cons x l ih => exact (ih (f s x)).trans (hf s x)

/-! ### Messages -/

@[simp] theorem State.untold_controlFlit (s : State) (p : Nat) (record : List Byte) : (s.controlFlit p record).untold = s.untold := by
  unfold State.controlFlit
  dsimp only
  split <;> simp

@[simp] theorem State.untold_putFlit (s : State) (p header : Nat) (payload : List Byte) :
    (s.putFlit p header payload).untold = s.untold := by
  unfold State.putFlit
  dsimp only
  split <;> simp

@[simp] theorem State.untold_sendNull (s : State) (p : Nat) (nak : Bool) : (s.sendNull p nak).untold = s.untold := by
  unfold State.sendNull
  split <;> simp

@[simp] theorem State.untold_returnOwed (s : State) (p k : Nat) : (s.returnOwed p k).untold = s.untold := by
  induction k generalizing s with
  | zero => rfl
  | succ k ih =>
    unfold State.returnOwed
    split <;> simp [ih]

@[simp] theorem State.untold_leaveBuffer (s : State) (p cls : Nat) : (s.leaveBuffer p cls).untold = s.untold := by
  simp [State.leaveBuffer]

@[simp] theorem State.untold_sendOne (s : State) (p : Nat) (e : Nat × Flit) : (s.sendOne p e).untold = s.untold := by
  unfold State.sendOne
  dsimp only
  split <;> simp

@[simp] theorem State.untold_drainPort (s : State) (p k : Nat) : (s.drainPort p k).untold = s.untold := by
  induction k generalizing s with
  | zero => rfl
  | succ k ih =>
    unfold State.drainPort
    dsimp only
    split
    · rfl
    · split <;> simp [ih]

@[simp] theorem State.untold_queueFlit (s : State) (p from_ : Nat) (f : Flit) : (s.queueFlit p from_ f).untold = s.untold := by
  simp [State.queueFlit]

@[simp] theorem State.untold_sendFlit (s : State) (ftype cls dst tag : Nat) (payload : List Byte) (offset poison : Nat) :
    (s.sendFlit ftype cls dst tag payload offset poison).untold = s.untold := by
  unfold State.sendFlit
  split <;> simp

/-- A class-1 message only tells (R367). -/
@[simp] theorem State.untold_sendClass1 (s : State) (dst tag step word value : Nat) (data : List Byte) :
    (s.sendClass1 dst tag step word value data).untold = s.untold :=
  State.untold_foldl (fun t b => State.untold_sendFlit t _ _ _ _ b _ _) _ s.nextMsg

/-! ### Events -/

theorem State.untold_alert (s : State) (b : Nat) : (s.alert b).untold = s.untold :=
  (State.untold_bump32 (by omega) _ _).trans (State.untold_put (k := kAlertFlags) (by decide) s _)

theorem State.untold_withLog (s : State) (l b : List EventRec) : ({ s with log := l, logBuf := b } : State).untold = s.untold := rfl

theorem State.untold_flushLog (s : State) : s.flushLog.untold = s.untold := by
  unfold State.flushLog
  exact State.untold_withLog s _ _

@[simp] theorem State.untold_logEvent (s : State) (e : EventRec) : (s.logEvent e).untold = s.untold := by
  unfold State.logEvent
  dsimp only
  split
  · exact State.untold_flushLog _
  · rfl

@[simp] theorem State.untold_eventTo (s : State) (e : EventRec) (q : Session) : (s.eventTo e q).untold = s.untold := by
  unfold State.eventTo
  extract_lets sec sent
  split
  · split
    · simp
    · exact (State.untold_alert _ 7).trans (State.untold_bump64 (k := kEventsDropped) (by decide) s 1)
  · rfl

@[simp] theorem State.untold_raiseAt (s : State) (code step arg0 arg1 : Nat) : (s.raiseAt code step arg0 arg1).untold = s.untold := by
  unfold State.raiseAt
  split
  · rfl
  · extract_lets e t u
    have ht : t.untold = s.untold := (State.untold_logEvent _ e).trans (State.untold_bump64 (k := kEventCount) (by decide) s 1)
    have hu : u.untold = t.untold := by
      unfold u
      split
      · exact State.untold_alert t _
      · rfl
    exact (State.untold_foldl (fun v q => State.untold_eventTo v e q) _ u).trans (hu.trans ht)

/-- An event only tells (R470-R473). -/
@[simp] theorem State.untold_raise (s : State) (code arg0 arg1 : Nat) : (s.raise code arg0 arg1).untold = s.untold :=
  State.untold_raiseAt s code _ arg0 arg1

/-! ### Completion records -/

@[simp] theorem State.untold_toRing (s : State) (q : Session) (via : Option Nat) (r : Rec) : (s.toRing q via r).untold = s.untold := by
  unfold State.toRing
  dsimp only
  split
  · simp
  · split
    · split <;> simp
    · split <;> simp [State.untold_bump64]

@[simp] theorem State.untold_record (s : State) (h : Hnd) (r : Rec) : (s.record h r).untold = s.untold := by
  unfold State.record
  split
  · exact State.untold_bump64 (by decide) s 1
  · extract_lets q mode t u
    have hu : u.untold = s.untold := by
      unfold u
      split <;> simp [t]
    split
    · exact hu
    · split
      · exact hu
      · simpa using hu

/-- A completion only tells (R453). -/
@[simp] theorem State.untold_complete? (s : State) (h : Option Hnd) (status : Nat) (r : List Nat) :
    (s.complete? h status r).untold = s.untold := by
  cases h with
  | none => rfl
  | some h => exact State.untold_record s h _

/-! ### What a message, an event and a completion leave -/

section
variable (s : State)

@[simp] theorem State.ckpt_sendClass1 (dst tag step word value : Nat) (data : List Byte) :
    (s.sendClass1 dst tag step word value data).ckpt = s.ckpt := State.ckpt_of_untold (State.untold_sendClass1 s dst tag step word value data)

theorem State.o_sendClass1 {k : Nat} (hk : k < 0x910000) (dst tag step word value : Nat) (data : List Byte) :
    (s.sendClass1 dst tag step word value data).o k = s.o k := State.o_of_untold (State.untold_sendClass1 s dst tag step word value data) hk

@[simp] theorem State.ckpt_raise (code arg0 arg1 : Nat) : (s.raise code arg0 arg1).ckpt = s.ckpt :=
  State.ckpt_of_untold (State.untold_raise s code arg0 arg1)

theorem State.o_raise {k : Nat} (hk : k < 0x910000) (code arg0 arg1 : Nat) : (s.raise code arg0 arg1).o k = s.o k :=
  State.o_of_untold (State.untold_raise s code arg0 arg1) hk

@[simp] theorem State.ckpt_complete? (h : Option Hnd) (status : Nat) (r : List Nat) : (s.complete? h status r).ckpt = s.ckpt :=
  State.ckpt_of_untold (State.untold_complete? s h status r)

theorem State.o_complete? {k : Nat} (hk : k < 0x910000) (h : Option Hnd) (status : Nat) (r : List Nat) :
    (s.complete? h status r).o k = s.o k := State.o_of_untold (State.untold_complete? s h status r) hk

end

end Sys2Proof.Machine
end

