-- ==== Sys2Proof/Proofs/CheckpointEvents.lean ====
section
/-! PROOF of O32. The part of a shard: the block that is next is placed (`codeBlock_placed`), an acknowledgement writes what follows
(`shardAck_index`, `shardAck_header`) or completes the shard, and a failed write fails it. The part of the root's cut: what ends it leaves
every entry but a few as it was. A shard that ends at the root may end the root's cut with it, and the end of that cut starts the CHECKPOINT that
waits: `ShardsRest` says that all this begins no shard and which entries it may set. -/

namespace Sys2Proof.Machine

section
variable {s₀ s : State} {h : Shard} {b : Nat × Nat} {l : List (Nat × Nat)} {m : Msg}

/-! ### Messages and answers -/

/-- A message that the module hears acts. -/
theorem State.onMsg_acts (hm : s.hears m) (f : State → State) : s.onMsg m f = .next (f s) := by
  obtain ⟨hport, hup, hlink, hjob, hclean⟩ := hm
  have hon : (!s.hubUp || (decide (m.port ≠ ownPort) && decide (s.linkState m.port ≠ lsActive))) = false := by
    rcases hlink with hown | hactive
    · simp [hup, hown, ownPort]
    · simp [hup, hactive, lsActive]
  rw [State.onMsg, if_neg (show ¬ ownPort < m.port from Nat.not_lt.2 hport), hon, if_neg Bool.false_ne_true, if_neg (not_not_intro hjob),
    hclean, if_neg Bool.false_ne_true]

/-- The state once a write to storage has been answered, with the writes that are still out. -/
abbrev State.setWrites (s : State) (ws : List StoreWrite) : State := { s with ckpt := { s.ckpt with writes := ws } }

/-- What the acknowledgement of a write leads to (R379, R385). -/
def State.acked (s : State) : StoreFor → State
  | .shard => s.shardAck
  | .entries => s.writeHeader
  | .header => s.completeCut
  | .invalidation => s

section
variable {n : Nat} {what : StoreFor} {ws : List StoreWrite}

theorem State.answerWrite_live {p : StoreWrite → Bool} {w : StoreWrite} (hw : takeWrite p s.ckpt.writes = some (w, ws)) (hlive : w.live = true)
    (f : State → StoreFor → State) : s.answerWrite p f = f (s.setWrites ws) w.what := by
  simp only [State.answerWrite, hw, hlive, if_true]

theorem State.onStorage_up (hup : s.hubUp = true) (hn : n < 8) (f : State → State) : s.onStorage n f = .next (f s) := by
  rw [State.onStorage, if_neg (Nat.not_le.2 hn), if_pos hup]

/-- STORAGE_WRITE_ACK is the acknowledgement of the oldest write of the record (log 69). -/
theorem exec_storageWriteAck (hup : s.hubUp = true) (hn : n < 8)
    (hw : takeWrite (fun w => decide (w.record = n ∧ w.what ≠ .invalidation)) s.ckpt.writes =
      some ({ record := n, what := what, live := true }, ws)) :
    exec (.storageWriteAck n) s = .next ((s.setWrites ws).acked what) := by
  change execStorageWriteAck n s = _
  rw [execStorageWriteAck, State.onStorage_up hup hn, State.answerWrite_live hw rfl]
  cases what <;> rfl

/-- STORAGE_WRITE_FAILURE of a write of the shard fails the shard. -/
theorem exec_storageWriteFailure_shard (hup : s.hubUp = true) (hn : n < 8)
    (hw : takeWrite (fun w => decide (w.record = n)) s.ckpt.writes = some ({ record := n, what := .shard, live := true }, ws)) :
    exec (.storageWriteFailure n) s = .next (((s.setWrites ws).failShard 2).nextShard).settleHeld := by
  change execStorageWriteFailure n s = _
  rw [execStorageWriteFailure, State.onStorage_up hup hn, State.answerWrite_live hw rfl]

/-- STORAGE_WRITE_FAILURE of a write of the root's cut fails the cut. -/
theorem exec_storageWriteFailure_cut (hup : s.hubUp = true) (hn : n < 8) (hwhat : what ≠ .shard)
    (hw : takeWrite (fun w => decide (w.record = n)) s.ckpt.writes = some ({ record := n, what := what, live := true }, ws)) :
    exec (.storageWriteFailure n) s = .next ((s.setWrites ws).failCut 2).settleHeld := by
  change execStorageWriteFailure n s = _
  rw [execStorageWriteFailure, State.onStorage_up hup hn, State.answerWrite_live hw rfl]
  cases what with
  | shard => exact absurd rfl hwhat
  | invalidation | entries | header => rfl

end

/-! ### A block of the shard -/

theorem SMap.has_ins {α : Type} (j k : Nat) (v : α) (r : SMap α) : SMap.has j (SMap.ins k v r) = (decide (j = k) || SMap.has j r) := by
  induction r with
  | nil => by_cases hjk : j = k <;> simp [SMap.ins, SMap.has, hjk, Ne.symm]
  | cons e r ih =>
    obtain ⟨i, w⟩ := e
    simp only [SMap.ins]
    split
    · by_cases hi : i = j <;> simp [SMap.has, ih, hi]
    · split
      · subst i; by_cases hjk : j = k <;> simp [SMap.has, hjk, Ne.symm]
      · by_cases hjk : k = j <;> simp [SMap.has, hjk, Ne.symm]

/-- The shard that streams. -/
abbrev State.setShard (s : State) (h : Shard) : State := { s with ckpt := { s.ckpt with shard := some h } }

/-- A shard whose next block has been read, with the blocks still to be read (R376). -/
def Shard.coded (h : Shard) (l : List (Nat × Nat)) (raw : List Byte) : Shard :=
  { h with blocks := l, raw := SMap.ins h.written.length raw h.raw }

/-- A shard whose next block goes out in the stored form `data` (R379). -/
def Shard.placed (h : Shard) (data : List Byte) : Shard :=
  { h with written := h.written ++ [(h.offset, data.length)], offset := h.offset + data.length }

/-- A block that has not been read is not written. -/
theorem State.placeBlocks_unread (hread : SMap.has h.written.length h.raw = false) (fuel : Nat) :
    s.placeBlocks h fuel = s.setShard h := by
  cases fuel with
  | zero => rfl
  | succ fuel => simp only [State.placeBlocks, hread, Bool.false_eq_true, if_false]

/-- A block that has been read is written through its record, and none after it, where the next has not been read. -/
theorem State.placeBlocks_read (hread : SMap.has h.written.length h.raw = true) (hnext : SMap.has (h.written.length + 1) h.raw = false)
    (hconn : s.connected (h.records.getD (h.written.length % h.records.length) 0) = true) (fuel : Nat) :
    s.placeBlocks h (fuel + 1) =
      let data := storedBlock h.written.length (SMap.get [] h.written.length h.raw)
      (s.storeWrite .shard (h.records.getD (h.written.length % h.records.length) 0) (h.addr + h.offset) data).setShard (h.placed data) := by
  simp only [State.placeBlocks, hread, hconn, if_true, Bool.not_true, Bool.false_eq_true, if_false]
  exact State.placeBlocks_unread (by simpa using hnext) fuel

/-- Releasing a pin changes granule records alone. -/
theorem State.unpinBlock_onlyMem (s : State) (c : Nat) (b : Nat × Nat) :
    State.unpinBlock c s b = { s with mem := (State.unpinBlock c s b).mem } := by
  unfold State.unpinBlock
  split <;> rfl

theorem State.ckpt_unpinBlock (c : Nat) (b : Nat × Nat) : (State.unpinBlock c s b).ckpt = s.ckpt := by
  rw [State.unpinBlock_onlyMem]

theorem State.out_unpinBlock (c : Nat) (b : Nat × Nat) : (State.unpinBlock c s b).out = s.out := by
  rw [State.unpinBlock_onlyMem]

theorem State.obj_unpinBlock (c : Nat) (b : Nat × Nat) : (State.unpinBlock c s b).obj = s.obj := by
  rw [State.unpinBlock_onlyMem]

theorem State.connected_unpinBlock (c : Nat) (b : Nat × Nat) (n : Nat) : (State.unpinBlock c s b).connected n = s.connected n := by
  rw [State.unpinBlock_onlyMem]
  rfl

theorem State.foldl_unpinBlock (c : Nat) (l : List (Nat × Nat)) (s : State) :
    (l.foldl (State.unpinBlock c) s).ckpt = s.ckpt ∧ (l.foldl (State.unpinBlock c) s).obj = s.obj := by
  induction l generalizing s with
  | nil => exact ⟨rfl, rfl⟩
  | cons b l ih =>
    obtain ⟨hckpt, hobj⟩ := ih (State.unpinBlock c s b)
    exact ⟨hckpt.trans (State.ckpt_unpinBlock c b), hobj.trans (State.obj_unpinBlock c b)⟩

/-- A granule's pin of the cut goes (R376). -/
theorem State.unpinBlock_cutPin (c : Nat) (hb : b.2 ≠ 2) :
    ((State.unpinBlock c s b).gran b.1).cutPin = (s.gran b.1).cutPin.erase (c, b.2) := by
  rw [State.unpinBlock, if_neg hb, State.gran, State.setGran, SMap.get_put_self]

/-- While a shard streams, the next one waits. -/
theorem State.nextShard_streaming (hs : s.ckpt.shard = some h) : s.nextShard = s := by
  simp only [State.nextShard, hs]

theorem State.nextShard_noneWaits (hq : s.ckpt.queued = []) : s.nextShard = s := by
  cases hs : s.ckpt.shard <;> simp only [State.nextShard, hs, hq]

/-- The shard's block that is next, read where it is sound and needs no repair, is the one block that goes out (R376, R379). -/
theorem State.codeBlock_placed (hrepair : s.mirror.repairs.contains b = false) (hsound : b.2 = 2 ∨ s.hbmHit (s.slotAddr b.1 b.2) mib = false)
    (hnum : s.blockNumber b = h.written.length) (hnext : SMap.has (h.written.length + 1) h.raw = false)
    (hconn : s.connected (h.records.getD (h.written.length % h.records.length) 0) = true) :
    s.codeBlock h b l =
      let data := storedBlock h.written.length (s.blockBytes b)
      ((s.unpinBlock h.step b).storeWrite .shard (h.records.getD (h.written.length % h.records.length) 0) (h.addr + h.offset) data).setShard
        ((h.coded l (s.blockBytes b)).placed data) := by
  have hhit : ¬ (decide (b.2 ≠ 2) && s.hbmHit (s.slotAddr b.1 b.2) mib) = true := by
    rcases hsound with h2 | hclean
    · simp [h2]
    · simp [hclean]
  have hplace := State.placeBlocks_read (s := s.unpinBlock h.step b) (h := h.coded l (s.blockBytes b)) (by simp [Shard.coded, SMap.has_ins])
    (by simpa [Shard.coded, SMap.has_ins] using hnext) ((State.connected_unpinBlock h.step b _).trans hconn)
    (h.coded l (s.blockBytes b)).raw.length
  rw [State.codeBlock, hrepair, if_neg Bool.false_ne_true, if_neg hhit, hnum]
  refine (congrArg State.nextShard hplace).trans ((State.nextShard_streaming rfl).trans ?_)
  simp only [Shard.coded, SMap.get_ins_self]

theorem exec_shardBlockCoded (hup : s.hubUp = true) (hs : s.ckpt.shard = some h) (hb : h.blocks = b :: l) :
    exec .shardBlockCoded s = .next (s.codeBlock h b l).settleHeld := by
  change execShardBlockCoded s = _
  simp only [execShardBlockCoded, hs, hb, hup, if_true]

/-! ### What follows the blocks -/

/-- An acknowledgement before the header's leads on, and the shard streams on. -/
theorem State.shardAck_streams {t : State} {g : Shard} (hs : s.ckpt.shard = some h) (hphase : h.phase ≠ 2) (ht : s.advanceShard = t)
    (hg : t.ckpt.shard = some g) : s.shardAck = t := by
  simp only [State.shardAck, hs, if_neg hphase, ht, State.nextShard_streaming hg]

/-- While blocks are to come or writes are out, nothing follows an acknowledgement. -/
theorem State.shardAck_waits (hs : s.ckpt.shard = some h) (hphase : h.phase ≠ 2) (hbusy : h.blocks ≠ [] ∨ s.ckpt.unacked ≠ 0) :
    s.shardAck = s := by
  refine State.shardAck_streams hs hphase ?_ hs
  simp only [State.advanceShard, hs]
  exact if_pos (hbusy.imp_right Or.inl)

section
variable (hs : s.ckpt.shard = some h) (hb : h.blocks = []) (hw : s.ckpt.unacked = 0) (hconn : s.connected (h.records.headD 0) = true)
include hs hb hw hconn

/-- After the last block the index (R379). -/
theorem State.shardAck_index (hphase : h.phase = 0) :
    s.shardAck = (s.setShard { h with phase := 1, stored := round64 (h.offset + 16 * h.written.length) }).storeWrite .shard
      (h.records.headD 0) (h.addr + h.offset) h.indexBytes := by
  refine State.shardAck_streams hs (by omega) ?_ rfl
  simp only [State.advanceShard, hs, hb, hw, hphase, hconn]
  rfl

/-- After the index the header (R379). -/
theorem State.shardAck_header (hphase : h.phase = 1) :
    s.shardAck = (s.setShard { h with phase := 2 }).storeWrite .shard (h.records.headD 0) h.addr
      (s.shardHeader { h with phase := 2 } h.digest) := by
  refine State.shardAck_streams hs (by omega) ?_ rfl
  simp only [State.advanceShard, hs, hb, hw, hphase, hconn]
  rfl

end

/-- After the header the shard is complete (R379). -/
theorem State.shardAck_complete (hs : s.ckpt.shard = some h) (hphase : h.phase = 2) : s.shardAck = s.completeShard h := by
  simp only [State.shardAck, hs, if_pos hphase]

/-! ### The root's cut -/

theorem State.o_congr {t : State} (hobj : t.obj = s.obj) (k : Nat) : t.o k = s.o k := by rw [State.o, State.o, hobj]

@[simp] theorem State.ckpt_settleCut (s : State) : s.settleCut.ckpt = s.ckpt := by
  unfold State.settleCut
  dsimp only
  split <;> rfl

theorem State.o_settleCut {k : Nat} (hk : k ≠ kCutState) (s : State) : s.settleCut.o k = s.o k := by
  unfold State.settleCut
  dsimp only
  split
  · rfl
  · exact State.o_put_ne hk s _

section
variable (s : State) (status : Nat) (r : List Nat)

/-- The end of a cut leaves every entry but CUT_STATE and the counters of records. -/
theorem State.o_endCut {k : Nat} (hk : k < 0x910000) (hne : k ≠ kCutState) : (s.endCut status r).o k = s.o k :=
  (State.o_complete? _ hk _ status r).trans (State.o_settleCut hne _)

theorem State.endCut_cutHnd : (s.endCut status r).ckpt.cutHnd = none := by simp [State.endCut, State.orphan]

theorem State.endCut_waitHnd : (s.endCut status r).ckpt.waitHnd = s.ckpt.waitHnd := by simp [State.endCut, State.orphan]

theorem State.endCut_shard (hs : s.ckpt.shard = none) : (s.endCut status r).ckpt.shard = none := by simp [State.endCut, State.orphan, hs]

theorem State.endCut_queued (hq : s.ckpt.queued = []) : (s.endCut status r).ckpt.queued = [] := by simp [State.endCut, State.orphan, hq]

/-- The end of a cut with no shard of the module's own left leaves CUT_STATE idle (R396). -/
theorem State.endCut_idle (hopen : s.ckpt.anyOpen = false) : (s.endCut status r).o kCutState = cutIdle := by
  obtain ⟨⟨hshard, hqueued⟩, hcuts⟩ : (s.ckpt.shard = none ∧ s.ckpt.queued = []) ∧ s.ckpt.cuts = [] := by
    simpa [Ckpt.anyOpen] using hopen
  rw [State.endCut, State.o_complete? _ (by decide)]
  simp [State.settleCut, State.orphan, Ckpt.ownOpen, Ckpt.anyOpen, hshard, hqueued, hcuts]

end

theorem State.nextCheckpoint_noneWaits (hw : s.ckpt.waitHnd = none) : s.nextCheckpoint = s := by
  cases hc : s.ckpt.cutHnd <;> simp only [State.nextCheckpoint, hc, hw]

/-- A cut that fails with no CHECKPOINT waiting: its cause stands at LAST_FAILURE, its handle is gone, and of the other entries only CUT_STATE and
the counters of events and records may have changed (R389). -/
theorem State.failCut_noneWaits (hc : s.ckpt.cutHnd.isSome = true) (hw : s.ckpt.waitHnd = none) (cause : Nat) :
    (s.failCut cause).o 0x50620A = cause ∧ (s.failCut cause).ckpt.cutHnd = none ∧
      ∀ k < 0x910000, k ≠ kCutState → k ≠ 0x50620A → (s.failCut cause).o k = s.o k := by
  have hfail : s.failCut cause = ((s.put 0x50620A cause).raise 0x0404 cause (s.o kCutSlot)).endCut stFault [cause] := by
    rw [State.failCut, if_neg (Option.isSome_iff_ne_none.1 hc)]
    exact State.nextCheckpoint_noneWaits (by rw [State.endCut_waitHnd, State.ckpt_raise]; exact hw)
  rw [hfail]
  refine ⟨?_, State.endCut_cutHnd _ _ _, fun k hk hstate hcause => ?_⟩
  · rw [State.o_endCut _ _ _ (by decide) (by decide), State.o_raise _ (by decide), State.o_put_self]
  · rw [State.o_endCut _ _ _ hk hstate, State.o_raise _ hk, State.o_put_ne hcause]

/-- A cut that is complete with no CHECKPOINT waiting and no shard of the module's own left (R385). -/
theorem State.completeCut_noneWaits (hw : s.ckpt.waitHnd = none) (hopen : s.ckpt.anyOpen = false) :
    s.completeCut.o 0x506204 = s.o kCutStep ∧ s.completeCut.o kLastCompleteSlot = s.o kCutSlot ∧ s.completeCut.ckpt.cutHnd = none ∧
      s.completeCut.o kCutState = cutIdle := by
  have hdone : s.completeCut = ((s.put 0x506204 (s.o kCutStep)).put kLastCompleteSlot (s.o kCutSlot)).endCut stDone
      [s.o kCutStep % 2 ^ 32, s.o kCutStep / 2 ^ 32, s.o kCutSlot] :=
    State.nextCheckpoint_noneWaits ((State.endCut_waitHnd _ _ _).trans hw)
  rw [hdone]
  refine ⟨?_, ?_, State.endCut_cutHnd _ _ _, State.endCut_idle _ _ _ hopen⟩
  · rw [State.o_endCut _ _ _ (by decide) (by decide), State.o_put_ne (by decide), State.o_put_self]
  · rw [State.o_endCut _ _ _ (by decide) (by decide), State.o_put_self]

/-! ### No shard begins -/

/-- From s₀ to s no shard has begun to stream or to wait, and of the entries only CUT_STATE, CUT_SLOT, LAST_FAILURE and the counters of events and
records may have changed. -/
structure ShardsRest (s₀ s : State) : Prop where
  shard : s₀.ckpt.shard = none → s.ckpt.shard = none
  queued : s₀.ckpt.queued = [] → s.ckpt.queued = []
  entry : ∀ k < 0x910000, k ∉ [kCutState, kCutSlot, 0x50620A] → s.o k = s₀.o k

theorem ShardsRest.refl (s : State) : ShardsRest s s := ⟨id, id, fun _ _ _ => rfl⟩

theorem ShardsRest.ite {c : Prop} [Decidable c] {t u : State} (ht : ShardsRest s₀ t) (hu : ShardsRest s₀ u) :
    ShardsRest s₀ (if c then t else u) := by
  split <;> assumption

theorem ShardsRest.put {k : Nat} (hs : ShardsRest s₀ s) (hk : k ∈ [kCutState, kCutSlot, 0x50620A]) (v : Nat) : ShardsRest s₀ (s.put k v) :=
  ⟨hs.shard, hs.queued, fun j hj hne => (State.o_put_ne (by rintro rfl; exact hne hk) s v).trans (hs.entry j hj hne)⟩

theorem ShardsRest.untold {t : State} (hs : ShardsRest s₀ s) (ht : t.untold = s.untold) : ShardsRest s₀ t :=
  ⟨fun h => State.ckpt_of_untold ht ▸ hs.shard h, fun h => State.ckpt_of_untold ht ▸ hs.queued h,
    fun k hk hne => (State.o_of_untold ht hk).trans (hs.entry k hk hne)⟩

/-- A state that differs only in other fields. -/
theorem ShardsRest.congr {t : State} (hs : ShardsRest s₀ s) (hshard : t.ckpt.shard = s.ckpt.shard) (hqueued : t.ckpt.queued = s.ckpt.queued)
    (hobj : t.obj = s.obj) : ShardsRest s₀ t :=
  ⟨fun h => hshard.trans (hs.shard h), fun h => hqueued.trans (hs.queued h), fun k hk hne => (State.o_congr hobj k).trans (hs.entry k hk hne)⟩

theorem ShardsRest.storeWrite {what : StoreFor} {record addr : Nat} {data : List Byte} (hs : ShardsRest s₀ s) :
    ShardsRest s₀ (s.storeWrite what record addr data) := hs.congr rfl rfl rfl

theorem ShardsRest.settleCut (hs : ShardsRest s₀ s) : ShardsRest s₀ s.settleCut := .ite hs (hs.put (by decide) _)

theorem ShardsRest.endCut {status : Nat} {r : List Nat} (hs : ShardsRest s₀ s) : ShardsRest s₀ (s.endCut status r) :=
  ⟨fun h => State.endCut_shard s status r (hs.shard h), fun h => State.endCut_queued s status r (hs.queued h),
    fun k hk hne => (State.o_endCut s status r hk (by rintro rfl; exact hne (by decide))).trans (hs.entry k hk hne)⟩

theorem ShardsRest.raise {code arg0 arg1 : Nat} (hs : ShardsRest s₀ s) : ShardsRest s₀ (s.raise code arg0 arg1) :=
  hs.untold (State.untold_raise s code arg0 arg1)

theorem ShardsRest.invalidateManifest {h : Hnd} (hs : ShardsRest s₀ s) : ShardsRest s₀ (s.invalidateManifest h) := by
  unfold State.invalidateManifest
  extract_lets slot src s1 s2
  have h1 : ShardsRest s₀ s1 := hs.congr rfl rfl rfl
  have h2 : ShardsRest s₀ s2 := (h1.put (k := kCutState) (by decide) _).put (k := kCutSlot) (by decide) _
  split
  · exact (h2.put (k := 0x50620A) (by decide) _).raise.endCut
  · exact h2.storeWrite

theorem ShardsRest.nextCheckpoint (hs : ShardsRest s₀ s) : ShardsRest s₀ s.nextCheckpoint := by
  unfold State.nextCheckpoint
  split
  · exact .invalidateManifest (hs.congr rfl rfl rfl)
  · exact hs

theorem ShardsRest.failCut {cause : Nat} (hs : ShardsRest s₀ s) : ShardsRest s₀ (s.failCut cause) :=
  .ite hs (hs.put (by decide) _).raise.endCut.nextCheckpoint

theorem ShardsRest.gather (hs : ShardsRest s₀ s) : ShardsRest s₀ s.gather := by
  refine .ite ?_ hs
  unfold State.writeManifest
  extract_lets c slot
  split
  · exact hs.failCut
  · exact (hs.put (by decide) _).storeWrite

/-- The report of the module's own shard, at the root too (R384, R385, R389). -/
theorem ShardsRest.reportShard {old : Bool} {r : ShardRep} (hs : ShardsRest s₀ s) : ShardsRest s₀ (s.reportShard old r) := by
  have hreport : ShardsRest s₀ (s.shardReport r) := by
    unfold State.shardReport
    extract_lets rs
    exact .ite hs (.ite hs.failCut (.ite hs.failCut (.gather (hs.congr rfl rfl rfl))))
  exact .ite (.ite hs hreport) (hs.untold (State.untold_sendClass1 s _ _ _ _ _ _))

/-! ### The shard ends -/

theorem State.lastFailure_invalidateManifest (hs : s.o 0x50620A = 2) (h : Hnd) : (s.invalidateManifest h).o 0x50620A = 2 := by
  unfold State.invalidateManifest
  extract_lets slot src s1 s2
  split
  · rw [State.o_endCut _ _ _ (by decide) (by decide), State.o_raise _ (by decide), State.o_put_self]
  · exact (State.o_put_ne (by decide) _ slot).trans ((State.o_put_ne (by decide) s1 _).trans hs)

theorem State.lastFailure_nextCheckpoint (hs : s.o 0x50620A = 2) : s.nextCheckpoint.o 0x50620A = 2 := by
  unfold State.nextCheckpoint
  split
  · refine State.lastFailure_invalidateManifest ?_ _
    exact (State.o_congr (s := s) rfl _).trans hs
  · exact hs

/-- The root's cut that fails with cause 2 leaves cause 2 at LAST_FAILURE, whatever the CHECKPOINT that waited for it meets. -/
theorem State.lastFailure_failCut (hs : s.o 0x50620A = 2) : (s.failCut 2).o 0x50620A = 2 := by
  unfold State.failCut
  split
  · exact hs
  · refine State.lastFailure_nextCheckpoint ?_
    rw [State.o_endCut _ _ _ (by decide) (by decide), State.o_raise _ (by decide), State.o_put_self]

theorem State.lastFailure_reportShard {r : ShardRep} (hs : s.o 0x50620A = 2) (hr : r.cause = 2) (old : Bool) :
    (s.reportShard old r).o 0x50620A = 2 := by
  unfold State.reportShard
  split
  · split
    · exact hs
    · unfold State.shardReport
      split
      · exact hs
      · rw [if_pos (by rw [hr]; decide), hr]
        exact State.lastFailure_failCut hs
  · rw [State.o_sendClass1 _ (by decide)]
    exact hs

/-- A shard that no longer streams has failed with cause 2. -/
theorem State.shardFailed_two (hs : s.ckpt.shard = none) (hq : s.ckpt.queued = []) (h : Shard) :
    (s.shardFailed h 2).ckpt.shard = none ∧ (s.shardFailed h 2).ckpt.queued = [] ∧ (s.shardFailed h 2).o 0x50620A = 2 ∧
      (s.shardFailed h 2).o 0x506209 = (s.o 0x506209 + 1) % 2 ^ 32 := by
  obtain ⟨hckpt, hobj⟩ := State.foldl_unpinBlock h.step h.blocks s
  unfold State.shardFailed
  extract_lets t u
  have hu : u.ckpt = s.ckpt := by rw [State.ckpt_settleCut, State.ckpt_raise]; exact hckpt
  have hcause : u.o 0x50620A = 2 := by
    rw [State.o_settleCut (by decide), State.o_raise _ (by decide), State.o_put_self]
  have hcount : u.o 0x506209 = (s.o 0x506209 + 1) % 2 ^ 32 := by
    rw [State.o_settleCut (by decide), State.o_raise _ (by decide), State.o_put_ne (by decide), State.bump32, State.o_put_self,
      State.o_congr hobj]
  have hrest := (ShardsRest.refl u).reportShard (old := h.old)
    (r := { coord := u.coord, step := h.step, cause := 2, slot := h.slot, stored := 0, content := 0, digest := 0 })
  rw [if_neg (by decide)]
  exact ⟨hrest.shard (hu ▸ hs), hrest.queued (hu ▸ hq), State.lastFailure_reportShard hcause rfl _,
    (hrest.entry _ (by decide) (by decide)).trans hcount⟩

/-- The shard that streams, with none waiting, fails with cause 2. -/
theorem State.failShard_two (hs : s.ckpt.shard = some h) (hq : s.ckpt.queued = []) :
    (s.failShard 2).nextShard.ckpt.shard = none ∧ (s.failShard 2).nextShard.o 0x50620A = 2 ∧
      (s.failShard 2).nextShard.o 0x506209 = (s.o 0x506209 + 1) % 2 ^ 32 := by
  let t : State := ({ s with ckpt := { s.ckpt with shard := none } } : State).orphan (fun w => decide (w = .shard))
  have hfail : s.failShard 2 = t.shardFailed h 2 := by simp only [State.failShard, hs]; rfl
  obtain ⟨hshard, hqueued, hcause, hcount⟩ := State.shardFailed_two (s := t) rfl hq h
  rw [hfail, State.nextShard_noneWaits hqueued]
  exact ⟨hshard, hcause, hcount⟩

/-- The shard that streams, with none waiting, is complete (R379, R396). -/
theorem State.completeShard_noneWaits (hq : s.ckpt.queued = []) (h : Shard) :
    (s.completeShard h).ckpt.shard = none ∧ (s.completeShard h).o 0x506206 = h.stored ∧
      (s.completeShard h).o 0x506208 = (s.o 0x506208 + 1) % 2 ^ 32 := by
  unfold State.completeShard
  extract_lets src t u
  have hu : u.ckpt = t.ckpt := State.ckpt_settleCut _
  have hrest := (ShardsRest.refl u).reportShard (old := h.old)
    (r := { coord := u.coord, step := h.step, cause := 0, slot := h.slot, stored := h.stored, content := h.content, digest := h.digest })
  rw [State.nextShard_noneWaits (hrest.queued (hu ▸ hq))]
  refine ⟨hrest.shard (hu ▸ rfl), (hrest.entry _ (by decide) (by decide)).trans ?_, (hrest.entry _ (by decide) (by decide)).trans ?_⟩
  · rw [State.o_settleCut (by decide), State.bump32, State.o_put_ne (by decide), State.o_put_self]
  · rw [State.o_settleCut (by decide), State.bump32, State.o_put_self, State.o_put_ne (by decide)]
    rfl

/-! ### Reports, the late gather, and the zeroed manifest header -/

/-- The entries of the manifest are followed by its header (R385). -/
theorem State.writeHeader_out {record : Nat} {l : List Nat} (ht : s.targets = record :: l) :
    s.writeHeader.out =
      s.out ++ [.storageWrite record (targetSlotAddr (s.target record) (s.o kCutSlot)) (s.manifestHeader (s.o kCutStep) (s.o kCutSlot))] := by
  simp only [State.writeHeader, ht]
  rfl

section
variable (hc : s.ckpt.cutHnd.isSome = true) (hstate : s.o kCutState = cutStreaming ∨ s.o kCutState = cutGathering)
include hc hstate

/-- While the root's cut streams or gathers, the root takes reports. -/
theorem State.takesReports : ¬ (s.ckpt.cutHnd = none ∨ s.o kCutState < cutStreaming ∨ s.o kCutState = cutManifest) := by
  have hopen := Option.isSome_iff_ne_none.1 hc
  rcases hstate with h | h <;> simp [h, hopen, cutStreaming, cutGathering, cutManifest]

/-- A report with a cause fails the cut (R389). -/
theorem State.shardReport_cause {r : ShardRep} (hr : r.cause ≠ 0) : s.shardReport r = s.failCut r.cause := by
  rw [State.shardReport, if_neg (State.takesReports hc hstate), if_pos hr]

/-- A good report that is not the last is kept, in place of an older one of its module (R385). -/
theorem State.shardReport_kept {r : ShardRep} (hr : r.cause = 0) (hstep : r.step = s.o kCutStep)
    (hmore : (s.ckpt.reports.filter (fun e => decide (e.coord ≠ r.coord))).length + 1 < s.jobModules) :
    s.shardReport r =
      { s with ckpt := { s.ckpt with reports := s.ckpt.reports.filter (fun e => decide (e.coord ≠ r.coord)) ++ [r] } } := by
  rw [State.shardReport, if_neg (State.takesReports hc hstate), if_neg (not_not_intro hr), if_neg (not_not_intro hstep)]
  refine if_neg fun hall => ?_
  have hlen : (s.ckpt.reports.filter (fun e => decide (e.coord ≠ r.coord)) ++ [r]).length = s.jobModules := hall.2.1
  rw [List.length_append, List.length_singleton] at hlen
  omega

/-- A gather that is late fails the cut (R389). -/
theorem exec_gatherTimeout (hup : s.hubUp = true) (hroot : s.isRoot = true) : exec .gatherTimeout s = .next (s.failCut 8) := by
  change execGatherTimeout s = _
  rw [execGatherTimeout, hup, hroot, if_neg (by decide), if_pos ⟨hc, hstate⟩]

end

theorem exec_shardReport (hm : s.hears m) (hroot : s.isRoot = true) :
    exec (.shardReport m) s = .next (s.shardReport
      { coord := m.coord.toNat, step := m.step.toNat, cause := bits m.word.toNat 0 8, slot := bits m.word.toNat 8 1, stored := m.value.toNat
        content := fieldAt m.data 0 8, digest := BitVec.ofNat 512 (fieldAt m.data 8 64) }) := by
  change execShardReport m s = _
  rw [execShardReport, State.onMsg_acts hm, hroot]
  rfl

/-- The zeroed manifest header lets the cut be declared, which a module that does not stand STOPPED does not do at once (R374). -/
theorem exec_manifestInvalidated {w : StoreWrite} {ws : List StoreWrite} (hup : s.hubUp = true) (hlive : w.live = true)
    (hw : takeWrite (fun w => decide (w.what = .invalidation)) s.ckpt.writes = some (w, ws)) (hrun : s.mstate ≠ .stopped) :
    exec .manifestInvalidated s = .next { s with ckpt := { s.ckpt with writes := ws, invalidated := true } } := by
  change execManifestInvalidated s = _
  rw [execManifestInvalidated, if_pos hup, State.answerWrite_live hw hlive]
  exact congrArg Host.Outcome.next (if_neg fun h => hrun h.1)

end

/-- Settles O32: each event of a checkpoint has one path, and what a shard or a cut leaves behind as it ends is read off that path. -/
theorem checkpointEvents : Obligations.CheckpointEvents := by
  unfold Obligations.CheckpointEvents
  intro s n m hup hn
  refine ⟨fun h b l hs hb hrepair hsound hnum hnext => ?block, fun h ws hs hq => ⟨?waits, ?index, ?header, ?complete, ?shardFails⟩,
    fun ws hc hw => ⟨?entries, ?manifest, ?cutFails⟩, fun hm hroot hc hw hstate => ⟨?cause, ?report, ?late⟩, ?invalidated⟩
  case block =>
    intro data record hconn
    have hplaced := State.codeBlock_placed (l := l) hrepair hsound hnum hnext hconn
    refine ⟨_, (exec_shardBlockCoded hup hs hb).trans (congrArg (fun t : State => Host.Outcome.next t.settleHeld) hplaced), ?_, ?_,
      ⟨_, rfl, rfl, rfl, rfl⟩, State.unpinBlock_cutPin h.step⟩
    · exact congrArg (· ++ _) (State.out_unpinBlock h.step b)
    · exact congrArg (fun k : Ckpt => k.writes ++ _) (State.ckpt_unpinBlock h.step b)
  case waits =>
    intro ack hphase hbusy
    exact (exec_storageWriteAck hup hn ack).trans (congrArg Host.Outcome.next (State.shardAck_waits (s := s.setWrites ws) hs hphase hbusy))
  case index =>
    intro ack hphase hb hacked hconn
    have hgo := State.shardAck_index (s := s.setWrites ws) hs hb hacked hconn hphase
    exact ⟨_, _, (exec_storageWriteAck hup hn ack).trans (congrArg Host.Outcome.next hgo), rfl, rfl, rfl, rfl⟩
  case header =>
    intro ack hphase hb hacked hconn
    have hgo := State.shardAck_header (s := s.setWrites ws) hs hb hacked hconn hphase
    exact ⟨_, (exec_storageWriteAck hup hn ack).trans (congrArg Host.Outcome.next hgo), rfl, rfl⟩
  case complete =>
    intro ack hphase
    have hgo := State.shardAck_complete (s := s.setWrites ws) hs hphase
    exact ⟨_, (exec_storageWriteAck hup hn ack).trans (congrArg Host.Outcome.next hgo),
      State.completeShard_noneWaits (s := s.setWrites ws) hq h⟩
  case shardFails =>
    intro fail
    exact ⟨_, exec_storageWriteFailure_shard hup hn fail, State.failShard_two hs hq⟩
  case entries =>
    intro record l ack htargets
    exact ⟨_, exec_storageWriteAck hup hn ack, State.writeHeader_out htargets⟩
  case manifest =>
    intro ack hopen
    exact ⟨_, exec_storageWriteAck hup hn ack, State.completeCut_noneWaits hw hopen⟩
  case cutFails =>
    intro what hwhat fail
    obtain ⟨hcause, hgone, hrest⟩ := State.failCut_noneWaits (s := s.setWrites ws) hc hw 2
    exact ⟨_, exec_storageWriteFailure_cut hup hn hwhat fail, hcause, hgone, hrest _ (by decide) (by decide) (by decide)⟩
  case cause =>
    intro hcause
    obtain ⟨hfail, hgone, -⟩ := State.failCut_noneWaits hc hw (bits m.word.toNat 0 8)
    exact ⟨_, (exec_shardReport hm hroot).trans (congrArg Host.Outcome.next (State.shardReport_cause hc hstate hcause)), hfail, hgone⟩
  case report =>
    intro hcause hstep hmore
    exact ⟨_, _, (exec_shardReport hm hroot).trans (congrArg Host.Outcome.next (State.shardReport_kept hc hstate hcause hstep hmore)),
      rfl, rfl, rfl, rfl, hcause⟩
  case late =>
    obtain ⟨hfail, hgone, -⟩ := State.failCut_noneWaits hc hw 8
    exact ⟨_, exec_gatherTimeout hc hstate hup hroot, hfail, hgone⟩
  case invalidated =>
    intro record ws hw hrun
    exact exec_manifestInvalidated hup rfl hw hrun

end Sys2Proof.Machine
end

