-- ==== Sys2Proof/Proofs/RestoreEvents.lean ====
section
/-! PROOF of O33, refuted. The statement speaks of every state, also of one that no run reaches, in which a replay holds a core of a number that
no grade has: CORE_LOGICAL of core 0x1001 is LAST_FIXED, since `kCore 0x1001 2 = kLastFixed`. A restore from storage reads the histories back from
their region; a hit there is one in a fixed slot that no mirror repairs (R39, R199), so that RESTORE_END with DONE, which has set LAST_FIXED to its
step, halts the module. The halt ends the replay, its core becomes a SPARE without a logical number, and LAST_FIXED reads 0xFFFF. -/

namespace Sys2Proof.Machine

/-- A running replay on core 0x1001. -/
def replayPastGrade : Replay := { newReplay 3 0 .first with cores := [(0, 0x1001)], running := true }

/-- A restore of step 4 from storage that has been reported. -/
def restoreOfFour : Restore :=
  { step := 4, slot := 1, hnd := none, source := srcStorage, records := [], phase := 4, next := 0, hdr := [], index := [], status := stDone }

/-- Module (0, 0, 1) with the restore and the replay, under an image with one declaration in history mode. -/
def historyRestored : State :=
  { State.reset.put 0x102103 1 with
      mstate := .recovering
      image := some { (default : Image) with scales := [{ (default : Scale) with mode := 2 }] }
      ckpt := { Ckpt.empty with restore := some restoreOfFour }
      ledger := { Ledger.empty with queue := [replayPastGrade] } }

/-- The same with a poisoned line in the fixed slot of the history region's granule. -/
def historyHit : State :=
  { historyRestored with
      mem := { Mem.empty with poison := [historyRestored.slotAddr historyRestored.historyBase 0 / 64] } }

/-- RESTORE_END(4, DONE) of the root. -/
def restoreDoneFour : Msg :=
  { port := 6, coord := 0, jobId := 0, msgId := 0, step := 4, word := 0, value := 0, data := [], poisoned := false }

/-- LAST_FIXED once an instruction has run. -/
def lastFixedAfter (i : Instr) (s : State) : Option Nat := match exec i s with
  | .next t => some t.lastFixed
  | _ => none

theorem lastFixedAfter_eq {i : Instr} {s t : State} (h : exec i s = .next t) : lastFixedAfter i s = some t.lastFixed := by
  simp only [lastFixedAfter, h]

/-- The module takes the RESTORE_END as its first copy. -/
theorem historyHit_hearsFirst : historyHit.hearsFirst restoreDoneFour 0xF006 := by
  unfold State.hearsFirst State.hears
  decide +kernel

/-- The halt that the hit brings leaves 0xFFFF at LAST_FIXED. -/
theorem historyHit_restoreEnd : lastFixedAfter (.restoreEnd restoreDoneFour) historyHit = some 0xFFFF := by decide +kernel

/-- Refutes O33: where a replay holds core 0x1001 and the history region, as restored from storage, reads with a hit, RESTORE_END(4, DONE) does
not leave step 4 the last fixed one. -/
theorem not_restoreEvents : ¬ Obligations.RestoreEvents := by
  unfold Obligations.RestoreEvents
  intro h
  obtain ⟨-, -, restoreEnd⟩ := h historyHit restoreOfFour rfl
  obtain ⟨done, -⟩ := restoreEnd restoreDoneFour historyHit_hearsFirst rfl rfl rfl rfl rfl
  obtain ⟨t, ht, fixed, -⟩ := done rfl
  have after := (lastFixedAfter_eq ht).symm.trans historyHit_restoreEnd
  rw [fixed] at after
  exact absurd after (by decide)

end Sys2Proof.Machine
end
